-- ==== Sys2Proof/Word.lean ====
section
/-! DEFINITION. The word types of the engine and the plainest containers: bytes, 32-bit words, the 64-byte line
that every memory and link of the engine moves, and the sparse table every array-like piece of state uses. -/
namespace Sys2Proof

/-- One byte. -/
abbrev Byte := BitVec 8

/-- A 32-bit word: a scalar register, a CSR, a mailbox or host register. -/
abbrev W32 := BitVec 32

/-- A 64-byte line, byte 0 in the low bits (little-endian, as the manual's scope chapter states). -/
abbrev Line := BitVec 512

/-- An address register: SPACE in [47:44], OFFSET in [43:0] (R80). -/
abbrev Addr := BitVec 48

/-- A sparse table: pairs of an index and a value, indices strictly rising. What an unlisted index reads as is said
where the table is declared. The operations that keep that form stand in `Machine/Ops.lean`. -/
abbrev Tab (α : Type) := List (Nat × α)

/-- A byte memory: a table of bytes with no byte equal to 0 listed; an unlisted byte reads 0 (tile reset and every
scrub leave zeros: R59, R71, R258, R270). -/
abbrev Mem := List (Nat × BitVec 8)

end Sys2Proof
end

