-- ==== Sys2Proof/Operand.lean ====
section
/-! DEFINITION. The operand types of the commands: the fields of a tile instruction, and the data that arrives with a
command from outside the block. -/
namespace Sys2Proof

/-- The operands of one tile instruction (R82): the tile that issues it, and the word's RD, RS1, RS2 and IMM fields. The
row of the table fixes MAJOR and MINOR. DESIGN CHOICE, log entry 3. -/
structure TInsn where
  tile : Nat
  rd : BitVec 6
  rs1 : BitVec 6
  rs2 : BitVec 6
  imm : BitVec 34
deriving DecidableEq, Repr

/-- The execution units of a tile that start queued instructions. -/
inductive Unit3 where
  | array | vector | copy
deriving DecidableEq, Repr

/-- The engines that hold a started unit instruction (R118): product engine, bank port, vector engine, copy engine. -/
inductive Engine where
  | product | bankPort | vector | copy
deriving DecidableEq, Repr

/-- A frame as it lies on a link (R348): link word (R349), header (R350), payload lines, trailer (R351). -/
structure RawFrame where
  lw : BitVec 64
  hdr : BitVec 256
  payload : List Line
  trailer : BitVec 128
deriving DecidableEq, Repr

/-- What an IP packet with a UDP datagram carries outside the datagram (R371, R373, R374): the destination's MAC and IP address as the
endpoint entry has them, the 802.1Q tag with PCP in [15:13] and VID in [11:0], the UDP ports, whether it is a fragment and whether it has
IP options. -/
structure NetHdr where
  mac : BitVec 48
  v6 : Bool
  ip : BitVec 128
  tag : Nat
  src : Nat
  dst : Nat
  frag : Bool
  opts : Bool
deriving DecidableEq, Repr

/-- An engine transport datagram (R374): transport word, header, payload lines, trailer. -/
structure Dgram where
  net : NetHdr
  tw : BitVec 64
  hdr : BitVec 256
  payload : List Line
  trailer : BitVec 128
deriving DecidableEq, Repr

/-- Where a Winnow input comes from: the port die's oldest received Winnow frame, or an own contribution that the conversion
tasks have delivered to the reduction tile (their protocol is no part of the interface, R298): the chunk with its
attempt, side line and mantissas. DESIGN CHOICE, log entry 14. -/
inductive WinnowIn where
  | peer
  | own (ctx : BitVec 8) (step : W32) (bucket chunk att : Nat) (side : Line) (mant : List Int)
deriving DecidableEq, Repr

/-- What the ECC of the stack and the Saddle die found on one line read (R266). -/
inductive HbmEcc where
  | clean | corrected | uncorrectable
deriving DecidableEq, Repr

/-- An operand of a command with what the command's reads of HBM find, line by line (R266); a line that is not named reads clean. -/
structure WithEcc (α : Type) where
  val : α
  ecc : List (Nat × HbmEcc)
deriving DecidableEq, Repr

/-- What a posted write of the host carries, and whether its packet is poisoned (R384). -/
structure Posted (α : Type) where
  val : α
  poisoned : Bool
deriving DecidableEq, Repr

/-- An escalation request as Nuarn takes it from its slot (R177): layer, pass (0 forward, 1 backward), micro-batch, step,
cause bits, the rung it was recorded at (format and ACC), the tile it came from, and the tasks of the pass to
resubmit as (graph handle, task index). The slot's layout is not part of the interface. DESIGN CHOICE, log entry 14. -/
structure EscReq where
  layer : Nat
  pass : Nat
  micro : Nat
  step : W32
  cause : Nat
  fmt : Nat
  acc : Bool
  tile : Nat
  tasks : List (Nat × Nat)
deriving DecidableEq, Repr

/-- The replay information of one task (R445), whose layout in the object is not part of the interface: its anchor writes as
(view offset, format, layer, micro-batch, gradient anchor, length in bytes), the tasks whose outputs it reads from tile
SRAM, and the view ranges it reads as (offset, length). -/
structure ReplayInfo where
  task : Nat
  anchors : List (Nat × Nat × Nat × Nat × Bool × Nat)
  producers : List Nat
  reads : List (Nat × Nat)
deriving DecidableEq, Repr

/-- Where the sections of a .dvo lie in the object, whose container layout is not part of the interface: byte offsets and
lengths of the graph descriptor (R219), code section, tile data segment with the tile SRAM offsets they go to, HBM segment,
relocation records (R94), block table entries (R272) with the (port die, entry) each goes to, stream plan items
(R274), tracked TIDs (4 B each), the swath granules (32 * port + granule) asked for beyond those of the block ranges, and the
replay section as read. DESIGN CHOICE, log entry 14. -/
structure ObjLayout where
  descOff : Nat
  descLen : Nat
  codeOff : Nat
  codeLen : Nat
  codeAt : Nat
  dataOff : Nat
  dataLen : Nat
  dataAt : Nat
  hbmOff : Nat
  hbmLen : Nat
  relOff : Nat
  relN : Nat
  blkOff : Nat
  blks : List (Nat × Nat)
  planOff : Nat
  planN : Nat
  tidOff : Nat
  tidN : Nat
  granules : List Nat
  replay : List ReplayInfo
deriving DecidableEq, Repr

/-- What the store endpoint answered to the GETs of STOOK_RESTORE (R478): none where a GET failed or broke its stream.
DESIGN CHOICE, log entry 14. -/
structure StoreAnswer where
  manifest : Option (List Byte)
  sealLine : Option (List Byte)
  sects : List (Option (List Byte))
deriving DecidableEq, Repr

/-- A capability of the PCI Express endpoint (R378). -/
inductive CfgCap where
  | pciExpress | power | msix | aer | ari | sriov | serial
deriving DecidableEq, Repr

/-- What a configuration request reads (R378): the items of the manual by name, and any other double word by its place in the space, whose
layout the manual leaves to the PCI Express specification. DESIGN CHOICE, log entry 14. -/
inductive CfgItem where
  | vendor | device | revision | classCode
  | capability (k : CfgCap)
  | totalVfs | firstVfOffset | vfStride
  | maxPayload | powerStates | serialNumber | aerUncorrectable
  | other (dword : Nat)
deriving DecidableEq, Repr

/-- What a configuration request reads: the function and the item (R378). -/
structure CfgRead where
  fn : Nat
  item : CfgItem
deriving DecidableEq, Repr

/-- What a steward's access or call aims at (R386, R387). -/
inductive CairnTarget where
  | ownSram
  | carveOut (k : Nat)
  | mailbox (chan : Nat)
  | doorbell
  | headRegion (ctx : BitVec 8)
  | freeArea (ctx : BitVec 8)
  | blockTable
  | streamPlan
  | callIf
  /-- A call that breaks invariant n of R387, in list order from 1. -/
  | badCall (n : Nat)
  | accessTable
  | ownerTags
  | seeds
  | slabOwners
  | swathLeases
  | spurOwner
  | bar2
  | epochs
  | debugLock
  | flash
  | faultLog
  | otherSram
deriving DecidableEq, Repr

/-- An uncorrectable error in a die's own staging SRAM or swath buffer, reported to Maelec directly (R434, R435): the Saddle die, the
region (0 Landing, 1 Update, 2 Stream, 3 Ring) and the context whose transfer occupies it; or the port die and buffer offset; or a
hard fault of a Saddle, port or Crest die (R438). -/
inductive DieUe where
  | saddle (die region : Nat) (ctx : Option (BitVec 8))
  | swath (port off : Nat)
  | hard (die : Nat)
deriving DecidableEq, Repr

/-- What steward 0 reads at the end of a 1 ms period (R507): the wafer's rail power in W, the shots with a sensor at 95 °C
or above, and the shots whose sensors are all below 90 °C. DESIGN CHOICE, log entry 14. -/
structure LoopIn where
  wafer : Nat
  warm : List Nat
  cool : List Nat
deriving DecidableEq, Repr

/-- The sensor readings of one telemetry frame (R501, R511), temperatures in 0.01 °C as two's complement: J1 and J2, coolant,
the hottest wafer sensor, stack and die, the six rail powers in W, and the corrections counted since the last frame by units that no
command of the table shows, as (TLM_CE number, how many). DESIGN CHOICE, log entry 14. -/
structure TlmIn where
  vin : Nat
  iin : Nat
  pin : Nat
  ppeak : Nat
  vsb : Nat
  psb : Nat
  inlet : BitVec 16
  outlet : BitVec 16
  flow : Nat
  leak : Bool
  shotSensor : Nat
  shotTemp : BitVec 16
  stack : Nat
  stackTemp : BitVec 16
  die : Nat
  dieTemp : BitVec 16
  rails : List Nat
  ces : List (Nat × Nat)
deriving DecidableEq, Repr

end Sys2Proof
end

