-- ==== Sys2Proof/Syntax.lean ====
section
/-! DEFINITION. The commands of the engine: one constructor for each row of spec/opcode_table.json, in the table's order, with
the operands that arrive with the command (module-edge data, sensor readings, which unit or channel it concerns). -/
namespace Sys2Proof

/-- The commands. Each docstring gives the row's mnemonic and the rule the table names. -/
inductive Instr where
  /-- ADD (R100): Scalar add of S(rs1) and source 2, modulo 2^32, into S(rd). -/
  | add (o : TInsn)
  /-- SUB (R100): Scalar subtract of source 2 from S(rs1), modulo 2^32. -/
  | sub (o : TInsn)
  /-- AND (R100): Bitwise AND of two scalar sources. -/
  | and (o : TInsn)
  /-- OR (R100): Bitwise OR of two scalar sources. -/
  | or (o : TInsn)
  /-- XOR (R100): Bitwise XOR of two scalar sources. -/
  | xor (o : TInsn)
  /-- SHL (R100): Logical shift left by source 2 bits [4:0]. -/
  | shl (o : TInsn)
  /-- SHR (R100): Logical shift right with zero fill. -/
  | shr (o : TInsn)
  /-- SRA (R100): Arithmetic shift right with sign fill. -/
  | sra (o : TInsn)
  /-- MUL (R100): Low 32 bits of the unsigned product of two scalar sources. -/
  | mul (o : TInsn)
  /-- CMP (R100): Compares two scalar registers under the IMM condition and writes 1 or 0. -/
  | cmp (o : TInsn)
  /-- LI (R100): Loads a 32-bit immediate into a scalar or address register. -/
  | li (o : TInsn)
  /-- LUI (R100): Loads the upper 16 bits of a scalar register, or bits [47:32] of an address register. -/
  | lui (o : TInsn)
  /-- BR (R101): Conditional PC-relative branch on S(rs1) being zero or non-zero. -/
  | br (o : TInsn)
  /-- J (R101): Unconditional jump, PC-relative or to a register target. -/
  | j (o : TInsn)
  /-- CALL (R101): Writes the return offset to s31 and jumps PC-relative. -/
  | call (o : TInsn)
  /-- RET (R101): Jumps to the offset held in s31. -/
  | ret (o : TInsn)
  /-- LDS (R102): Loads a 32-bit word from tile-local SRAM into a scalar register. -/
  | lds (o : TInsn)
  /-- STS (R102): Stores a scalar register to tile-local SRAM, by read-modify-write of its ECC word. -/
  | sts (o : TInsn)
  /-- CSRR (R102): Reads a tile control and status register into a scalar register. -/
  | csrr (o : TInsn)
  /-- CSRW (R102): Writes a tile control and status register according to each field's access code. -/
  | csrw (o : TInsn)
  /-- CYCLE_LO_READ (R36): A CSRR of CYCLE_LO returns counter bits [31:0] and latches bits [47:32] into CYCLE_HI. -/
  | cycleLoRead (tile : Nat) (rd : BitVec 6)
  /-- ACCSTAT_ACCESS (R120): A CSRR or CSRW of ACCSTAT waits until every earlier array instruction of the tile has completed, then acts. -/
  | accstatAccess (tile : Nat)
  /-- AGEN (R103): Forms a strided address from an address register, a scaled scalar and an offset. -/
  | agen (o : TInsn)
  /-- AINC (R103): Steps an address register in place, with optional wrap in a 2^w ring. -/
  | ainc (o : TInsn)
  /-- CPY (R105): Copies N lines between tile SRAM and tile SRAM, HBM or the swath view, optionally adding in place. -/
  | cpy (o : TInsn)
  /-- SEND (R106): Sends N lines from tile SRAM to a tile of the sheaf as mesh packets. -/
  | send (o : TInsn)
  /-- MCAST (R106): Sends N lines to a run of tiles along +x or +y, writing the same offset in each. -/
  | mcast (o : TInsn)
  /-- RECV (R107): Declares an expected arrival and holds a scoreboard range entry until its receive counter reaches N. -/
  | recv (o : TInsn)
  /-- RECV_SATISFIED (R107): The receive counter of a pending RECV reaches N; N is subtracted and the range entry released. -/
  | recvSatisfied (tile n : Nat)
  /-- SWREAD (R108): Requests stream blocks from the swath view, converted and written into tile SRAM. -/
  | swread (o : TInsn)
  /-- WAITT (R112): Stalls issue until the receive counter for (CTX, TID) reaches a count. -/
  | waitt (o : TInsn)
  /-- WAITT_SATISFIED (R112): The receive counter of a pending WAITT reaches its count; the count is subtracted and issue resumes. -/
  | waittSatisfied (tile : Nat)
  /-- POST (R113): Sends one data-less TOKEN or COUNT message over the Awn network to a tile of the sheaf. -/
  | post (o : TInsn)
  /-- FENCE (R114): Stalls issue until the selected tile, sheaf or memory effects of the task are complete. -/
  | fence (o : TInsn)
  /-- FENCE_COMPLETE (R244): The last effect or acknowledgement a FENCE waits for arrives, and issue resumes. -/
  | fenceComplete (tile : Nat)
  /-- TEND (R115): Ends the task; the slot enters Draining and the dispatcher selects the next task. -/
  | tend (o : TInsn)
  /-- YIELD (R115): Saves PC, s0 to s7 and a0 to a3, returns the slot to Ready and selects the next task. -/
  | yield (o : TInsn)
  /-- MMA (R125): Matrix multiply-accumulate of A and B into an accumulator bank or an FP32x2 pair. -/
  | mma (o : TInsn)
  /-- ACCZ (R127): Claims and zeroes an accumulator bank or pair and clears its flags. -/
  | accz (o : TInsn)
  /-- ACCRD (R128): Writes a bank to tile SRAM with optional conversion, add mode or release. -/
  | accrd (o : TInsn)
  /-- ACCWR (R129): Loads a bank or pair from tile SRAM, converting exactly into FP32. -/
  | accwr (o : TInsn)
  /-- ACCSW (R130): Exchanges acc.A and acc.B with their flags and owner tags in one array cycle. -/
  | accsw (o : TInsn)
  /-- VLD (R131): Loads a vector register from a tile SRAM line by a row or column read. -/
  | vld (o : TInsn)
  /-- VST (R131): Stores a vector register to a tile SRAM line, optionally adding in place. -/
  | vst (o : TInsn)
  /-- VADD_F32 (R132): Lane-wise FP32 addition with one rounding. -/
  | vaddF32 (o : TInsn)
  /-- VMUL_F32 (R132): Lane-wise FP32 multiplication with one rounding. -/
  | vmulF32 (o : TInsn)
  /-- VFMA_F32 (R132): Lane-wise fused FP32 multiply-add. -/
  | vfmaF32 (o : TInsn)
  /-- VMAX (R133): Lane-wise maximum in FP32 or signed INT32. -/
  | vmax (o : TInsn)
  /-- VEXP (R136): Lane-wise e^x by the fixed integer procedure. -/
  | vexp (o : TInsn)
  /-- VRCP (R137): Lane-wise reciprocal by the fixed integer procedure. -/
  | vrcp (o : TInsn)
  /-- VRSQ (R137): Lane-wise reciprocal square root by the fixed integer procedure. -/
  | vrsq (o : TInsn)
  /-- VDERIV (R138): Forms activation input gradients from saved outputs and incoming gradients. -/
  | vderiv (o : TInsn)
  /-- VCVT (R140): Converts between FP32 and another format, including MX blocks and W wire mantissas. -/
  | vcvt (o : TInsn)
  /-- VRED (R134): Reduces the 16 lanes of a vector register into a scalar register in a fixed order. -/
  | vred (o : TInsn)
  /-- VIADD_W (R145): Lane-wise exact add or subtract of W mantissas with saturation and a sticky ESC flag. -/
  | viaddW (o : TInsn)
  /-- VSTAT (R146): Updates a 32-byte health record from vector lanes. -/
  | vstat (o : TInsn)
  /-- UNIT_INSTRUCTION_START (R118): A queued array, vector or copy instruction starts once its engine is free and the scoreboard allows. -/
  | unitInstructionStart (tile : Nat) (u : Unit3)
  /-- UNIT_INSTRUCTION_COMPLETE (R70): A unit instruction finishes its effects and frees its scoreboard entries. -/
  | unitInstructionComplete (tile : Nat) (e : Engine)
  /-- DISPATCHER_LOAD (R230): The dispatcher loads a prefetched list head into a free slot and applies early tokens. -/
  | dispatcherLoad (tile : Nat) (prefetched : BitVec 8)
  /-- TASK_SELECT (R68): With the scalar pipeline idle, the dispatcher selects a newly Ready slot and starts it. -/
  | taskSelect (tile : Nat)
  /-- COMPLETION_POST (R235): A Draining or Faulted task's completion is posted; TOKEN edges and the COMPLETION message are sent and the slot freed. -/
  | completionPost (tile slot : Nat)
  /-- Q2_PROMOTION (R232): A primary Q2 slot Ready for 2^PROM cycles is promoted to Q0 selection. -/
  | q2Promotion (tile slot : Nat)
  /-- RUN_LIMIT_EXPIRY (R233): A secondary task running 65,536 cycles after a primary became Ready raises the wait-watchdog trap. -/
  | runLimitExpiry (tile : Nat)
  /-- WAIT_WATCHDOG_EXPIRY (R111): A RECV or WAITT unsatisfied for 2^E cycles times out and raises the wait-watchdog trap. -/
  | waitWatchdogExpiry (tile : Nat) (recv : Option Nat)
  /-- FREQUENCY_CHANGE (R35): A tile core island changes frequency between two cycles. -/
  | frequencyChange (tile freq : Nat)
  /-- MESH_FLIT_HOP (R197): A router output arbitrates and forwards one flit, checking parity and incrementing HOP. -/
  | meshFlitHop (tile port : Nat) (bad : List Nat)
  /-- MESH_PACKET_ARRIVAL (R191): A packet ejects at its destination tile and is checked, written or added, and counted. -/
  | meshPacketArrival (tile : Nat)
  /-- ACK_SEND (R192): A destination sends one ACK covering up to 64 counted packets from one source slot. -/
  | ackSend (tile n : Nat)
  /-- AWN_HOP (R207): An Awn router forwards a message head flit under strict priority. -/
  | awnHop (tile port : Nat) (bad : Bool)
  /-- TOKEN (R65): An Awn TOKEN message decrements a matching slot counter or enters the early-token table. -/
  | token (tile pri : Nat)
  /-- COUNT (R109): An Awn COUNT message adds 1 to the receive counter of its key. -/
  | count (tile pri : Nat)
  /-- ACK (R192): An Awn ACK message acknowledges packets of a source slot for FENCE and completion. -/
  | ack (tile pri : Nat)
  /-- PROBE (R206): A PROBE CONTROL message reaches a tile, whose core island answers within 64 cycles. -/
  | probe (tile tag : Nat) (silent : Bool)
  /-- CORE_ANSWER_TIMEOUT (R206): A router island whose core has not answered a PROBE within 4,096 router cycles sends ROUTER_ANSWER. -/
  | coreAnswerTimeout (tile : Nat)
  /-- ANSWER (R206): An ANSWER reaches the retire unit and is passed to Maelec over ring class H. -/
  | answer (saddle : Nat)
  /-- ROUTER_ANSWER (R206): A ROUTER_ANSWER reaches the retire unit and is passed to Maelec. -/
  | routerAnswer (saddle : Nat)
  /-- LINK_SPARE (R210): A wire group with 2 parity errors in 65,536 cycles pauses its link and steers failing wires to spares. -/
  | linkSpare (tile port group : Nat) (awn : Bool) (wires : BitVec 32)
  /-- LINK_REPAIR_COMPLETE (R210): A spare-wire repair ends and the paused link resumes. -/
  | linkRepairComplete (tile port group : Nat) (awn : Bool)
  /-- PARITY_WINDOW_EXPIRY (R210): A group's parity error count restarts at 0 after 65,536 cycles. -/
  | parityWindowExpiry (tile port group : Nat) (awn : Bool)
  /-- SWREAD_REQUEST (R201): A SWREAD REQ packet reaches the swath controller and opens or joins a merge entry. -/
  | swreadRequest (port : Nat)
  /-- MERGE_WINDOW_EXPIRY (R201): A merge entry's 64-cycle window ends and its requests are served by multicast. -/
  | mergeWindowExpiry (port entry : Nat)
  /-- FILL_LINE (R273): A fill line reaches a block table entry, sets its valid bit and advances its state. -/
  | fillLine (port : Nat) (spur : Bool)
  /-- STREAM_SEQUENCER_ITEM (R274): A Saddle stream sequencer starts an item once its entry is EMPTY and its bucket version allows. -/
  | streamSequencerItem (saddle : Nat) (ctx : WithEcc (BitVec 8))
  /-- SADDLE_READ_REQUEST (R262): A REQ for a view line reaches a Saddle die and is issued to HBM after checks. -/
  | saddleReadRequest (saddle link : Nat)
  /-- HBM_READ_RETURN (R263): HBM data returns, is ECC-checked and sent back on the edge link. -/
  | hbmReadReturn (saddle n : Nat) (ecc : HbmEcc)
  /-- SADDLE_WRITE (R264): A line write reaches a Saddle die and is accepted into its write queue. -/
  | saddleWrite (saddle link : Nat)
  /-- ESCALATION_APPEND (R256): A line written to the escalation append line is stored in a slot and rings Nuarn's doorbell. -/
  | escalationAppend (saddle link : Nat)
  /-- HEALTH_COMBINE (R257): A record written to the health combine port is combined into the health window. -/
  | healthCombine (saddle link : Nat)
  /-- SLAB_SCRUB_COMPLETE (R258): A Saddle die finishes zeroing slabs that change owner. -/
  | slabScrubComplete (saddle : Nat)
  /-- RING_FLIT (R268): A Crest ring flit arrives at a stop, is CRC-checked and retried or delivered. -/
  | ringFlit (n : Nat) (crcOk : Bool)
  /-- COMPLETION (R240): A COMPLETION message reaches a retire unit and its glean log record is written. -/
  | completion (saddle : Nat)
  /-- INSTANCE_DONE (R241): The home Saddle writes INSTANCE_DONE, and SUBMISSION_DONE after a last instance, once every task of an instance has retired. -/
  | instanceDone (ctx : BitVec 8)
  /-- BUCKET_LANDING (R281): A committed chunk sum arrives at the landing Saddle die and is stored for update. -/
  | bucketLanding (saddle : Nat)
  /-- BUCKET_UPDATE (R281): The update unit begins a landed bucket, computing its norm partial or applying the optimiser and emitting. -/
  | bucketUpdate (saddle : Nat) (ctx : BitVec 8) (step : W32) (bucket : WithEcc Nat)
  /-- SCHED_RETRY_TIMER (R280): Every 100 µs a held update unit reads the schedule ring entry again. -/
  | schedRetryTimer (saddle : Nat)
  /-- CLIP_FACTOR (R321): The clip factor and verdicts reach an update unit, which releases its held buckets of the step. -/
  | clipFactor (saddle : Nat) (ctx : BitVec 8) (step : W32)
  /-- STEP_BOUNDARY (R180): After every check task of a step completes, scale changes and narrowing take effect. -/
  | stepBoundary (ctx : BitVec 8) (step : W32)
  /-- ESCALATION_REQUEST (R177): Nuarn widens a layer, repatches LAYER_FMT and resubmits the overflowed pass. -/
  | escalationRequest (ctx : BitVec 8) (r : EscReq)
  /-- NORM_PASS_START (R319): A home Saddle holding all partials, commits and verdicts joins the norm pass. -/
  | normPassStart (ctx : BitVec 8) (step : W32)
  /-- WINNOW_DATA_FRAME (R292): A Winnow data frame is delivered cut-through and added to its chunk by tag, attempt and chunk. -/
  | winnowDataFrame (port : Nat) (inp : WinnowIn)
  /-- VERDICT_LINE (R316): A frame's verdict line arrives; a good frame's side line is combined and a bad frame is subtracted. -/
  | verdictLine (port : Nat)
  /-- PAIR_DEADLINE_EXPIRY (R313): A pair chunk's deadline expires and the chunk is Resolved with its first copy. -/
  | pairDeadlineExpiry (ctx : BitVec 8) (step : W32) (bucket chunk primary : Nat)
  /-- ATTEMPT (R311): An ATTEMPT control frame makes a rank re-dispatch the bucket's conversion tasks at the next wire format. -/
  | attempt (port : Nat)
  /-- COMMIT (R312): A COMMIT control frame frees the slot, posts CTID tokens and releases the window. -/
  | commit (port : Nat)
  /-- CHUNK_ACK (R317): A CHUNK_ACK releases a sent Winnow frame from the resend store. -/
  | chunkAck (port : Nat)
  /-- RESEND (R317): A RESEND makes the sender transmit a held poisoned frame again. -/
  | resend (port : Nat)
  /-- NORM (R320): A NORM frame is combined with the local total and verdicts and sent on. -/
  | norm (port : Nat)
  /-- CLIP (R320): A CLIP frame delivers T2 and final verdicts and is forwarded. -/
  | clip (port : Nat)
  /-- EXPONENT_TABLE (R323): A published exponent table arrives as PAR frames and is written to the exponent area. -/
  | exponentTable (port : Nat)
  /-- EXPT_ACK (R323): An EXPT_ACK reaches the owner; once all have arrived the bucket's version is set. -/
  | exptAck (port : Nat)
  /-- WINNOW_FRAME_RESEND_TIMEOUT (R359): A Winnow frame without CHUNK_ACK for 65,536 cycles is sent again. -/
  | winnowFrameResendTimeout (port n : Nat)
  /-- LINK_RX_SIGNAL_DETECT (R346): A spur link detects a receive signal and starts training. -/
  | linkRxSignalDetect (port : Nat)
  /-- LINK_TRAINED (R346): A spur link reaches the required error ratio and is trained. -/
  | linkTrained (port : Nat)
  /-- LINK_TRAINING_TIMEOUT (R346): A link not trained within 30 s stays in Training. -/
  | linkTrainingTimeout (port : Nat)
  /-- LINK_LOSS_OF_LOCK (R347): A trained link loses lock and takes its spur to Failed. -/
  | linkLossOfLock (port : Nat)
  /-- LINK_CONTROL_SILENCE_TIMEOUT (R347): No link control record for 1,048,576 cycles takes the spur to Failed. -/
  | linkControlSilenceTimeout (port : Nat)
  /-- LINK_CONTROL_RECORD (R354): A link control record returns credits, acknowledges or NAKs sequenced frames and carries HELLO. -/
  | linkControlRecord (port : Nat) (lw : BitVec 64) (rec_ : Line)
  /-- LINK_CONTROL_TIMER (R354): A port die sends a link control frame at least every 1,024 cycles. -/
  | linkControlTimer (port : Nat)
  /-- SPUR_FRAME_RECEIVE (R357): A port die receives a frame, checks it, and delivers, transits, holds or discards it. -/
  | spurFrameReceive (port : Nat) (f : RawFrame) (fecBad : Bool)
  /-- HOP_REPLAY_TIMEOUT (R355): A sequenced frame not acknowledged within 16,384 cycles makes the sender replay every unacknowledged frame. -/
  | hopReplayTimeout (port : Nat)
  /-- SPUR_ATTACH (R365): A spur whose ends meet the attach conditions becomes Attached and resets its sequences and credits. -/
  | spurAttach (spur : Nat)
  /-- SPUR_DETACH_DRAIN_TIMEOUT (R366): After 1 ms a commanded detach drops what remains in the replay store and returns the spur to Up. -/
  | spurDetachDrainTimeout (spur : Nat)
  /-- STREAM_CREDIT (R370): A STREAM_CREDIT engine frame returns one credit to a fill binding. -/
  | streamCredit (port : Nat)
  /-- RECOVER (R451): A RECOVER engine frame updates peer epochs and starts a partition reset of matching contexts. -/
  | recover (port : Nat)
  /-- OUT_OF_SERVICE (R451): An OUT_OF_SERVICE engine frame quiesces the named contexts. -/
  | outOfService (port : Nat)
  /-- REPAIR_WAIT (R457): A REPAIR_WAIT engine frame puts the named contexts in WAITING_REPAIR. -/
  | repairWait (port : Nat)
  /-- RESUME (R480): A RESUME engine frame updates peer epochs and starts a rerun or reports REPLAY_IMPOSSIBLE. -/
  | resume (port : Nat)
  /-- ETH_DATA (R377): An engine transport DATA datagram is checked and written into HBM or rejected. -/
  | ethData (port : Nat) (d : Dgram)
  /-- ETH_ACK (R375): An engine transport ACK covers sent frames of a stream. -/
  | ethAck (port : Nat) (d : Dgram)
  /-- GETREQ (R377): A GETREQ makes the engine PUT the requested bytes to the requester. -/
  | getreq (port : Nat) (d : WithEcc Dgram)
  /-- REJECT (R377): A REJECT fails the sender's transfer descriptor with its reason. -/
  | reject (port : Nat) (d : Dgram)
  /-- ETH_ACK_TIMER (R375): A receiver sends an ACK after 10 µs without one. -/
  | ethAckTimer (stream : Nat)
  /-- ETH_RESEND_TIMEOUT (R375): A frame unacknowledged for 100 µs is resent; after 8 resends the stream breaks. -/
  | ethResendTimeout (stream : Nat)
  /-- XRING_POLL (R376): A Crest die reads a transfer ring's WR and processes new descriptors in order. -/
  | xringPoll (ctx : WithEcc (BitVec 8))
  /-- STOOK_PART (R476): A descriptor with STOOK set delivers a boundary or seal part to the home Saddle die. -/
  | stookPart (ctx : BitVec 8)
  /-- STOOK_MANIFEST_PUT (R477): Once every section frame is acknowledged, the manifest is PUT. -/
  | stookManifestPut (ctx : BitVec 8)
  /-- STOOK_SEAL_PUT (R477): A Complete stook whose seal part is held PUTs its seal line. -/
  | stookSealPut (ctx : BitVec 8)
  /-- LLDP_TRANSMIT (R373): Every 30 s each Ethernet port sends an LLDP frame. -/
  | lldpTransmit (port : Nat)
  /-- LLDP_RECEIVE (R373): A received LLDP frame records the port's neighbour. -/
  | lldpReceive (port : Nat) (tlvs : List Byte)
  /-- NEIGHBOUR_REQUEST (R373): An ARP or IPv6 neighbour solicitation for a port's own address is answered. -/
  | neighbourRequest (port : Nat) (v6 : Bool) (target : BitVec 128) (data : List Byte)
  /-- ICMP_ECHO (R373): An ICMP or ICMPv6 echo request is answered. -/
  | icmpEcho (port : Nat) (v6 : Bool) (target : BitVec 128) (data : List Byte)
  /-- ETH_LINK_CHANGE (R373): An Ethernet port changes link state and ETH_CHG is set. -/
  | ethLinkChange (port : Nat) (up : Bool)
  /-- OSFP_INSERT (R487): A pluggable module insertion is detected and the cage's ports negotiate again. -/
  | osfpInsert (cage : Nat) (highPower : Bool)
  /-- OSFP_REMOVE (R487): A pluggable module removal takes its ports down. -/
  | osfpRemove (cage : Nat)
  /-- DOORBELL_EXTEND (R414): Nuarn extends the context's newest unfinished submission by ARG instances. -/
  | doorbellExtend (ctx : BitVec 8)
  /-- DOORBELL_NOTIFY (R414): Nuarn raises the completion interrupt again if the ring holds unread records. -/
  | doorbellNotify (ctx : BitVec 8)
  /-- DOORBELL_SCHED_KICK (R414): Update units waiting on a schedule ring entry read it again at once. -/
  | doorbellSchedKick (ctx : BitVec 8)
  /-- BAR2_WRITE (R383): A host write to a BAR2 window is accepted to an allowed field or dropped as HOST_WRITE_DENIED. -/
  | bar2Write (off : Nat) (data : List Byte) (poisoned : Bool)
  /-- EVT_EN_WRITE (R381): A write to EVT_EN sends MSI-X vector 64 if it enables an already set EVT_STAT bit. -/
  | evtEnWrite (value : Posted W32)
  /-- MSIX_UNMASK (R381): Unmasking a vector with its pending bit set sends the message. -/
  | msixUnmask (fn : Nat) (vec : Posted Nat)
  /-- REGISTER_WRITE (R7): A write to a register without its own row acts per each field's access code. -/
  | registerWrite (fn off : Nat) (value : Posted W32) (size : Nat)
  /-- VF_FLR (R384): A VF Function Level Reset resets its channels and vectors and detaches its contexts. -/
  | vfFlr (vf : Nat)
  /-- PF_FLR (R384): A PF Function Level Reset does the same for the PF and every VF. -/
  | pfFlr
  /-- PERST_ASSERT (R486): PERST# takes the link down with the effects of a PF FLR. -/
  | perstAssert
  /-- PERST_RELEASE (R486): PERST# release starts link training and configuration answering. -/
  | perstRelease
  /-- MBX_GO (R398): A write of GO posts a message: BUSY set, timer started and wake raised. -/
  | mbxGo (chan : Nat) (value : Posted W32)
  /-- MBX_TAKE (R398): The serving core takes a pending message, copying it and setting TAKEN. -/
  | mbxTake (chan : Nat)
  /-- MBX_TIMEOUT (R399): A pending message reaches TMO and becomes timed-out. -/
  | mbxTimeout (chan : Nat)
  /-- STAGED_PART (R401): A staged part with MORE set is appended to the channel's assembly. -/
  | stagedPart (chan : Nat)
  /-- MGMT_UDP_REQUEST (R396): A management-port UDP record reads or writes a secure channel register. -/
  | mgmtUdpRequest (op addr : Nat) (value : W32) (tag : BitVec 64)
  /-- HELLO (R406): Negotiates the interface version and features of a function. -/
  | hello (chan : Nat)
  /-- CAPS (R407): Returns the engine's identity, grid, straps, MACs and counts. -/
  | caps (chan : Nat)
  /-- CTX_OPEN (R409): Opens a context with its HBM partition, seed and new EPOCH. -/
  | ctxOpen (chan : Nat)
  /-- CTX_CLOSE (R409): Cancels and releases everything a context holds, advances its EPOCH and closes it. -/
  | ctxClose (chan : Nat)
  /-- SHEAF_BIND (R409): Binds a sheaf rectangle to a context after checking R13. -/
  | sheafBind (chan : Nat)
  /-- SHEAF_RELEASE (R409): Cancels the context's work on a sheaf and scrubs and frees it or detaches the co-tenant. -/
  | sheafRelease (chan : Nat)
  /-- SHEAF_COTENANT (R409): Attaches a secondary context to a sheaf with a bank mask. -/
  | sheafCotenant (chan : Nat)
  /-- GRAPH_LOAD (R222): Validates, relocates and places a graph object on a sheaf and returns a handle. -/
  | graphLoad (chan : Nat) (obj : ObjLayout)
  /-- GRAPH_SUBMIT (R223): Queues or extends a submission of instances of a loaded graph. -/
  | graphSubmit (chan : Nat)
  /-- SUBMISSION_LOAD (R413): Nuarn loads an accepted submission's entries onto the sheaf's tiles. -/
  | submissionLoad (ctx : BitVec 8)
  /-- GRAPH_CANCEL (R242): Stops loading and frees the slots of the named submissions on every tile. -/
  | graphCancel (chan : Nat)
  /-- CANCEL_COMPLETE (R242): Once every tile has finished, the EPOCH advances, CANCELLED records are written and OK returned. -/
  | cancelComplete (ctx : BitVec 8)
  /-- GRAPH_UNLOAD (R409): Frees a loaded graph, its handle, code, segments and block table entries. -/
  | graphUnload (chan : Nat)
  /-- BUCKET_PLAN (R295): Checks and installs or replaces a context's bucket plan. -/
  | bucketPlan (chan : Nat)
  /-- BUCKET_PLAN_CLEAR (R296): Removes a context's installed bucket plan. -/
  | bucketPlanClear (chan : Nat)
  /-- PEER_TABLE_ENGINE (R371): Installs the engine table: ID, spur neighbours, routes, endpoints and ports. -/
  | peerTableEngine (chan : Nat)
  /-- PEER_TABLE_CONTEXT (R372): Installs a context's peers, spur ownership, fill bindings and transfer ring. -/
  | peerTableContext (chan : Nat)
  /-- STOOK_TAKE (R469): Sets or stops the stook cadence of a context. -/
  | stookTake (chan : Nat)
  /-- STOOK_RESTORE (R478): Reads, checks and writes a stook into a context and sends RESUME. -/
  | stookRestore (chan : Nat) (store : StoreAnswer)
  /-- STOOK_VERIFY (R481): Arms the comparison of the rerun loss with the stook's seal. -/
  | stookVerify (chan : Nat)
  /-- FIELD_TEST (R411): Starts field tests of the selected categories on a sheaf. -/
  | fieldTest (chan : Nat)
  /-- FIELD_TEST_START (R462): Once the current instance and buckets are done, the quiesced sheaf's tests begin. -/
  | fieldTestStart (sheaf : Nat)
  /-- FIELD_TEST_COMPLETE (R462): Tests end, banks are scrubbed, the result logged and work resubmitted or tiles failed. -/
  | fieldTestComplete (sheaf : Nat) (failed : BitVec 6) (tiles : List Nat)
  /-- POWER_POLICY (R411): Sets the power cap, FMAX and FALLOWOK. -/
  | powerPolicy (chan : Nat)
  /-- FALLOW_SHEAF (R411): Sets a whole sheaf to run, fallow or deep fallow, reloading state on return. -/
  | fallowSheaf (chan : Nat)
  /-- FALLOW_RECTANGLE (R216): Sets an unbound rectangle to run, fallow or deep fallow. -/
  | fallowRectangle (chan : Nat)
  /-- ATTEST (R429): Signs a new attestation report or returns a part of the last one. -/
  | attest (chan : Nat)
  /-- FW_UPDATE (R431): Verifies a staged image and writes it to the target flash device. -/
  | fwUpdate (chan : Nat)
  /-- FW_UPDATE_DBGCLOSE (R411): Burns the DBGDIS fuse without writing flash. -/
  | fwUpdateDbgclose (chan : Nat)
  /-- LOG_READ (R412): Returns records of the fault, numerics, event or LLDP log. -/
  | logRead (chan : Nat)
  /-- NUARN_LOAD (R425): Verifies a staged Nuarn image, extends M3 and releases the stewards. -/
  | nuarnLoad (chan : Nat)
  /-- STEWARDS_READY (R425): All four stewards report ready and ENGSTATE becomes 0x05. -/
  | stewardsReady
  /-- STEWARD_HEARTBEAT_TIMEOUT (R388): A steward silent for 50 ms is declared dead and restarted. -/
  | stewardHeartbeatTimeout (k : Nat)
  /-- STEWARD_RESTART_COMPLETE (R415): The restarted Nuarn rebuilds state, answers taken commands RESTARTED and serves its channels. -/
  | stewardRestartComplete (k : Nat)
  /-- STEWARD_IDLE_TIMEOUT (R389): A steward with no work for 10 ms powers down its domain. -/
  | stewardIdleTimeout (k : Nat)
  /-- STEWARD_WAKE (R389): A wake event powers a sleeping steward up. -/
  | stewardWake (k : Nat)
  /-- CAIRN_ACCESS (R386): A steward access outside its access table is blocked, logged and the steward restarted. -/
  | cairnAccess (k : Nat) (target : CairnTarget) (addr : W32) (data : List Byte)
  /-- WARDEN_WATCHDOG_EXPIRY (R388): The warden watchdog expires after 200 ms and the engine restarts with HBM in self-refresh. -/
  | wardenWatchdogExpiry
  /-- UE_REPORT (R435): An uncorrectable error report reaches Maelec and is logged and attributed to a context. -/
  | ueReport (own : Option DieUe)
  /-- REPLAY_PLAN (R448): The home steward restores the layer table, forms the replay set, loads slots and logs REPLAY_BEGIN. -/
  | replayPlan (ctx : BitVec 8)
  /-- TASK_FAULT (R440): Nuarn handles a TASK_FAULT record by a partition reset or by cancelling the context. -/
  | taskFault (ctx : BitVec 8)
  /-- SPUR_REPAIR_TIMEOUT (R441): A spur not Attached 60 s after failure puts its contexts in WAITING_REPAIR. -/
  | spurRepairTimeout (spur : Nat)
  /-- TILE_PROBE_TIMEOUT (R456): A tile not answering a PROBE within 10 ms is declared hard-failed. -/
  | tileProbeTimeout (tile : Nat)
  /-- REMAP_DONE (R455): The new mapping completes, HBM retrains, sheaves are rebound and RESUME sent. -/
  | remapDone (lost : List Nat) (spares : Nat)
  /-- STANDBY_POWER_GOOD (R490): The standby rails come up and PG_STBY is released. -/
  | standbyPowerGood
  /-- STANDBY_BROWNOUT (R489): J2 below 10.8 V for 1 ms asserts standby reset. -/
  | standbyBrownout
  /-- STANDBY_OVERVOLTAGE (R489): J2 above 13.2 V switches the standby domain off until it returns below 12.6 V. -/
  | standbyOvervoltage
  /-- STBY_RST_ASSERT (R494): STBY_RST_N low holds the module in standby reset. -/
  | stbyRstAssert
  /-- STBY_RST_RELEASE (R496): Straps are sampled and latched and the warden leaves reset. -/
  | stbyRstRelease (contacts changed : BitVec 16)
  /-- RECOVERY_IMAGE (R432): A recovery-boot image received on the management port is checked and written to both devices. -/
  | recoveryImage (image : List Byte)
  /-- WAFER_MAPPING_COMPLETE (R433): Wafer BIST and start-up mapping finish and HBM training starts. -/
  | waferMappingComplete (lost : List Nat)
  /-- HBM_TRAINING_COMPLETE (R433): HBM training finishes and link training starts. -/
  | hbmTrainingComplete (lost : List Nat)
  /-- LINK_TRAINING_PHASE_END (R433): The link-training phase ends and ENGSTATE becomes 0x04. -/
  | linkTrainingPhaseEnd
  /-- SVN_BURN (R422): After ready, Maelec burns SVN and REVOKE fuses to the smaller image SVN. -/
  | svnBurn
  /-- MAIN_EN_RISE (R490): MAIN_EN goes high, allowing the main domain to run. -/
  | mainEnRise
  /-- MAIN_POWERUP_START (R490): With every condition of event 3 met, pre-charge starts. -/
  | mainPowerupStart (millivolts inlet : Nat) (held intlk : Bool)
  /-- PRECHARGE_COMPLETE (R490): Pre-charge completes and the rails come up in order until PG_MAIN is released. -/
  | prechargeComplete
  /-- MAIN_EN_LOW (R491): MAIN_EN goes low and an orderly power-down begins. -/
  | mainEnLow
  /-- EOFF_N_ASSERT (R492): EOFF_N low removes main power at once. -/
  | eoffNAssert
  /-- INTLK_OPEN (R484): The INTLK loop opens and the input stage stops within 50 µs. -/
  | intlkOpen
  /-- J1_UNDERVOLTAGE (R488): J1 below 280 V for more than 1 ms stops the main domain. -/
  | j1Undervoltage
  /-- J1_OVERVOLTAGE (R488): J1 above 420 V for 100 µs stops the main domain. -/
  | j1Overvoltage
  /-- INLET_OVERTEMP_TIMEOUT (R497): Inlet above 45 °C for 10 s causes an orderly power-down. -/
  | inletOvertempTimeout (reading : Nat)
  /-- FLOW_LOW_TIMEOUT (R497): Flow below 40 L/min for 5 s causes an orderly power-down. -/
  | flowLowTimeout (reading : Nat)
  /-- THERMAL_TRIP (R502): A critical wafer, die or HBM temperature, lost flow or a leak causes an immediate power-down. -/
  | thermalTrip (cls index reading : Nat)
  /-- TILE_HOT (R502): A tile comparator at 100 °C gates alternate core periods. -/
  | tileHot (tile : Nat)
  /-- TILE_HOT_RELEASE (R502): After 100 µs below 97 °C the tile-hot gating is released. -/
  | tileHotRelease (tile : Nat)
  /-- HBM_HOT (R502): A stack at 85 °C doubles its refresh rate. -/
  | hbmHot (stack : Nat) (reading : Nat)
  /-- HBM_VERY_HOT (R502): A stack at 95 °C makes its Saddle issue HBM commands at half rate. -/
  | hbmVeryHot (stack : Nat) (reading : Nat)
  /-- DIE_HOT (R502): A Saddle, Crest or port die at 100 °C sets DIE_HOT and asserts ALERT_N. -/
  | dieHot (die : Nat) (reading : Nat)
  /-- POWER_LIMITER_WINDOW (R504): At each 10 µs window end the limiter raises its level if the mean exceeded 0.99 × the cap. -/
  | powerLimiterWindow (mean : Nat)
  /-- LOOP_PERIOD (R507): Every 1 ms steward 0 adjusts the limiter level, F_G, shot ceilings and fallow. -/
  | loopPeriod (p : LoopIn)
  /-- TELEMETRY_FRAME (R511): Every 1 ms Maelec writes a telemetry frame bracketed by sequence numbers. -/
  | telemetryFrame (t : TlmIn)
  /-- TLM_I3C_ADDRESS_WRITE (R514): An I3C private write to address 0x3B selects a telemetry word for following reads. -/
  | tlmI3cAddressWrite (addr : Nat) (words : List W32)
  /-- DOORBELL_WRITE (R382): A host write to doorbell c enqueues (PF, c, value) for Nuarn, or is dropped and logged, or is dropped with DB_OVF set when the FIFO is full. -/
  | doorbellWrite (ctx : BitVec 8) (value : Posted W32)
  /-- MGMT_I3C_WRITE (R396): An I3C private write to target 0x3A sets the register address of a secure channel and writes the following words to it. -/
  | mgmtI3cWrite (addr : Nat) (words : List W32)
  /-- CONFIGURATION_REQUEST (R486): A PCI Express configuration request is completed with Configuration Request Retry Status before event 8 of main power-up, and answered normally afterwards. -/
  | configurationRequest (q : CfgRead)
  /-- PCIE_FATAL (R384): An uncorrectable internal error of the Crest die S interface is reported through AER as fatal, and the engine is taken out of service. -/
  | pcieFatal (status : W32)
  /-- CAIRN_SRAM_UE (R388): An uncorrectable ECC error in a Cairn core's SRAM restarts that steward, or in warden SRAM restarts the engine with HBM in self-refresh. -/
  | cairnSramUe (core : Nat)
  /-- DERATE (R497): The coolant inlet temperature crossing 40 °C, or the flow falling into or leaving 40 to 55 L/min, changes the derated cap, which reaches the limiter within 20 µs. -/
  | derate (cause reading : Nat)
  /-- EPOCH_ADVANCE (R452): The 20 ms spacing since a context's last EPOCH advance runs out, and a partition reset that waits for an advance proceeds. -/
  | epochAdvance (ctx : BitVec 8)
deriving DecidableEq, Repr

end Sys2Proof
end

