-- ==== Sys2Proof/Decode.lean ====
section
/-! DEFINITION. The instruction words of tile code (R82, R83, R117), and the command that a word spells by the bits of
spec/opcode_table.json, which gives none of its rows bits. -/
namespace Sys2Proof

/-- The command that a table word spells. The table gives no row bits: none. -/
def decodeTableWord (_nbits _w : Nat) : Option Instr := none

/-- A word from its fields (R82): MAJOR [63:58], MINOR [57:52], RD [51:46], RS1 [45:40], RS2 [39:34], IMM [33:0]. -/
def insnWord (major minor : BitVec 6) (o : TInsn) : BitVec 64 := major ++ minor ++ o.rd ++ o.rs1 ++ o.rs2 ++ o.imm

/-- MAJOR and MINOR of a word. -/
def wordMajor (w : BitVec 64) : BitVec 6 := w.extractLsb' 58 6
def wordMinor (w : BitVec 64) : BitVec 6 := w.extractLsb' 52 6

/-- The operands of a word that a tile issues. -/
def wordFields (tile : Nat) (w : BitVec 64) : TInsn :=
  ⟨tile, w.extractLsb' 46 6, w.extractLsb' 40 6, w.extractLsb' 34 6, w.extractLsb' 0 34⟩

/-- The instructions of a group by MINOR, from 0x00 (R83, R117). -/
def majorOps (major : Nat) : List (TInsn → Instr) :=
  match major with
  | 0x00 => [.add, .sub, .and, .or, .xor, .shl, .shr, .sra, .mul, .cmp, .li, .lui]
  | 0x01 => [.br, .j, .call, .ret]
  | 0x02 => [.lds, .sts, .csrr, .csrw]
  | 0x03 => [.agen, .ainc]
  | 0x08 => [.mma, .accz, .accrd, .accwr, .accsw]
  | 0x09 => [.vld, .vst, .vaddF32, .vmulF32, .vfmaF32, .vmax, .vexp, .vrcp, .vrsq, .vderiv, .vcvt, .vred, .viaddW, .vstat]
  | 0x10 => [.cpy, .send, .recv, .mcast, .swread]
  | 0x18 => [.waitt, .post, .fence, .tend, .yield]
  | _ => []

/-- Is the MAJOR and MINOR pair of a word assigned (R84)? -/
def assigned (w : BitVec 64) : Bool := decide ((wordMinor w).toNat < (majorOps (wordMajor w).toNat).length)

/-- The instruction that a word spells on a tile; none where its pair is not assigned. -/
def decodeWord (tile : Nat) (w : BitVec 64) : Option Instr :=
  ((majorOps (wordMajor w).toNat)[(wordMinor w).toNat]?).map (fun c => c (wordFields tile w))

/-- The word of a tile instruction; none for a row that is no instruction. The row CYCLE_LO_READ is a CSRR of CYCLE_LO (R36). -/
def encodeInsn : Instr → Option (BitVec 64)
  | .add o => some (insnWord 0x00 0x00 o)
  | .sub o => some (insnWord 0x00 0x01 o)
  | .and o => some (insnWord 0x00 0x02 o)
  | .or o => some (insnWord 0x00 0x03 o)
  | .xor o => some (insnWord 0x00 0x04 o)
  | .shl o => some (insnWord 0x00 0x05 o)
  | .shr o => some (insnWord 0x00 0x06 o)
  | .sra o => some (insnWord 0x00 0x07 o)
  | .mul o => some (insnWord 0x00 0x08 o)
  | .cmp o => some (insnWord 0x00 0x09 o)
  | .li o => some (insnWord 0x00 0x0A o)
  | .lui o => some (insnWord 0x00 0x0B o)
  | .br o => some (insnWord 0x01 0x00 o)
  | .j o => some (insnWord 0x01 0x01 o)
  | .call o => some (insnWord 0x01 0x02 o)
  | .ret o => some (insnWord 0x01 0x03 o)
  | .lds o => some (insnWord 0x02 0x00 o)
  | .sts o => some (insnWord 0x02 0x01 o)
  | .csrr o => some (insnWord 0x02 0x02 o)
  | .csrw o => some (insnWord 0x02 0x03 o)
  | .agen o => some (insnWord 0x03 0x00 o)
  | .ainc o => some (insnWord 0x03 0x01 o)
  | .mma o => some (insnWord 0x08 0x00 o)
  | .accz o => some (insnWord 0x08 0x01 o)
  | .accrd o => some (insnWord 0x08 0x02 o)
  | .accwr o => some (insnWord 0x08 0x03 o)
  | .accsw o => some (insnWord 0x08 0x04 o)
  | .vld o => some (insnWord 0x09 0x00 o)
  | .vst o => some (insnWord 0x09 0x01 o)
  | .vaddF32 o => some (insnWord 0x09 0x02 o)
  | .vmulF32 o => some (insnWord 0x09 0x03 o)
  | .vfmaF32 o => some (insnWord 0x09 0x04 o)
  | .vmax o => some (insnWord 0x09 0x05 o)
  | .vexp o => some (insnWord 0x09 0x06 o)
  | .vrcp o => some (insnWord 0x09 0x07 o)
  | .vrsq o => some (insnWord 0x09 0x08 o)
  | .vderiv o => some (insnWord 0x09 0x09 o)
  | .vcvt o => some (insnWord 0x09 0x0A o)
  | .vred o => some (insnWord 0x09 0x0B o)
  | .viaddW o => some (insnWord 0x09 0x0C o)
  | .vstat o => some (insnWord 0x09 0x0D o)
  | .cpy o => some (insnWord 0x10 0x00 o)
  | .send o => some (insnWord 0x10 0x01 o)
  | .recv o => some (insnWord 0x10 0x02 o)
  | .mcast o => some (insnWord 0x10 0x03 o)
  | .swread o => some (insnWord 0x10 0x04 o)
  | .waitt o => some (insnWord 0x18 0x00 o)
  | .post o => some (insnWord 0x18 0x01 o)
  | .fence o => some (insnWord 0x18 0x02 o)
  | .tend o => some (insnWord 0x18 0x03 o)
  | .yield o => some (insnWord 0x18 0x04 o)
  | .cycleLoRead i rd => some (insnWord 0x02 0x02 ⟨i, rd, 0, 0, 0x010⟩)
  | _ => none

end Sys2Proof
end

