-- ==== Sys2Proof/Machine/Numeric.lean ====
section
/-! DEFINITION. The number formats and roundings of the engine (R85, R86, R135, R142, R149 to R156), as exact
arithmetic on dyadic numbers with one explicit rounding at the end; the position-keyed generator (R87); the
transcendental procedures (R136, R137). Nothing here touches the state. -/
namespace Sys2Proof.Machine

/-- An exact dyadic number: (-1)^neg * m * 2^e. A zero keeps its sign in `neg`. -/
structure Dy where
  neg : Bool
  m : Nat
  e : Int
deriving DecidableEq, Repr

/-- An exact real of the dyadic kind, an infinity, or a NaN: the `x` of R85. -/
inductive FVal where
  | fin (d : Dy)
  | inf (neg : Bool)
  | nan
deriving DecidableEq, Repr

/-- The value +0. -/
def FVal.zero : FVal := .fin ⟨false, 0, 0⟩

def FVal.isFinite : FVal → Bool
  | .fin _ => true
  | _ => false

def FVal.isZero : FVal → Bool
  | .fin d => d.m == 0
  | _ => false

def FVal.neg : FVal → FVal
  | .fin d => .fin { d with neg := !d.neg }
  | .inf s => .inf (!s)
  | .nan => .nan

/-- Signed significand of a dyadic at the (smaller) exponent `e`. -/
def dyAt (d : Dy) (e : Int) : Int :=
  let k : Int := Int.ofNat (d.m <<< (d.e - e).toNat)
  if d.neg then -k else k

/-- The exact sum. An exact zero sum is +0 unless both addends are -0 (R132). -/
def dyAdd (x y : Dy) : Dy :=
  let e := min x.e y.e
  let z := dyAt x e + dyAt y e
  if z = 0 then ⟨x.neg && y.neg, 0, e⟩ else ⟨decide (z < 0), z.natAbs, e⟩

def dyMul (x y : Dy) : Dy := ⟨x.neg != y.neg, x.m * y.m, x.e + y.e⟩

/-- The extended-real sum: ∞ - ∞ is NaN. -/
def fvAdd : FVal → FVal → FVal
  | .fin x, .fin y => .fin (dyAdd x y)
  | .nan, _ => .nan
  | _, .nan => .nan
  | .inf a, .inf b => if a == b then .inf a else .nan
  | .inf a, _ => .inf a
  | _, .inf b => .inf b

/-- The extended-real product: 0 × ∞ is NaN. -/
def fvMul : FVal → FVal → FVal
  | .fin x, .fin y => .fin (dyMul x y)
  | .nan, _ => .nan
  | _, .nan => .nan
  | .inf a, .inf b => .inf (a != b)
  | .inf a, .fin y => if y.m = 0 then .nan else .inf (a != y.neg)
  | .fin x, .inf b => if x.m = 0 then .nan else .inf (x.neg != b)

/-- A floating-point format (R150): field widths, bias, the largest finite value `maxM * 2^maxE`, whether it has
infinities, its canonical NaN, and the encoding of its largest finite value. -/
structure Fmt where
  ebits : Nat
  mbits : Nat
  bias : Nat
  maxM : Nat
  maxE : Int
  hasInf : Bool
  hasNan : Bool
  nanBits : Nat
  maxBits : Nat
deriving DecidableEq, Repr

def fmtFP32 : Fmt := ⟨8, 23, 127, 2 ^ 24 - 1, 104, true, true, 0x7FC00000, 0x7F7FFFFF⟩
def fmtBF16 : Fmt := ⟨8, 7, 127, 255, 120, true, true, 0x7FC0, 0x7F7F⟩
def fmtFP16 : Fmt := ⟨5, 10, 15, 2047, 5, true, true, 0x7E00, 0x7BFF⟩
def fmtE4M3 : Fmt := ⟨4, 3, 7, 14, 5, false, true, 0x7F, 0x7E⟩
def fmtE5M2 : Fmt := ⟨5, 2, 15, 7, 13, true, true, 0x7E, 0x7B⟩
def fmtE2M1 : Fmt := ⟨2, 1, 1, 3, 1, false, false, 0x7, 0x7⟩
/-- FP64, in which the update unit computes (R282). -/
def fmtFP64 : Fmt := ⟨11, 52, 1023, 2 ^ 53 - 1, 971, true, true, 0x7FF8000000000000, 0x7FEFFFFFFFFFFFFF⟩

/-- The position of a format's sign bit. -/
def Fmt.signAt (F : Fmt) : Nat := F.ebits + F.mbits

/-- The exact value that an encoding has (R150). -/
def decodeF (F : Fmt) (bits : Nat) : FVal :=
  let sg := (bits >>> F.signAt) % 2 == 1
  let ef := (bits >>> F.mbits) % 2 ^ F.ebits
  let mf := bits % 2 ^ F.mbits
  if ef = 2 ^ F.ebits - 1 ∧ F.hasInf then (if mf = 0 then .inf sg else .nan)
  else if ef = 2 ^ F.ebits - 1 ∧ F.hasNan ∧ mf = 2 ^ F.mbits - 1 then .nan
  else if ef = 0 then .fin ⟨sg, mf, 1 - (F.bias : Int) - (F.mbits : Int)⟩
  else .fin ⟨sg, mf + 2 ^ F.mbits, (ef : Int) - (F.bias : Int) - (F.mbits : Int)⟩

/-- The smallest normal exponent of a format. -/
def Fmt.emin (F : Fmt) : Int := 1 - (F.bias : Int)

/-- ⌊log2 |d|⌋ of a non-zero dyadic. -/
def dyLog (d : Dy) : Int := (Nat.log2 d.m : Int) + d.e

/-- Is |d| above m * 2^e? -/
def dyAbove (d : Dy) (m : Nat) (e : Int) : Bool :=
  let k := min d.e e
  decide (d.m <<< (d.e - k).toNat > m <<< (e - k).toNat)

/-- A rounding: to nearest even, towards zero, or stochastic with a 16-bit draw (R85). -/
inductive Rnd where
  | rne
  | rz
  | sr (draw : Nat)
deriving DecidableEq, Repr

/-- m / 2^sh rounded to an integer. -/
def roundShift (r : Rnd) (m sh : Nat) : Nat :=
  let q := m >>> sh
  let rem := m % 2 ^ sh
  match r with
  | .rne => if 2 * rem > 2 ^ sh ∨ (2 * rem = 2 ^ sh ∧ q % 2 = 1) then q + 1 else q
  | .rz => q
  | .sr d => if (rem <<< 16) >>> sh + d ≥ 65536 then q + 1 else q

/-- d rounded onto the multiples of 2^u. -/
def roundTo (r : Rnd) (d : Dy) (u : Int) : Dy :=
  if d.e ≥ u then ⟨d.neg, d.m <<< (d.e - u).toNat, u⟩ else ⟨d.neg, roundShift r d.m (u - d.e).toNat, u⟩

/-- The spacing exponent of G* (R85) at d. -/
def quantum (F : Fmt) (d : Dy) : Int := max (dyLog d) F.emin - (F.mbits : Int)

/-- The encoding of a dyadic that lies in G(F). -/
def encodeDy (F : Fmt) (d : Dy) : Nat :=
  let sg := if d.neg then 2 ^ F.signAt else 0
  if d.m = 0 then sg
  else
    let u := quantum F d
    let k := if d.e ≥ u then d.m <<< (d.e - u).toNat else d.m >>> (u - d.e).toNat
    if k < 2 ^ F.mbits then sg + k
    else sg + ((u + (F.mbits : Int) + (F.bias : Int)).toNat <<< F.mbits) + (k - 2 ^ F.mbits)

def signBits (F : Fmt) (neg : Bool) : Nat := if neg then 2 ^ F.signAt else 0

/-- ovf(F, s) of R152. -/
def ovfBits (F : Fmt) (neg : Bool) : Nat :=
  if F.hasInf then signBits F neg + ((2 ^ F.ebits - 1) <<< F.mbits)
  else if F.hasNan then signBits F neg + F.nanBits
  else signBits F neg + F.maxBits

/-- A rounding of the exact value x into F: the helpers rne, rz and sr of R85. -/
def roundF (F : Fmt) (r : Rnd) (x : FVal) : Nat :=
  match x with
  | .nan => F.nanBits
  | .inf s => match r with
    | .rz => signBits F s + F.maxBits
    | _ => ovfBits F s
  | .fin d =>
    if d.m = 0 then signBits F d.neg
    else
      let y := roundTo r d (quantum F d)
      if dyAbove y F.maxM F.maxE then
        (match r with
         | .rz => signBits F d.neg + F.maxBits
         | _ => ovfBits F d.neg)
      else encodeDy F y

/-- sat(x, F) of R85. -/
def satF (F : Fmt) (x : FVal) : FVal :=
  match x with
  | .nan => .nan
  | .inf s => .fin ⟨s, F.maxM, F.maxE⟩
  | .fin d => if dyAbove d F.maxM F.maxE then .fin ⟨d.neg, F.maxM, F.maxE⟩ else x

/-- The rounding that a 2-bit RM selects (R86); `draw` is the pkg() draw that 0b10 uses. -/
def rmRound (F : Fmt) (rm draw : Nat) (x : FVal) : Nat :=
  if rm = 1 then roundF F .rz x
  else if rm = 2 then roundF F (.sr draw) x
  else if rm = 3 then roundF F .rne (satF F x)
  else roundF F .rne x

/-- The rounding that RM selects onto the integers, with no limit (R142, R144); the sign is carried. -/
def rmInt (rm draw : Nat) (d : Dy) : Int :=
  let r : Rnd := if rm = 1 then .rz else if rm = 2 then .sr draw else .rne
  dyAt (roundTo r d 0) 0

/-- Conversion into a signed integer range: NaN gives 0, beyond the range gives the nearest limit (R142). -/
def rmIntClamp (rm draw : Nat) (lo hi : Int) (x : FVal) : Int :=
  match x with
  | .nan => 0
  | .inf s => if s then lo else hi
  | .fin d => max lo (min hi (rmInt rm draw d))

/-- An integer as an exact value (zero is +0). -/
def fvInt (z : Int) : FVal := .fin ⟨decide (z < 0), z.natAbs, 0⟩

/-- x * 2^k, exactly. -/
def fvScale (x : FVal) (k : Int) : FVal :=
  match x with
  | .fin d => .fin { d with e := d.e + k }
  | y => y

/-- An n-bit field read as a two's-complement integer (R85). -/
def sextN (v n : Nat) : Int :=
  let w := v % 2 ^ n
  if w ≥ 2 ^ (n - 1) then (w : Int) - ((2 ^ n : Nat) : Int) else (w : Int)

/-- An integer as an n-bit two's-complement field. -/
def toField (z : Int) (n : Nat) : Nat := (z % ((2 ^ n : Nat) : Int)).toNat

/-- FP32 shorthands. -/
def f32 (bits : Nat) : FVal := decodeF fmtFP32 bits
def nan32 : Nat := 0x7FC00000
def rne32 (x : FVal) : Nat := roundF fmtFP32 .rne x
def f32add (rm a b : Nat) : Nat := rmRound fmtFP32 rm 0 (fvAdd (f32 a) (f32 b))
def f32mul (rm a b : Nat) : Nat := rmRound fmtFP32 rm 0 (fvMul (f32 a) (f32 b))
def f32fma (rm a b c : Nat) : Nat := rmRound fmtFP32 rm 0 (fvAdd (fvMul (f32 a) (f32 b)) (f32 c))
def isInf32 (bits : Nat) : Bool := bits % 2 ^ 31 == 0x7F800000
def isNan32 (bits : Nat) : Bool := decide (bits % 2 ^ 31 > 0x7F800000)
def max32 (neg : Bool) : Nat := (if neg then 2 ^ 31 else 0) + 0x7F7FFFFF

/-- The in-bank FP32 add of one element (R53): the sum, the saturation flag and the non-finite flag. -/
def bankAdd (a b : Nat) : Nat × Bool × Bool :=
  let x := f32 a
  let y := f32 b
  if x.isFinite && y.isFinite then
    let z := rne32 (fvAdd x y)
    if isInf32 z then (max32 (decide (z ≥ 2 ^ 31)), true, false) else (z, false, false)
  else (nan32, false, true)

/-- The order key of a non-NaN FP32: +0 above -0 (R133). -/
def key32 (b : Nat) : Int := if b ≥ 2 ^ 31 then -1 - ((b - 2 ^ 31 : Nat) : Int) else (b : Int)

/-- VMAX of two FP32 lanes (R133). -/
def f32max (a b : Nat) : Nat :=
  if isNan32 a || isNan32 b then nan32 else if key32 a ≥ key32 b then a else b

/-- VMAX of two INT32 lanes. -/
def i32max (a b : Nat) : Nat := if sextN a 32 ≥ sextN b 32 then a else b

/-- The floating format of a code 0x0 to 0x4, where the code names one (R149); element bits of any code. -/
def fmtOfCode (c : Nat) : Option Fmt :=
  if c = 0 then some fmtFP32 else if c = 1 then some fmtBF16 else if c = 2 then some fmtFP16
  else if c = 3 then some fmtE4M3 else if c = 4 then some fmtE5M2 else none

/-- The element format and emax of an MX code (R143). -/
def mxFmt (c : Nat) : Option (Fmt × Int) :=
  if c = 5 then some (fmtE4M3, 8) else if c = 6 then some (fmtE5M2, 15)
  else if c = 7 then some (fmtE2M1, 2) else none

/-- The element format of an array operand (R42). -/
def elemFmt (c : Nat) : Option Fmt :=
  match fmtOfCode c with
  | some F => if c = 0 then none else some F
  | none => (mxFmt c).map (·.1)

/-- Bits per element of an array operand (R121). -/
def elemBits (c : Nat) : Nat := if c ≤ 2 then 16 else if c ≤ 6 then 8 else 4

/-- Products per cell per cycle (R42). -/
def fmtRate (c : Nat) : Nat := if c ≤ 2 then 1 else if c ≤ 6 then 2 else 4

/-- The exact value of an MX element under its E8M0 scale (R125, R154). -/
def mxVal (F : Fmt) (bits scale : Nat) : FVal :=
  if scale % 256 = 255 then .nan else fvScale (decodeF F bits) ((scale % 256 : Nat) - 127 : Int)

/-- One MX block narrowing (R143): the scale byte and the element encodings. `draws` gives draw(i). -/
def mxNarrow (F : Fmt) (emax : Int) (rm : Nat) (draws : Nat → Nat) (xs : List FVal) : Nat × List Nat :=
  if xs.any (fun x => !x.isFinite) then (255, xs.map (fun _ => 0))
  else
    let lg (x : FVal) : Option Int := match x with
      | .fin d => if d.m = 0 then none else some (dyLog d)
      | _ => none
    let top := xs.foldl (fun (acc : Option Int) x => match acc, lg x with
      | none, y => y
      | some a, some b => some (max a b)
      | some a, none => some a) none
    let X : Int := match top with
      | none => -127
      | some t => max (-127) (min 127 (t - emax))
    let one (i : Nat) (x : FVal) : Nat :=
      let e := rmRound F rm (draws i) (fvScale x (-X))
      if (decodeF F e).isFinite then e
      else signBits F (match x with
        | .fin d => d.neg
        | _ => false) + F.maxBits
    ((X + 127).toNat, xs.mapIdx one)

/-- rrun of R125: nearest even with a 32-bit significand; an exact zero gives +0. -/
def rrun (d : Dy) : Dy :=
  if d.m = 0 then ⟨false, 0, 0⟩
  else if Nat.log2 d.m < 32 then d else roundTo .rne d (dyLog d - 31)

/-- A W grid conversion (R144): the mantissa, ESC and the non-finite flag. -/
def wNarrow (w B rm draw : Nat) (x : FVal) : Int × Bool × Bool :=
  match x with
  | .fin d =>
    let M : Int := ((2 ^ (w - 1) - 1 : Nat) : Int)
    let q := rmInt rm draw { d with e := d.e - ((B : Int) - 127 - ((w : Int) - 2)) }
    if q > M then (M, true, false) else if q < -M then (-M, true, false) else (q, false, false)
  | _ => (0, false, true)

/-- The exact value of a W mantissa (R144, R164). -/
def wVal (w B : Nat) (q : Int) : FVal := fvScale (fvInt q) ((B : Int) - 127 - ((w : Int) - 2))

/-- VIADD.W of one lane (R145): the clamped sum and ESC. -/
def wAdd (w : Nat) (sub : Bool) (x y : Int) : Int × Bool :=
  let M : Int := ((2 ^ (w - 1) - 1 : Nat) : Int)
  let z := if sub then x - y else x + y
  if z > M then (M, true) else if z < -M then (-M, true) else (z, false)

/-- Rotation of a 32-bit word (R87). -/
def rotl32 (v n : Nat) : Nat := ((v <<< n) ||| ((v % 2 ^ 32) >>> (32 - n))) % 2 ^ 32

def pkgRound (k0 k1 k2 : Nat) (i : Nat) (t : Nat × Nat × Nat) : Nat × Nat × Nat :=
  let a := rotl32 ((t.1 + (t.2.1 ^^^ k0)) % 2 ^ 32) 7
  let b := rotl32 ((t.2.1 + (t.2.2 ^^^ k1)) % 2 ^ 32) 11
  let c := rotl32 ((t.2.2 + (a ^^^ k2) + (i * 0x9E3779B9) % 2 ^ 32) % 2 ^ 32) 19
  (a, b, c)

/-- pkg(): the 16-bit draw of the position-keyed generator (R87). -/
def pkg (seed stream step tid idx : Nat) : Nat :=
  let t := (List.range 10).foldl
    (fun t i => pkgRound (seed % 2 ^ 32) ((seed >>> 32) % 2 ^ 32) (stream % 2 ^ 16) i t)
    (idx % 2 ^ 32, 2 ^ 12 * (tid % 2 ^ 20) + (idx >>> 32) % 2 ^ 12, step % 2 ^ 32)
  (t.1 ^^^ t.2.1 ^^^ t.2.2) % 2 ^ 16

/-- ⌊√n⌋ for n below 2^(2k), bit by bit. -/
def isqrtAux (n : Nat) : Nat → Nat → Nat
  | 0, r => r
  | k + 1, r => isqrtAux n k (if (r + 2 ^ k) * (r + 2 ^ k) ≤ n then r + 2 ^ k else r)

def isqrt (n : Nat) : Nat := isqrtAux n (Nat.log2 n / 2 + 1) 0

/-- TE[j] = nint(2^(j/64) * 2^30) (R136): half of the 64th root of 2^(j + 64*31), rounded. -/
def expTable (j : Nat) : Nat :=
  (isqrt (isqrt (isqrt (isqrt (isqrt (isqrt (2 ^ (j + 64 * 31))))))) + 1) / 2

/-- Λ and C1 to C3 of R136: nint(log2(e) * 2^30), nint(ln 2 * 2^30), nint((ln 2)^2 / 2 * 2^30),
nint((ln 2)^3 / 6 * 2^30). -/
def expLambda : Int := 1549082005
def expC1 : Int := 744261118
def expC2 : Int := 257941248
def expC3 : Int := 59597083

/-- VEXP of one FP32 lane (R136). -/
def vexp32 (bits : Nat) : Nat :=
  match f32 bits with
  | .nan => nan32
  | .inf s => if s then 0 else 0x7F800000
  | .fin d =>
    if dyAbove d 128 0 then (if d.neg then 0 else 0x7F800000)
    else
      let X : Int := dyAt (roundTo .rne { d with e := d.e + 24 } 0) 0
      let Y : Int := (X * expLambda + 2 ^ 23) / 2 ^ 24
      let n : Int := Y / 2 ^ 30
      let f : Int := Y - 2 ^ 30 * n
      let j : Int := f / 2 ^ 24
      let dd : Int := f - 2 ^ 24 * j
      let P := expC2 + (expC3 * dd) / 2 ^ 30
      let P := expC1 + (P * dd) / 2 ^ 30
      let P := 2 ^ 30 + (P * dd) / 2 ^ 30
      let Mx : Int := ((expTable j.toNat : Nat) : Int) * P / 2 ^ 30
      rne32 (.fin ⟨false, Mx.toNat, n - 30⟩)

/-- M and e of R137: the non-zero finite value as M * 2^(e - 23), 2^23 ≤ M < 2^24. -/
def normM (d : Dy) : Nat × Int :=
  let l := Nat.log2 d.m
  (if l ≤ 23 then d.m <<< (23 - l) else d.m >>> (l - 23), dyLog d)

/-- TR[j] of R137. -/
def rcpTable (j : Nat) : Nat := (2 ^ 40 / (257 + 2 * j) + 1) / 2

/-- TQ[j] of R137. -/
def rsqTable (j : Nat) : Nat := (isqrt (2 ^ 71 / (2 * j + 129)) + 1) / 2

/-- VRCP of one FP32 lane (R137). -/
def vrcp32 (bits : Nat) : Nat :=
  match f32 bits with
  | .nan => nan32
  | .inf s => if s then 2 ^ 31 else 0
  | .fin d =>
    if d.m = 0 then (if d.neg then 0xFF800000 else 0x7F800000)
    else
      let (M, e) := normM d
      let it (y : Int) : Int := y + (y * (2 ^ 54 - (M : Int) * y)) / 2 ^ 54
      let y := it (it ((rcpTable ((M >>> 16) % 128) : Nat) : Int))
      rne32 (.fin ⟨d.neg, y.toNat, -31 - e⟩)

/-- VRSQ of one FP32 lane (R137). -/
def vrsq32 (bits : Nat) : Nat :=
  match f32 bits with
  | .nan => nan32
  | .inf s => if s then nan32 else 0
  | .fin d =>
    if d.m = 0 then (if d.neg then 0xFF800000 else 0x7F800000)
    else if d.neg then nan32
    else
      let (M0, e0) := normM d
      let odd := e0 % 2 = 1
      let M : Nat := if odd then 2 * M0 else M0
      let e : Int := if odd then e0 - 1 else e0
      let it (y : Int) : Int := y + (y * (2 ^ 54 - (M : Int) * ((y * y) / 2 ^ 31))) / 2 ^ 55
      let y := it (it ((rsqTable ((M >>> 17) - 64) : Nat) : Int))
      rne32 (.fin ⟨false, y.toNat, -31 - e / 2⟩)

/-- VDERIV of one lane (R138). DESIGN CHOICE (log entry 37): for ReLU the row gives `g if y > 0, else +0` and then returns a NaN g as
0x7FC0_0000; the model lets the NaN rule win whatever y is. -/
def vderiv32 (fn y g : Nat) : Nat :=
  let Y := f32 y
  let G := f32 g
  let one : FVal := .fin ⟨false, 1, 0⟩
  if fn = 0 then rne32 (fvMul (fvMul G Y) (fvAdd one Y.neg))
  else if fn = 1 then rne32 (fvMul G (fvAdd one (fvMul Y Y).neg))
  else if fn = 2 then rne32 (fvMul G Y)
  else if isNan32 y || isNan32 g then nan32
  else match Y with
    | .fin d => if d.m ≠ 0 ∧ !d.neg then g else 0
    | .inf s => if s then 0 else g
    | .nan => nan32

/-- The quotient x / y of dyadics with y ≠ 0, to 70 bits and a sticky bit: rounding it once, to any format of at most 60
significand bits, is rounding the exact quotient once. -/
def dyDiv (x y : Dy) : Dy :=
  if x.m = 0 then ⟨x.neg != y.neg, 0, 0⟩
  else
    let k := Nat.log2 y.m + 70
    let n := x.m <<< k
    let q := n / y.m
    ⟨x.neg != y.neg, 2 * q + (if n % y.m = 0 then 0 else 1), x.e - y.e - (k : Int) - 1⟩

/-- √x of a non-negative dyadic, to at least 70 bits and a sticky bit. -/
def dySqrt (x : Dy) : Dy :=
  if x.m = 0 then ⟨x.neg, 0, 0⟩
  else
    let odd := x.e % 2 = 1
    let m := (if odd then 2 * x.m else x.m) <<< 140
    let e := if odd then x.e - 1 else x.e
    let r := isqrt m
    ⟨false, 2 * r + (if r * r = m then 0 else 1), e / 2 - 70 - 1⟩

/-- FP64 operations, each rounded once to nearest even (R282). -/
def f64 (bits : Nat) : FVal := decodeF fmtFP64 bits
def rne64 (x : FVal) : FVal := f64 (roundF fmtFP64 .rne x)
def d64add (a b : FVal) : FVal := rne64 (fvAdd a b)
def d64mul (a b : FVal) : FVal := rne64 (fvMul a b)
def d64div (a b : FVal) : FVal :=
  match a, b with
  | .nan, _ => .nan
  | _, .nan => .nan
  | .inf _, .inf _ => .nan
  | .inf s, .fin y => .inf (s != y.neg)
  | .fin x, .inf s => .fin ⟨x.neg != s, 0, 0⟩
  | .fin x, .fin y =>
    if y.m = 0 then (if x.m = 0 then .nan else .inf (x.neg != y.neg)) else rne64 (.fin (dyDiv x y))
def d64sqrt (a : FVal) : FVal :=
  match a with
  | .nan => .nan
  | .inf s => if s then .nan else .inf false
  | .fin x => if x.m = 0 then a else if x.neg then .nan else rne64 (.fin (dySqrt x))

/-- Element i of width w of a wide value held as a number. -/
def elemAt (v w i : Nat) : Nat := (v >>> (w * i)) % 2 ^ w

/-- The value whose element i of width w is the i-th of the list. -/
def ofElems (w : Nat) : List Nat → Nat
  | [] => 0
  | x :: xs => x % 2 ^ w + (ofElems w xs) <<< w

/-- The first n elements of width w. -/
def elemsOf (v w n : Nat) : List Nat := (List.range n).map (elemAt v w)

/-- v with bits [lo + n - 1 : lo] replaced by the low bits of x. -/
def setBits (v lo n x : Nat) : Nat :=
  v % 2 ^ lo + (x % 2 ^ n) <<< lo + (v >>> (lo + n)) <<< (lo + n)

end Sys2Proof.Machine
end

