-- ==== Sys2Proof/Machine/TileState.lean ====
section
/-! DEFINITION. The state of one tile and of its two routers: the task slots, queues, registers, accumulators, SRAM,
unit queues, receive counters, and the packets and messages that travel between tiles. Plain data only. -/
namespace Sys2Proof.Machine

/-- A tile SRAM window a task declares (R90, R220). -/
structure Window where
  base : Nat
  len : Nat
  r : Bool
  w : Bool
  x : Bool
deriving DecidableEq, Repr

/-- The Winnow kernel on a reduction tile (R297): it runs as tasks of queue 3, with a window of its own. -/
structure KernelTask where
  tile : Nat
  queue : Nat
  win : Window
deriving DecidableEq, Repr

/-- The kernel on a tile: its window covers the Winnow reserve, banks 8 to 11, and nothing else. -/
def KernelTask.on (i : Nat) : KernelTask := ⟨i, 3, ⟨0x20000, 0x10000, true, true, true⟩⟩

/-- A TOKEN edge resolved at load: consumer tile index, consumer key with the step of its instance (R226), priority. -/
structure TokEdge where
  dst : Nat
  tid : BitVec 20
  pri : Nat
deriving DecidableEq, Repr

/-- What the dispatcher loads from one task-list entry (R63, R69, R220). `tokens` is the counter's initial value. -/
structure TaskDesc where
  graph : Nat
  task : Nat
  subNo : Nat
  step : W32
  ctx : BitVec 8
  sec : Bool
  queue : Nat
  tid : BitVec 20
  entry : BitVec 18
  args : List W32
  bases : List Addr
  wins : List Window
  tokens : Nat
  wdog : Nat
  prom : Nat
  ordered : Bool
  edges : List TokEdge
  /-- A re-dispatched task (R311): no COMPLETION unless it traps. -/
  silent : Bool
  /-- A task of a pass that is repeated after an escalation (R177): its COMPLETION tells of its anchors alone. -/
  repass : Bool
deriving DecidableEq, Repr

/-- The slot states of R64; a Free slot is a slot that is not listed. -/
inductive SlotSt where
  | waiting | ready | running | draining | faulted
deriving DecidableEq, Repr

/-- The trap report of R91 and R92: code, PC, unit (0 scalar or dispatcher, 1 array, 2 vector, 3 copy). -/
structure TrapRec where
  code : Nat
  pc : BitVec 18
  unit : Nat
deriving DecidableEq, Repr

/-- The save area of a slot: PC, s0 to s7, a0 to a3 and the task's flags (R63, R69). The manual lists no flag of a task, so
they are written 0 and read by nothing. DESIGN CHOICE, log entry 48. -/
structure SaveArea where
  pc : BitVec 18
  s : List W32
  a : List Addr
  flags : BitVec 32
deriving DecidableEq, Repr

/-- One task slot that is not Free. `owed` counts packets sent and not acknowledged, `hbmOwed` lines sent to SPACE 0x2
and not yet visible (R114, R235); `seqs` the next SEQ per TID (R186); `promo` the promotion number of a promoted Q2
slot and `recorded` the load numbers it waits for (R232). -/
structure Slot where
  st : SlotSt
  task : TaskDesc
  counter : Nat
  save : Option SaveArea
  loadNo : Nat
  owed : Nat
  hbmOwed : Nat
  seqs : Tab Nat
  promo : Option Nat
  recorded : List Nat
  trap : Option TrapRec
  cancelled : Bool
  ord : Nat
deriving DecidableEq, Repr

/-- A receive counter (R109). `late` is the LATE bit; `lateWatch`: a wait on the key has timed out and no later wait has
begun (R111); `over`: an addition would have passed 65,535. -/
structure RxCounter where
  ctx : BitVec 8
  tid : BitVec 20
  count : Nat
  late : Bool
  lateWatch : Bool
  ovf : Bool
deriving DecidableEq, Repr

/-- A byte range of tile SRAM: start and length. -/
structure Rng where
  lo : Nat
  len : Nat
deriving DecidableEq, Repr

/-- The position block of R141 with the generator stream and the task's seed role. -/
structure PosBlock where
  stream : Nat
  step : Nat
  tid : Nat
  idx : Nat
deriving DecidableEq, Repr

/-- What a unit instruction does, with every scalar and address value it needs captured at issue. -/
inductive UKind where
  | mma (bank : Bool) (ora orb : Bool) (fa fb : Nat) (k : Nat) (pair : Bool) (runlen : Nat) (aBase bBase : Nat)
  | accz (bank pair : Bool)
  | accrd (bank rel add : Bool) (fmt rm : Nat) (pos : PosBlock) (dst : Nat)
  | accwr (bank : Bool) (fmt : Nat) (src : Nat)
  | accsw
  | vld (vd : Nat) (col : Bool) (esz stride : Nat) (ea : Nat)
  | vst (vs : Nat) (add : Bool) (ea : Nat)
  | vadd (vd v1 v2 rm : Nat)
  | vmul (vd v1 v2 rm : Nat)
  | vfma (vd v1 v2 rm : Nat)
  | vmax (vd v1 v2 : Nat) (int : Bool)
  | vexp (vd v1 : Nat)
  | vrcp (vd v1 : Nat)
  | vrsq (vd v1 : Nat)
  | vderiv (vd v1 v2 fn : Nat)
  | vcvt (vd v1 fd fs rm part sd : Nat) (sdVal : Nat) (pos : PosBlock)
  | vred (sd v1 op : Nat)
  | viadd (vd v1 v2 wf : Nat) (sub : Bool) (ef : Nat)
  | vstat (vd v1 fmt : Nat) (half : Bool) (nl : Nat)
  | cpy (srcSp src dstSp dst n : Nat) (add : Bool) (cls fmt : Nat) (tid : BitVec 20)
  | send (src : Nat) (dx dy dst n : Nat) (rk span : Nat) (add tok : Bool) (cls fmt : Nat) (tid : BitVec 20)
  | recv (dst n : Nat) (tid : BitVec 20)
  | swread (src dst n : Nat) (fmt : Nat) (t : Bool) (rm kb v0 : Nat) (tid : BitVec 20)
deriving DecidableEq, Repr

/-- A unit instruction in a queue or in an engine. `no` is its place in program order on the tile; `slot` and `load` name its
task: the slot, and the load that put the task there, so that a slot reused by another task is told apart (R244); `rds`, `wrs` the
ranges of its scoreboard entries (R38, R39), `entries` how many it holds; `sregs` the scalar registers it writes. `left`
counts the lines or answers a started copy still waits for. -/
structure UOp where
  no : Nat
  pc : BitVec 18
  slot : Nat
  load : Nat
  sec : Bool
  ctx : BitVec 8
  step : W32
  kind : UKind
  rds : List Rng
  wrs : List Rng
  entries : Nat
  sregs : List Nat
  left : Nat
deriving DecidableEq, Repr

/-- A RECV that has begun to wait. `alloc`: its receive counter is allocated (R109). -/
structure RecvWait where
  op : UOp
  n : Nat
  tid : BitVec 20
  alloc : Bool
deriving DecidableEq, Repr

/-- Why the running task issues nothing (R37, R112, R114, R120). -/
inductive Stall where
  | waitt (tid : BitVec 20) (n : Nat) (alloc : Bool) (pc : BitVec 18)
  | fence (mode : Nat) (pc : BitVec 18)
  | accRead (rd : Nat)
  | accWrite (v : W32)
deriving DecidableEq, Repr

/-- One accumulator bank: elements keyed 64 * row + column (unlisted: +0), sticky flags, owner tag (R47, R49). -/
structure AccBank where
  elems : Tab (BitVec 32)
  sat : Bool
  nf : Bool
  own : Nat
deriving DecidableEq, Repr

def AccBank.init : AccBank := ⟨[], false, false, 0⟩

/-- A reference to a task: what an entry of a task list is (R230). -/
structure TaskRef where
  graph : Nat
  task : Nat
deriving DecidableEq, Repr

/-- The walk of one queue of one role over the submissions of the sheaf (R225): the submission number, the instance's
ordinal in it, and the next list position. -/
structure Cursor where
  sub : Nat
  inst : Nat
  pos : Nat
deriving DecidableEq, Repr

/-- The role contexts of a tile: CTX, current EPOCH and job seed (R159, R191). -/
structure RoleCtx where
  ctx : BitVec 8
  epoch : Nat
  seed : BitVec 64
deriving DecidableEq, Repr

/-- An ordered completion held in the retire-order buffer (R239), with the queue and load order it keeps. -/
structure HeldCompl where
  queue : Nat
  ctx : BitVec 8
  order : Nat
  epoch : Nat
  task : Nat
  step : W32
  graph : Nat
  subNo : Nat
  trap : Option TrapRec
deriving DecidableEq, Repr

/-- The power and clock state of a tile (R34, R72, R216). -/
inductive TilePower where
  | run | fallow | deep
deriving DecidableEq, Repr

/-- A log record (R436): kind, reporting unit and index, context, step, island stamp (R208), ARG, Cairn time. -/
structure LogRec where
  kind : Nat
  unit : Nat
  index : Nat
  ctx : Option (BitVec 8)
  step : Option W32
  stamp : Option (Nat × Nat)
  arg : Nat
  ms : Nat
deriving DecidableEq, Repr

/-- A SWREAD request as it travels to the swath controller (R201, R275). -/
structure SwReq where
  tile : Nat
  slot : Nat
  op : Nat
  ctx : BitVec 8
  tid : BitVec 20
  addr : Nat
  n : Nat
  fmt : Nat
  t : Bool
  rm : Nat
  kb : Nat
  v0 : Nat
deriving DecidableEq, Repr

/-- What a mesh packet is for. The manual lays out header and routing word (R186, R187) and leaves the payload form of
the engine's own requests open; a structured body stands for it. -/
inductive PBody where
  /-- An ordinary data line for tile SRAM. -/
  | line
  /-- A request for line `off` of the context's HBM or swath view, for copy operation `op` of the sending tile, to be answered on
  class `cls` (R262). -/
  | readReq (space off op idx cls : Nat)
  /-- The answer to a `readReq`. -/
  | readData (op idx : Nat)
  /-- A line write to offset `off` of the context's HBM or swath view. -/
  | write (space off : Nat)
  /-- A SWREAD request. -/
  | swReq (r : SwReq)
  /-- One converted line of a SWREAD answer (R202): the operations it answers as (tile, operation), the line's offset
  from A(rd), and which of its 64 bytes it carries. -/
  | swLine (readers : List (Nat × Nat)) (off : Nat) (mask : BitVec 64)
  /-- A swath fill line on its way from a Saddle die to a port die: port, block table entry, line index, and the step of the walk that
  fetched it. -/
  | fill (port entry line : Nat) (step : W32)
  /-- Line `idx` of `total` of a peer frame in transit to port die `port` (R213, R362); the last one completes the frame. -/
  | transit (port idx total : Nat) (f : Option RawFrame)
  /-- The final sum of a chunk on its way from the collect tile to the landing Saddle die (R307): tag, chunk, attempt format,
  line number of the chunk. -/
  | landing (step : W32) (bucket chunk : Nat) (last : Bool)
  /-- An uncorrectable-error report (R435). -/
  | report (r : LogRec)
deriving DecidableEq, Repr

/-- A mesh packet: the header of R186, the routing word of R187 and the payload. -/
structure Pkt where
  rk : Nat
  add : Bool
  tok : Bool
  hop : Nat
  epoch : Nat
  psn : Bool
  cls : Nat
  seq : Nat
  fmt : Nat
  tid : BitVec 20
  ctx : BitVec 8
  span : Nat
  slot : Nat
  rsv : Nat
  line : Nat
  dstY : Nat
  dstX : Nat
  srcY : Nat
  srcX : Nat
  data : Line
  body : PBody
deriving DecidableEq, Repr

/-- The bodies of Awn messages (R205, R206, R238). -/
inductive AwnBody where
  | token
  | count
  | ack (slot : Nat) (n : Nat) (hbm : Bool)
  /-- Copies of a swath multicast acknowledged to the swath controller (R200). -/
  | swAck (n : Nat)
  /-- The task form; the graph handle and submission number stand for what the retire unit knows of the instance. `again`: of a
  task that runs again while its instance goes on (R311, R177). DESIGN CHOICE, log entry 51. -/
  | complTask (graph task : Nat) (faulted : Bool) (step : W32) (subNo : Nat) (again : Bool)
  | complDetail (trap unit : Nat) (pc : Nat)
  | probe (tile tag : Nat)
  | answer (tile tag : Nat)
  | routerAnswer (tile tag : Nat)
  /-- A message whose KIND, or whose SUB in bits [32:29], is reserved: KIND and bits [32:0]. -/
  | reserved (kind body : Nat)
deriving DecidableEq, Repr

/-- An Awn message: destination, EPOCH, CTX, TID, priority, the tile it was issued by, whether it is
for the retire unit behind the destination tile's Edge port (R237), and body. -/
structure AwnMsg where
  dstX : Nat
  dstY : Nat
  epoch : Nat
  ctx : BitVec 8
  tid : BitVec 20
  pri : Nat
  src : Nat
  toSaddle : Bool
  body : AwnBody
deriving DecidableEq, Repr

/-- An output's arbitration state (R197, R207): position in the window, whether VC3 (priority 2) was served in it, and
the last input served per VC (priority). DEDUCED, log entry 17. -/
structure ArbState where
  pos : Nat
  low : Bool
  rr : Tab Nat
deriving DecidableEq, Repr

/-- One wire group of one link direction (R210): errors counted in the window, wires steered onto spares. -/
structure WireGroup where
  errs : Nat
  steered : List Nat
deriving DecidableEq, Repr

/-- One link direction's repair state: the groups under repair, failed or not, per-group counts. -/
structure LinkSt where
  repairing : List Nat
  failed : Bool
  groups : Tab WireGroup
deriving DecidableEq, Repr

def LinkSt.init : LinkSt := ⟨[], false, []⟩

/-- One router: flits held per input and VC (key 4 * port + vc on the mesh, 3 * port + priority on the Awn network),
arbitration per output, and the packets ejected and not yet handled. Ports: 0 N, 1 E, 2 S, 3 W, 4 Local, 5 Face,
6 Edge (R182). -/
structure Router (α : Type) where
  inq : Tab (List α)
  arb : Tab ArbState
  eject : List α
deriving DecidableEq, Repr

def Router.init (α : Type) : Router α := ⟨[], [], []⟩

/-- An ACK a destination owes: source tile and slot, or the swath controller at that port tile (R200), context and EPOCH of the
packets, packets counted so far (R192). -/
structure AckDue where
  src : Nat
  swath : Bool
  slot : Nat
  ctx : BitVec 8
  epoch : Nat
  n : Nat
deriving DecidableEq, Repr

/-- One tile. Everything that R71 resets stands in fields that `Tile.init` gives; the fields of the router island and of
the sheaf survive a tile reset as their writers leave them. -/
structure Tile where
  power : TilePower
  /-- The DVFS point in units of 0.1 GHz (R34). -/
  freq : Nat
  /-- The tile-hot gating of R502. -/
  hot : Bool
  failed : Bool
  inSheaf : Bool
  orgX : Nat
  orgY : Nat
  dimW : Nat
  dimH : Nat
  pri : Option RoleCtx
  snd : Option RoleCtx
  s : Tab W32
  a : Tab Addr
  v : Tab Line
  pc : BitVec 18
  running : Option Nat
  /-- The run limit of the running secondary task is being counted (R233). -/
  runLim : Bool
  prevCtx : Option (BitVec 8)
  stall : Option Stall
  /-- The slot selected whose registers are not yet loaded, waiting for pending register writes (R69). -/
  pendLoad : Option Nat
  slots : Tab Slot
  loads : Nat
  promos : Nat
  early : List (BitVec 8 × BitVec 20)
  cursors : Tab Cursor
  replay : List TaskDesc
  rx : List RxCounter
  opNo : Nat
  arrQ : List UOp
  vecQ : List UOp
  cpyQ : List UOp
  prod : Option UOp
  port : Option UOp
  vec : Option UOp
  cpy : Option UOp
  recvs : List RecvWait
  accA : AccBank
  accB : AccBank
  runlen : Nat
  sram : Mem
  /-- Indices of 64-bit SRAM words that hold a double-bit error (poison mark), and those that hold a single-bit one. -/
  poison : List Nat
  soft : List Nat
  sramOwn : Tab Nat
  sramSat : List Nat
  sramNf : List Nat
  eccCnt : Nat
  cycHi : Nat
  /-- The core island's count (R36) as it stood when the clock of the core island last changed, and the periods passed then (R503). -/
  cycBase : Nat
  cycFrom : Nat
  held : List HeldCompl
  /-- R239, keyed 2 * queue + role: the next order to give at load, the next order to send, and the later orders that
  count as sent because a cancel freed their tasks. -/
  ordNext : Tab Nat
  ordSent : Tab Nat
  ordFreed : Tab (List Nat)
  acks : List AckDue
  probes : List Nat
  coreSeq : Nat
  routerSeq : Nat
  /-- Event records the tile has written and the command in progress has not yet handed to the log; empty between
  commands. -/
  evq : List LogRec
  mesh : Router Pkt
  awn : Router AwnMsg
  /-- What waits at the senders of the Local, Face and Edge inputs for a place in the input's buffer (R196, R204), keyed as the
  router's inputs are. -/
  meshSrc : Tab (List Pkt)
  awnSrc : Tab (List AwnMsg)
  links : Tab LinkSt
  awnLinks : Tab LinkSt
  /-- The die-to-tile directions of the face (5) and edge (6) links (R210). -/
  dieLinks : Tab LinkSt
  dieAwn : Tab LinkSt
deriving DecidableEq, Repr

end Sys2Proof.Machine
end

