-- ==== Sys2Proof/Machine/Ops.lean ====
section
/-! DEFINITION. The named operations over tables, memories, lines, tile geometry and one tile's registers, SRAM and
reports. Every meaning works through these. -/
namespace Sys2Proof.Machine

/-! ### Sparse tables -/

/-- The value listed at an index. -/
def tabFind {α : Type} : Tab α → Nat → Option α
  | [], _ => none
  | (k, x) :: t, i => if k = i then some x else tabFind t i

/-- The value at an index, an unlisted one reading `d`. -/
def tabGet {α : Type} (t : Tab α) (i : Nat) (d : α) : α := (tabFind t i).getD d

/-- Lists a value at an index, keeping the indices strictly rising. -/
def tabSet {α : Type} : Tab α → Nat → α → Tab α
  | [], i, v => [(i, v)]
  | (k, x) :: t, i, v =>
    if i < k then (i, v) :: (k, x) :: t
    else if i = k then (i, v) :: t
    else (k, x) :: tabSet t i v

/-- Unlists an index. -/
def tabDel {α : Type} (t : Tab α) (i : Nat) : Tab α := t.filter (fun p => p.1 != i)

/-- Applies a function to the value at an index, an unlisted one reading `d`. -/
def tabMod {α : Type} (t : Tab α) (i : Nat) (d : α) (f : α → α) : Tab α := tabSet t i (f (tabGet t i d))

/-- Lists a value, or unlists it where it is the default. -/
def tabPut {α : Type} [DecidableEq α] (t : Tab α) (i : Nat) (d v : α) : Tab α :=
  if v = d then tabDel t i else tabSet t i v

/-- Applies a function to every listed value. -/
def tabMap {α β : Type} (t : Tab α) (f : Nat → α → β) : Tab β := t.map (fun p => (p.1, f p.1 p.2))

/-- The indices strictly rise. -/
def tabOk {α : Type} : Tab α → Bool
  | [] => true
  | [_] => true
  | (a, _) :: (b, y) :: t => decide (a < b) && tabOk ((b, y) :: t)

/-- Adds an element to a list without repeats. -/
def addNew {α : Type} [BEq α] (x : α) (l : List α) : List α := if l.contains x then l else x :: l

/-! ### Byte memories -/

/-- The byte at an address; an unlisted one reads 0. DESIGN CHOICE, log entry 7. -/
def memRd (m : Mem) (a : Nat) : Byte := tabGet m a 0

/-- Writes one byte, keeping the canonical form: addresses strictly rising, no byte 0 listed. -/
def memWr : Mem → Nat → Byte → Mem
  | [], a, b => if b = 0 then [] else [(a, b)]
  | (k, x) :: t, a, b =>
    if a < k then (if b = 0 then (k, x) :: t else (a, b) :: (k, x) :: t)
    else if a = k then (if b = 0 then t else (a, b) :: t)
    else (k, x) :: memWr t a b

/-- The canonical form of a byte memory. -/
def memWf : Mem → Bool
  | [] => true
  | [(_, b)] => decide (b ≠ 0)
  | (a, b) :: (k, x) :: t => decide (a < k) && decide (b ≠ 0) && memWf ((k, x) :: t)

/-- n bytes from an address as a little-endian number. -/
def memRead (m : Mem) (a : Nat) : Nat → Nat
  | 0 => 0
  | n + 1 => (memRd m a).toNat + 256 * memRead m (a + 1) n

/-- Writes the n low bytes of a number at an address, little-endian. -/
def memWrite (m : Mem) (a : Nat) : Nat → Nat → Mem
  | 0, _ => m
  | n + 1, v => memWrite (memWr m a (BitVec.ofNat 8 v)) (a + 1) n (v / 256)

/-- Writes a list of bytes at an address. -/
def memWriteBytes (m : Mem) (a : Nat) : List Byte → Mem
  | [] => m
  | b :: bs => memWriteBytes (memWr m a b) (a + 1) bs

/-- n bytes from an address as a list. -/
def memBytes (m : Mem) (a n : Nat) : List Byte := (List.range n).map (fun i => memRd m (a + i))

/-- Zeroes a range: unlists every byte in it. -/
def memZero (m : Mem) (lo n : Nat) : Mem := m.filter (fun p => !(decide (lo ≤ p.1) && decide (p.1 < lo + n)))

/-- One 64-byte line. -/
def memLine (m : Mem) (a : Nat) : Line := BitVec.ofNat 512 (memRead m a 64)
def memSetLine (m : Mem) (a : Nat) (l : Line) : Mem := memWrite m a 64 l.toNat

/-- Bytes as a little-endian number and back. -/
def leNat : List Byte → Nat
  | [] => 0
  | b :: bs => b.toNat + 256 * leNat bs
def toBytes : Nat → Nat → List Byte
  | 0, _ => []
  | n + 1, v => BitVec.ofNat 8 v :: toBytes n (v / 256)

/-- A bit field [hi:lo] of a number. -/
def bits (v hi lo : Nat) : Nat := (v >>> lo) % 2 ^ (hi + 1 - lo)
def bitOf (v i : Nat) : Bool := (v >>> i) % 2 == 1

/-! ### Geometry -/

/-- The tile index y * 256 + x (R217). -/
def tileIx (x y : Nat) : Nat := y * 256 + x
def ixX (i : Nat) : Nat := i % 256
def ixY (i : Nat) : Nat := i / 256

/-- Is this the index of a tile of a grid of width w (R3)? -/
def onGrid (w i : Nat) : Bool := decide (ixX i < w) && decide (ixY i < 256)

/-- The shot column and row of a tile (R11). -/
def shotCol (w x : Nat) : Nat := x / (w / 8)
def shotRow (y : Nat) : Nat := y / 32

/-- The Saddle die at which a tile's completions retire (R237). -/
def retireSaddle (w i : Nat) : Nat := (8 * shotRow (ixY i) + shotCol w (ixX i)) % 24

/-- The k-th attachment tile of a Saddle die, as (x, y) (R184). -/
def attachTile (w s k : Nat) : Nat × Nat :=
  let p := s % 6
  if s / 6 = 0 then ((2 * p + 1) * w / 12 - 4 + k, 0)
  else if s / 6 = 1 then (w - 1, (2 * p + 1) * 256 / 12 - 4 + k)
  else if s / 6 = 2 then (w - (2 * p + 1) * w / 12 - 4 + k, 255)
  else (0, 256 - (2 * p + 1) * 256 / 12 - 4 + k)

/-- Which Saddle die and edge link a tile attaches, if it is an attachment tile. -/
def attachOf (w x y : Nat) : Option (Nat × Nat) :=
  ((List.range 24).flatMap (fun s => (List.range 8).map (fun k => (s, k)))).find?
    (fun p => attachTile w p.1 p.2 == (x, y))

/-- The port die whose face links a tile carries, if it is a port tile (R184). -/
def portOf (w x y : Nat) : Option Nat :=
  let c := w / 8
  let lx := x % c
  if (lx = c / 2 - 1 ∨ lx = c / 2) ∧ (y % 32 = 15 ∨ y % 32 = 16) then some (8 * (y / 32) + x / c) else none

/-- The first port tile of a port die (R184). -/
def portTile (w p : Nat) : Nat × Nat := ((p % 8) * (w / 8) + w / 16 - 1, (p / 8) * 32 + 15)

/-! ### The surroundings of a tile -/

/-- How many of the low 24 bits are set, and the position of the k-th set bit (R250). -/
def popcount (m : Nat) : Nat := ((List.range 24).filter (fun i => bitOf m i)).length
def kthBit (m k : Nat) : Nat := (((List.range 24).filter (fun i => bitOf m i))[k]?).getD 0

/-- The size of the HBM view of a partition (mask M, n slabs), and where an offset lies: stack, slab of the context on
that stack, byte (R250). -/
def viewSize (p : Nat × Nat) : Nat := 2 ^ 27 * (popcount p.1 * p.2)
def viewDecode (p : Nat × Nat) (o : Nat) : Nat × Nat × Nat :=
  let span := 2 ^ 27 * p.2
  (kthBit p.1 (o / span), (o % span) / 2 ^ 27, o % 2 ^ 27)

/-- The stream that a block table entry holds (R272): port die, buffer bytes [base, base + len), TID, CTX and stream format. -/
structure StreamRange where
  port : Nat
  base : Nat
  len : Nat
  tid : BitVec 20
  ctx : BitVec 8
  sfmt : Nat
deriving DecidableEq, Repr

/-- What a tile's instruction reads from outside the tile: its own index, the grid width, the tick, the clock periods that have passed in
tiles that are not hot and in hot ones (R503), the HBM partitions (M, n) of the open contexts keyed by CTX, the swath leases (keyed
32 * port + granule, giving the CTX), and the ranges of the block table entries. -/
structure Env where
  me : Nat
  w : Nat
  now : Nat
  cold : Nat
  warm : Nat
  parts : Tab (Nat × Nat)
  leases : Tab Nat
  blks : List StreamRange
deriving DecidableEq, Repr

/-- Does the core island's clock run (R72, R34)? -/
def coreRuns (t : Tile) : Bool := t.power == .run

/-- The clock periods that a tile's gating lets pass (R503), in eighths of the nominal tick. -/
def coreClock (e : Env) (t : Tile) : Nat := if t.hot then e.warm else e.cold

/-- The core island's 48-bit cycle count (R36): it counts the periods that pass at the core island's frequency, in units of the nominal
2.7 GHz tick, and holds while the core clock is stopped. DESIGN CHOICE, log entry 1. -/
def cycleNow (e : Env) (t : Tile) : Nat :=
  (t.cycBase + (if coreRuns t then (coreClock e t - t.cycFrom) * t.freq / 216 else 0)) % 2 ^ 48

/-- Fixes the count before the core island's clock changes or stops. -/
def cycFix (e : Env) (t : Tile) : Tile := { t with cycBase := cycleNow e t, cycFrom := coreClock e t }

/-- The tile-hot trip takes or leaves a tile (R502, R503). -/
def setHot (e : Env) (on : Bool) (t : Tile) : Tile :=
  let u := { cycFix e t with hot := on }
  { u with cycFrom := coreClock e u }

/-- The point of the router island in MHz (R34, R215): the core's while it runs, 1.35 GHz in fallow, no clock in deep fallow. -/
def routerPoint (t : Tile) : Nat :=
  match t.power with
  | .run => 100 * t.freq
  | .fallow => 1350
  | .deep => 0

/-! ### One tile: registers -/

def sGet (t : Tile) (i : Nat) : Nat := (tabGet t.s i 0).toNat
def aGet (t : Tile) (i : Nat) : Nat := (tabGet t.a i 0).toNat
def vGet (t : Tile) (i : Nat) : Nat := (tabGet t.v i 0).toNat
def sSet (t : Tile) (i v : Nat) : Tile := { t with s := tabPut t.s i 0 (BitVec.ofNat 32 v) }
def aSet (t : Tile) (i v : Nat) : Tile := { t with a := tabPut t.a i 0 (BitVec.ofNat 48 v) }
def vSet (t : Tile) (i v : Nat) : Tile := { t with v := tabPut t.v i 0 (BitVec.ofNat 512 v) }

/-- A register specifier (R79). -/
def isS (k : BitVec 6) : Bool := decide (k.toNat < 32)
def isA (k : BitVec 6) : Bool := decide (32 ≤ k.toNat ∧ k.toNat < 48)
def isV (k : BitVec 6) : Bool := decide (48 ≤ k.toNat)
/-- The register number within its file. -/
def regNo (k : BitVec 6) : Nat := if k.toNat < 32 then k.toNat else k.toNat % 16

/-! ### One tile: events and reports -/

/-- The tile stamps and records an event (R208): `core` tells which island writes it. -/
def tileEvent (e : Env) (core : Bool) (kind : Nat) (ctx : Option (BitVec 8)) (arg : Nat) (t : Tile) : Tile :=
  let sq := if core then t.coreSeq else t.routerSeq
  let r : LogRec := ⟨kind, if core then 0 else 1, e.me, ctx, none, some (sq, if core then cycleNow e t else e.now % 2 ^ 48),
    arg, 0⟩
  if core then { t with coreSeq := (sq + 1) % 2 ^ 16, evq := t.evq ++ [r] }
  else { t with routerSeq := (sq + 1) % 2 ^ 16, evq := t.evq ++ [r] }

/-- Moves what waits at the sender of an input into the input's buffer while it has room: `cap` entries an input and VC (R196) or
priority (R204). -/
def pull {α : Type} (cap key : Nat) (src inq : Tab (List α)) : Tab (List α) × Tab (List α) :=
  let q := tabGet inq key []
  let w := tabGet src key []
  if w.isEmpty ∨ cap ≤ q.length then (src, inq)
  else (if w.length ≤ cap - q.length then tabDel src key else tabSet src key (w.drop (cap - q.length)),
    tabSet inq key (q ++ w.take (cap - q.length)))

def pullMesh (key : Nat) (t : Tile) : Tile :=
  let r := pull 16 key t.meshSrc t.mesh.inq
  { t with meshSrc := r.1, mesh := { t.mesh with inq := r.2 } }
def pullAwn (key : Nat) (t : Tile) : Tile :=
  let r := pull 4 key t.awnSrc t.awn.inq
  { t with awnSrc := r.1, awn := { t.awn with inq := r.2 } }

/-- Injects a packet on its VC at the router's Local input, where it waits at the tile while the input's 16 places are taken
(R61, R196). -/
def inject (t : Tile) (p : Pkt) : Tile :=
  pullMesh (16 + p.cls / 4) { t with meshSrc := tabMod t.meshSrc (16 + p.cls / 4) [] (· ++ [p]) }

/-- Issues an Awn message at the router's Local input at its priority, of which the input holds 4 messages (R204). -/
def injectAwn (t : Tile) (m : AwnMsg) : Tile :=
  pullAwn (12 + m.pri) { t with awnSrc := tabMod t.awnSrc (12 + m.pri) [] (· ++ [m]) }

/-- The role context that owns a tile role. -/
def roleOf (t : Tile) (sec : Bool) : Option RoleCtx := if sec then t.snd else t.pri
def roleOfCtx (t : Tile) (c : BitVec 8) : Option (Bool × RoleCtx) :=
  match t.pri with
  | some r => if r.ctx = c then some (false, r) else
      match t.snd with
      | some r => if r.ctx = c then some (true, r) else none
      | none => none
  | none => match t.snd with
      | some r => if r.ctx = c then some (true, r) else none
      | none => none
def epochOf (t : Tile) (sec : Bool) : Nat := ((roleOf t sec).map (·.epoch)).getD 0
/-- The owner tag of a role: 1 primary, 2 secondary (R57). -/
def roleTag (sec : Bool) : Nat := if sec then 2 else 1
/-- The context that an owner tag names. -/
def tagCtx (t : Tile) (tag : Nat) : Option (BitVec 8) :=
  if tag = 1 then t.pri.map (·.ctx) else if tag = 2 then t.snd.map (·.ctx) else none

/-- The tile's report logic sends a report to its retire unit as one URG packet (R435). -/
def ueReport (e : Env) (kind : Nat) (ctx : Option (BitVec 8)) (arg : Nat) (t : Tile) : Tile :=
  let r : LogRec := ⟨kind, 0, e.me, ctx, none, some (t.coreSeq, cycleNow e t), arg, 0⟩
  let d := attachTile e.w (retireSaddle e.w e.me) 0
  let p : Pkt := ⟨0, false, false, 0, 0, false, 0, 0, 0, 0, ctx.getD 0, 0, 0, 0, 0, d.2, d.1, ixY e.me, ixX e.me, 0,
    .report r⟩
  inject { t with coreSeq := (t.coreSeq + 1) % 2 ^ 16 } p

/-! ### One tile: SRAM (R51 to R59) -/

def bankOf (a : Nat) : Nat := a / 0x4000
def wordsIn (lo n : Nat) : List Nat := (List.range ((lo + n + 7) / 8 - lo / 8)).map (· + lo / 8)

/-- n bytes of SRAM as a little-endian number. -/
def sramGet (t : Tile) (lo n : Nat) : Nat := memRead t.sram lo n
def sramPoisoned (t : Tile) (lo n : Nat) : Bool := t.poison.any (fun w => decide (lo / 8 ≤ w ∧ w < (lo + n + 7) / 8))

/-- What reading a range does to it (R56): single-bit errors are corrected, written back and counted; double-bit errors
are reported, one report for each line. -/
def sramTouch (e : Env) (lo n : Nat) (t : Tile) : Tile :=
  let hits := t.soft.filter (fun w => decide (lo / 8 ≤ w ∧ w < (lo + n + 7) / 8))
  let t := if hits.isEmpty then t else
    { t with soft := t.soft.filter (fun w => !hits.contains w), eccCnt := min 0xFFFF (t.eccCnt + hits.length) }
  let bad := (t.poison.filter (fun w => decide (lo / 8 ≤ w ∧ w < (lo + n + 7) / 8))).map (fun w => w / 8)
  bad.eraseDups.foldl (fun t ln =>
    let b := ln / 256
    ueReport e 0x0201 (tagCtx t (tabGet t.sramOwn b 0)) (b + 16 * (ln % 256)) t) t

/-- Writes n bytes: words covered whole lose their earlier errors; a partly covered word is read and checked first and
keeps a poison mark (R56). -/
def sramPut (e : Env) (lo n v : Nat) (t : Tile) : Tile :=
  let part := (wordsIn lo n).filter (fun w => !(decide (lo ≤ 8 * w) && decide (8 * w + 8 ≤ lo + n)))
  let t := part.foldl (fun t w => sramTouch e (8 * w) 8 t) t
  let whole (w : Nat) : Bool := decide (lo ≤ 8 * w ∧ 8 * w + 8 ≤ lo + n)
  { t with sram := memWrite t.sram lo n v
           poison := t.poison.filter (fun w => !whole w)
           soft := t.soft.filter (fun w => !whole w) }

/-- Marks a line poisoned, as a poisoned arrival is written (R191). -/
def sramPoison (lo : Nat) (t : Tile) : Tile :=
  { t with poison := (t.poison ++ wordsIn lo 64).eraseDups }

/-- The in-bank FP32 add of one line (R53): element sums, and the bank's SAT and NF bits. -/
def sramAdd (e : Env) (lo : Nat) (v : Nat) (t : Tile) : Tile :=
  let t := sramTouch e lo 64 t
  let old := sramGet t lo 64
  let r := (List.range 16).map (fun i => bankAdd (elemAt old 32 i) (elemAt v 32 i))
  let b := bankOf lo
  let keep := t.poison
  let t := sramPut e lo 64 (ofElems 32 (r.map (·.1))) t
  { t with sramSat := if r.any (·.2.1) then addNew b t.sramSat else t.sramSat
           sramNf := if r.any (·.2.2) then addNew b t.sramNf else t.sramNf
           poison := keep }

/-- Scrubs a bank (R59): zero data, clean ECC, cleared SRAMSTAT bits. -/
def scrubBank (b : Nat) (t : Tile) : Tile :=
  let lo := b * 0x4000
  { t with sram := memZero t.sram lo 0x4000
           poison := t.poison.filter (fun w => !(decide (lo ≤ 8 * w ∧ 8 * w < 0x4000 + lo)))
           soft := t.soft.filter (fun w => !(decide (lo ≤ 8 * w ∧ 8 * w < 0x4000 + lo)))
           sramSat := t.sramSat.filter (· != b)
           sramNf := t.sramNf.filter (· != b) }

/-! ### One tile: the address checks of R51, R52, R81 and R90 -/

/-- Permissions a check asks for. -/
inductive Perm where
  | r | w | x
deriving DecidableEq, Repr

def winGrants (p : Perm) (w : Window) : Bool :=
  match p with
  | .r => w.r
  | .w => w.w
  | .x => w.x

/-- A run of bytes wholly within one window that grants the permission. -/
def inWindow (wins : List Window) (p : Perm) (lo n : Nat) : Bool :=
  wins.any (fun w => winGrants p w && decide (w.base ≤ lo ∧ lo + n ≤ w.base + w.len))

/-- Every line of a local range lies in SRAM and in some window (R81). -/
def localOk (wins : List Window) (p : Perm) (lo lines : Nat) : Bool :=
  decide (lo + 64 * lines ≤ 0x30000) && (List.range lines).all (fun i => inWindow wins p (lo + 64 * i) 64)

/-- The space and offset of an address register value (R80). -/
def spaceOf (a : Nat) : Nat := (a >>> 44) % 16
def offOf (a : Nat) : Nat := a % 2 ^ 44

/-- An operand that must lie in SPACE 0x0, as whole lines: the window trap (0x01) or none. -/
def chkLocal (wins : List Window) (p : Perm) (a align lines : Nat) : Option Nat :=
  if lines = 0 then none
  else if spaceOf a ≠ 0 ∨ offOf a ≥ 2 ^ 18 ∨ offOf a % align ≠ 0 then some 1
  else if localOk wins p (offOf a) lines then none else some 1

/-- An operand in the tile's sheaf (SPACE 0x1): the sheaf-send trap (0x04) or none. A run of `span + 1` tiles along +x
(dir false) or +y. -/
def chkSheaf (t : Tile) (a span : Nat) (dirY : Bool) : Option Nat :=
  let o := offOf a
  let x := bits o 39 32
  let y := bits o 31 24
  let x2 := if dirY then x else x + span
  let y2 := if dirY then y + span else y
  if spaceOf a ≠ 1 ∨ bits o 43 40 ≠ 0 ∨ bits o 23 18 ≠ 0 then some 4
  else if t.inSheaf ∧ t.orgX ≤ x ∧ x2 < t.orgX + t.dimW ∧ t.orgY ≤ y ∧ y2 < t.orgY + t.dimH then none
  else some 4

/-- What tile code may do in the head region of an HBM view (R252, R253): may this line be read or written? -/
def headAllows (p : Perm) (o : Nat) : Bool :=
  if o ≥ 0x20000000 then true
  else match p with
    | .r => decide (o < 0x50000 ∨ (0x60000 ≤ o ∧ o < 0x66000) ∨ (0x70000 ≤ o ∧ o < 0x100000)
        ∨ (0x08000000 ≤ o ∧ o < 0x10000000))
    | .w => decide (o = 0x50000 ∨ o = 0x68000)
    | .x => false

/-- Does the context lease the swath granule of this view offset (R270)? -/
def leased (e : Env) (ctx : BitVec 8) (o : Nat) : Bool :=
  decide (o < 2 ^ 31) && tabFind e.leases (o / 2 ^ 20) == some ctx.toNat

/-- Lines of an HBM or swath view that the context may reach (R81, R250, R253, R270). -/
def viewOk (e : Env) (ctx : BitVec 8) (p : Perm) (sp o lines : Nat) : Bool :=
  if sp = 2 then
    decide (o + 64 * lines ≤ viewSize (tabGet e.parts ctx.toNat (0, 0))) &&
      (decide (o ≥ 0x20000000) || (List.range lines).all (fun i => headAllows p (o + 64 * i)))
  else (List.range lines).all (fun i => leased e ctx (o + 64 * i))

/-- The stream format of the block table entry that a context's read of a swath view offset under a TID meets (R272, R276). -/
def rangeFmt (e : Env) (ctx : BitVec 8) (tid : BitVec 20) (o : Nat) : Option Nat :=
  (e.blks.find? (fun b => b.ctx == ctx && b.tid == tid && b.port == o / 2 ^ 25 &&
    decide (b.base ≤ o % 2 ^ 25 ∧ o % 2 ^ 25 < b.base + b.len))).map (·.sfmt)

/-- The lines, counted from the first, that n blocks of a stream take (R271): one a BF16 block; of MXFP8, two blocks a line and
the scale line, the 33rd, of each segment of 64 blocks. -/
def streamLines (sf n : Nat) : List Nat :=
  if sf = 5 then
    (List.range ((n + 63) / 64)).flatMap (fun g =>
      (List.range ((min 64 (n - 64 * g) + 1) / 2)).map (33 * g + ·) ++ [33 * g + 32])
  else List.range n

/-- The worse of two checks by the order of R93: a window trap before a sheaf-send trap. -/
def chkMin (a b : Option Nat) : Option Nat :=
  match a, b with
  | none, y => y
  | x, none => x
  | some x, some y => some (min x y)

/-- The first failing check of a list of groups, in the order of R93. -/
def firstTrap : List (Option Nat) → Option Nat
  | [] => none
  | some c :: _ => some c
  | none :: l => firstTrap l

/-- Bank ownership of local byte ranges by a role (R58): the ownership trap (0x06) or none. -/
def banksOwned (t : Tile) (sec : Bool) (rs : List Rng) : Bool :=
  rs.all (fun r => decide (r.len = 0) ||
    (List.range (bankOf (r.lo + r.len - 1) + 1 - bankOf r.lo)).all
      (fun i => tabGet t.sramOwn (bankOf r.lo + i) 0 == roleTag sec))

def overlap (a b : Rng) : Bool := decide (a.lo / 64 * 64 < b.lo + b.len ∧ b.lo / 64 * 64 < a.lo + a.len)
def anyOverlap (l1 l2 : List Rng) : Bool := l1.any (fun a => l2.any (fun b => overlap a b || overlap b a))

/-- Unit instructions that hold scoreboard entries: queued, started, or a waiting RECV. -/
def pendingOps (t : Tile) : List UOp :=
  t.arrQ ++ t.vecQ ++ t.cpyQ ++ t.prod.toList ++ t.port.toList ++ t.vec.toList ++ t.cpy.toList ++ t.recvs.map (·.op)

/-- Do the accesses of an instruction wait for an earlier one (R38)? -/
def conflicts (rds wrs : List Rng) (o : UOp) : Bool :=
  anyOverlap wrs (o.rds ++ o.wrs) || anyOverlap rds o.wrs

/-- Range entries in use (R39). -/
def entriesUsed (t : Tile) : Nat := ((pendingOps t).map (·.entries)).sum

/-- Scalar registers a pending unit instruction still writes (R38, R69). -/
def pendingS (t : Tile) : List Nat := (pendingOps t).flatMap (·.sregs)

/-! ### One tile: receive counters (R109 to R111) -/

def rxIs (c : BitVec 8) (tid : BitVec 20) (r : RxCounter) : Bool := r.ctx == c && r.tid == tid
def rxFind (t : Tile) (c : BitVec 8) (tid : BitVec 20) : Option RxCounter := t.rx.find? (rxIs c tid)
def rxUpd (t : Tile) (c : BitVec 8) (tid : BitVec 20) (f : RxCounter → RxCounter) : Tile :=
  { t with rx := t.rx.map (fun r => if rxIs c tid r then f r else r) }

/-- The context of the running task. -/
def runCtx (t : Tile) : BitVec 8 :=
  match t.running.bind (tabFind t.slots) with
  | some sl => sl.task.ctx
  | none => 0

/-- Is a RECV or WAITT waiting on the counter of this key? -/
def rxWaited (t : Tile) (c : BitVec 8) (tid : BitVec 20) : Bool :=
  t.recvs.any (fun w => w.alloc && w.op.ctx == c && w.tid == tid) ||
    (match t.stall with
     | some (.waitt k _ al _) => al && k == tid && runCtx t == c
     | _ => false)

/-- Frees counters at 0 with no wait on them, then gives freed counters to the waits that lack one, RECVs in program
order and then WAITT (R109). -/
def rxTidy (t : Tile) : Tile :=
  let t := { t with rx := t.rx.filter (fun r => !(r.count == 0 && !r.ovf && !rxWaited t r.ctx r.tid)) }
  let grant (t : Tile) (c : BitVec 8) (tid : BitVec 20) : Option Tile :=
    match rxFind t c tid with
    | some _ => some (rxUpd t c tid (fun r => { r with late := false, lateWatch := false }))
    | none => if t.rx.length < 8 then some { t with rx := t.rx ++ [⟨c, tid, 0, false, false, false⟩] } else none
  let t := t.recvs.foldl (fun t w =>
    if w.alloc then t else
      match grant t w.op.ctx w.tid with
      | some t' => { t' with recvs := t'.recvs.map (fun x => if x.op.no = w.op.no then { x with alloc := true } else x) }
      | none => t) t
  match t.stall with
  | some (.waitt k n false pc) =>
    match grant t (runCtx t) k with
    | some t' => { t' with stall := some (.waitt k n true pc) }
    | none => t
  | _ => t

/-- One unit counted on a key (R109, R111): none where every counter is in use and none has the key. -/
def rxArrive (e : Env) (c : BitVec 8) (tid : BitVec 20) (t : Tile) : Option Tile :=
  match rxFind t c tid with
  | some r =>
    let t := if r.lateWatch then tileEvent e true 0x1105 (some c) tid.toNat t else t
    some (rxUpd t c tid (fun r =>
      { r with count := min 65535 (r.count + 1), ovf := r.ovf || decide (r.count = 65535),
               late := r.late || r.lateWatch }))
  | none =>
    if t.rx.length < 8 then some { t with rx := t.rx ++ [⟨c, tid, 1, false, false, false⟩] } else none

/-! ### One tile: slots, tokens, traps and selection (R62 to R70, R92) -/

/-- A TID as a task of step `step` uses it (R226). -/
def stepTid (tid : BitVec 20) (step : W32) : BitVec 20 :=
  if tid.toNat ≥ 2 ^ 19 then BitVec.ofNat 20 (2 ^ 19 + 2 ^ 17 * (step.toNat % 4) + tid.toNat % 2 ^ 17) else tid

def slotUpd (t : Tile) (k : Nat) (f : Slot → Slot) : Tile :=
  match tabFind t.slots k with
  | some sl => { t with slots := tabSet t.slots k (f sl) }
  | none => t

/-- A slot becomes Free: promotions stop waiting for it (R232), an order it had counts as sent if it was not (R239). -/
def slotFree (k : Nat) (t : Tile) : Tile :=
  match tabFind t.slots k with
  | some sl =>
    { t with slots := tabMap (tabDel t.slots k) (fun _ x => { x with recorded := x.recorded.filter (· != sl.loadNo) }) }
  | none => t

/-- The PC that a dispatcher trap reports (R92). -/
def slotPc (t : Tile) (k : Nat) (sl : Slot) : BitVec 18 :=
  if t.running = some k ∧ t.pendLoad = none then t.pc
  else match sl.save with
    | some a => a.pc
    | none => sl.task.entry

/-- Selection classes of R67 and R232, lowest first. -/
def selClass (first : Option Nat) (sl : Slot) : Nat :=
  if sl.task.sec then
    (if sl.task.queue = 1 then 6 else if sl.task.queue = 0 then 7 else if sl.task.queue = 3 then 8 else 9)
  else if sl.task.queue = 1 then 0
  else match sl.promo with
    | some p => if first = some p ∧ sl.recorded.isEmpty then 1 else 3
    | none => if sl.task.queue = 0 then 2 else if sl.task.queue = 3 then 4 else 5

def readySlots (t : Tile) : Tab Slot := t.slots.filter (fun p => p.2.st == .ready)

/-- The earliest promotion among Ready slots. -/
def firstPromo (l : Tab Slot) : Option Nat :=
  l.foldl (fun acc p => match acc, p.2.promo with
    | none, x => x
    | some a, some b => some (min a b)
    | some a, none => some a) none

/-- The Ready slot that runs next (R67, R232). -/
def pickSlot (t : Tile) : Option (Nat × Slot) :=
  let l := readySlots t
  let fp := firstPromo l
  let key (sl : Slot) : Nat × Nat := (selClass fp sl, sl.promo.getD sl.loadNo)
  l.foldl (fun acc p => match acc with
    | none => some p
    | some b =>
      let kp := key p.2
      let kb := key b.2
      if kp.1 < kb.1 ∨ (kp.1 = kb.1 ∧ kp.2 < kb.2) then some p else some b) none

/-- May the registers of the selected slot be loaded: no pending unit write to a scalar register, and, where v0 to v15 are
cleared, no vector instruction pending (R68, R69)? DEDUCED, log entry 16. -/
def mayLoad (t : Tile) (sl : Slot) : Bool :=
  (pendingS t).isEmpty &&
    (match t.prevCtx with
     | some c => c == sl.task.ctx || (t.vecQ.isEmpty && t.vec.isNone)
     | none => true)

/-- Loads the registers of the selected slot (R68, R69). -/
def loadRegs (sl : Slot) (t : Tile) : Tile :=
  let clear := match t.prevCtx with
    | some c => c != sl.task.ctx
    | none => false
  let (pc, ss, as) := match sl.save with
    | some a => (a.pc, a.s, a.a)
    | none => (sl.task.entry, sl.task.args, sl.task.bases)
  let t := { t with s := [], a := [], pc := pc, prevCtx := some sl.task.ctx, pendLoad := none,
                    v := if clear then [] else t.v }
  let t := (ss.zipIdx).foldl (fun t p => sSet t p.2 p.1.toNat) t
  (as.zipIdx).foldl (fun t p => aSet t p.2 p.1.toNat) t

/-- Completes a register load that was waiting, if it may. -/
def tryLoad (t : Tile) : Tile :=
  match t.pendLoad with
  | some k =>
    match tabFind t.slots k with
    | some sl => if mayLoad t sl then loadRegs sl t else t
    | none => t
  | none => t

/-- Is a secondary task running? -/
def runsSec (t : Tile) : Bool :=
  match t.running.bind (tabFind t.slots) with
  | some sl => sl.task.sec
  | none => false

/-- The run limit of a running secondary task starts once a primary slot is Ready (R233). -/
def armLimit (t : Tile) : Tile :=
  if runsSec t && (readySlots t).any (fun p => !p.2.task.sec) then { t with runLim := true } else t

/-- The dispatcher selects the next task (R67, R68) with the scalar pipeline free. -/
def selectNext (t : Tile) : Tile :=
  match pickSlot t with
  | none => { t with running := none, runLim := false, stall := none, pendLoad := none }
  | some (k, sl) =>
    let sl' := { sl with st := .running, promo := none, recorded := [] }
    let slots := tabMap (tabSet t.slots k sl')
      (fun _ x => { x with recorded := x.recorded.filter (· != sl.loadNo) })
    tryLoad (armLimit { t with running := some k, runLim := false, stall := none, slots := slots, pendLoad := some k })

/-- Removes the unit instructions of a slot that have not begun, and its waiting RECVs (R92). -/
def dropUnbegun (k : Nat) (t : Tile) : Tile :=
  { t with arrQ := t.arrQ.filter (fun o => o.slot != k)
           vecQ := t.vecQ.filter (fun o => o.slot != k)
           cpyQ := t.cpyQ.filter (fun o => o.slot != k)
           recvs := t.recvs.filter (fun w => w.op.slot != k) }

/-- A trap of slot k (R92): the slot becomes Faulted with its report, what has not begun is discarded, waits are
withdrawn, and if it was running the dispatcher selects the next task. -/
def trapSlot (k code : Nat) (pc : BitVec 18) (unit : Nat) (t : Tile) : Tile :=
  match tabFind t.slots k with
  | none => t
  | some sl =>
    if sl.st = .faulted then t
    else
      let t := slotUpd t k (fun s => { s with st := .faulted, trap := some ⟨code, pc, unit⟩ })
      let t := dropUnbegun k t
      let was := t.running = some k
      let t := if was then { t with running := none, runLim := false, stall := none, pendLoad := none } else t
      let t := rxTidy t
      if was then selectNext t else tryLoad t

/-- One token for a key (R65, R229): none where the early-token table is full and no slot takes it. -/
def tokenArrive (c : BitVec 8) (tid : BitVec 20) (t : Tile) : Option Tile :=
  let live := t.slots.filter (fun p => (p.2.st == .waiting || p.2.st == .ready || p.2.st == .running)
    && p.2.task.ctx == c && p.2.task.tid == tid)
  let first := live.foldl (fun (acc : Option (Nat × Slot)) p => match acc with
    | none => some p
    | some b => if p.2.loadNo < b.2.loadNo then some p else some b) none
  match first with
  | some (k, sl) =>
    if sl.st = .waiting then
      some (armLimit (slotUpd t k (fun s => { s with counter := s.counter - 1,
                                                     st := if s.counter ≤ 1 then .ready else .waiting })))
    else some (trapSlot k 3 (slotPc t k sl) 0 (slotUpd t k (fun s => { s with counter := 0 })))
  | none => if t.early.length < 32 then some { t with early := t.early ++ [(c, tid)] } else none

/-- The tile after tile reset (R71), keeping the router island, the sheaf and the stamps' sequence numbers. -/
def tileReset (e : Env) (t : Tile) : Tile :=
  { t with s := [], a := [], v := [], pc := 0, running := none, runLim := false, prevCtx := none, stall := none, pendLoad := none
           slots := [], loads := 0, promos := 0, early := [], rx := [], opNo := 0, arrQ := [], vecQ := [], cpyQ := []
           prod := none, port := none, vec := none, cpy := none, recvs := [], accA := .init, accB := .init
           runlen := 0x3F, sram := [], poison := [], soft := [], sramOwn := [], sramSat := [], sramNf := []
           eccCnt := 0, cycHi := 0, cycBase := 0, cycFrom := coreClock e t, held := [], ordNext := [], ordSent := [], ordFreed := []
           acks := [], cursors := [], replay := [] }

/-- A tile as start-up mapping leaves it, with its counts from a number of periods on (R71). -/
def tileInit (now : Nat) : Tile :=
  { power := .run, freq := 27, hot := false, failed := false, inSheaf := false, orgX := 0, orgY := 0, dimW := 0
    dimH := 0, pri := none, snd := none, s := [], a := [], v := [], pc := 0, running := none, runLim := false, prevCtx := none
    stall := none, pendLoad := none, slots := [], loads := 0, promos := 0, early := [], cursors := [], replay := []
    rx := [], opNo := 0, arrQ := [], vecQ := [], cpyQ := [], prod := none, port := none, vec := none, cpy := none
    recvs := [], accA := .init, accB := .init, runlen := 0x3F, sram := [], poison := [], soft := [], sramOwn := []
    sramSat := [], sramNf := [], eccCnt := 0, cycHi := 0, cycBase := 0, cycFrom := now, held := [], ordNext := [], ordSent := []
    ordFreed := [], acks := [], probes := [], coreSeq := 0, routerSeq := 0, evq := [], mesh := .init _, awn := .init _
    meshSrc := [], awnSrc := [], links := [], awnLinks := [], dieLinks := [], dieAwn := [] }

end Sys2Proof.Machine
end

