-- ==== Sys2Proof/Machine/Crypto.lean ====
section
/-! DEFINITION. The check codes of links and stooks (R349, R351), SHA-2 (R416 to R428), HMAC and HKDF-SHA-256 (R427). -/
namespace Sys2Proof.Machine

/-! ### CRCs -/

/-- One byte into a CRC that shifts toward its top bit: width, polynomial. -/
def crcByteHi (w poly crc b : Nat) : Nat :=
  (List.range 8).foldl (fun c _ => if bitOf c (w - 1) then ((c <<< 1) % 2 ^ w) ^^^ poly else (c <<< 1) % 2 ^ w)
    (crc ^^^ (b <<< (w - 8)))

/-- One byte into a reflected CRC. -/
def crcByteLo (poly crc b : Nat) : Nat :=
  (List.range 8).foldl (fun c _ => if c % 2 = 1 then (c >>> 1) ^^^ poly else c >>> 1) (crc ^^^ b)

/-- CRC-16 of R349 over bits [63:16] of a link word, its bytes from the lowest. -/
def crc16 (l : List Byte) : Nat := l.foldl (fun c b => crcByteHi 16 0x1021 c b.toNat) 0xFFFF

/-- CRC-32C (R351): Castagnoli, reflected, initial value and final XOR all ones. -/
def crc32c (l : List Byte) : Nat := (l.foldl (fun c b => crcByteLo 0x82F63B78 c b.toNat) 0xFFFFFFFF) ^^^ 0xFFFFFFFF

/-- CRC-64 (R351): initial value 0, not reflected, no final XOR. -/
def crc64 (l : List Byte) : Nat := l.foldl (fun c b => crcByteHi 64 0x42F0E1EBA9EA3693 c b.toNat) 0

/-! ### SHA-2 (FIPS 180-4)

The two functions differ in the word size, the number of rounds and the rotations; the constants are fractions of roots of primes. -/

/-- A function of SHA-2: bits of a word, rounds, the rotations of its four sums (a small sum shifts by its third), the
chaining value at the start and the constants of the rounds. -/
structure Sha2 where
  w : Nat
  rounds : Nat
  big0 : Nat × Nat × Nat
  big1 : Nat × Nat × Nat
  small0 : Nat × Nat × Nat
  small1 : Nat × Nat × Nat
  start : List Nat
  consts : List Nat
deriving DecidableEq, Repr

/-- The first 80 primes. -/
def smallPrimes : List Nat := (List.range 410).filter (fun n => decide (2 ≤ n) && (List.range n).all (fun d => decide (d < 2) || n % d != 0))

/-- The largest r below 2^b whose k-th power is at most x. -/
def rootOf (k b x : Nat) : Nat := (List.range b).foldl (fun r i => let c := r + 2 ^ (b - 1 - i); if c ^ k ≤ x then c else r) 0

/-- The first w bits of the fraction of the k-th root of n. -/
def rootFrac (k w n : Nat) : Nat := rootOf k (w + 3) (n * 2 ^ (k * w)) % 2 ^ w

/-- The function with words of w bits: square roots of the first primes at the start, cube roots in the rounds. -/
def sha2Of (w rounds : Nat) (big0 big1 small0 small1 : Nat × Nat × Nat) : Sha2 :=
  ⟨w, rounds, big0, big1, small0, small1, (smallPrimes.take 8).map (rootFrac 2 w), (smallPrimes.take rounds).map (rootFrac 3 w)⟩

def sha2of32 : Sha2 := sha2Of 32 64 (2, 13, 22) (6, 11, 25) (7, 18, 3) (17, 19, 10)
def sha2of64 : Sha2 := sha2Of 64 80 (28, 34, 39) (14, 18, 41) (1, 8, 7) (19, 61, 6)

def turn (w v n : Nat) : Nat := v / 2 ^ n + v % 2 ^ n * 2 ^ (w - n)
def bigSum (w v : Nat) (r : Nat × Nat × Nat) : Nat := turn w v r.1 ^^^ turn w v r.2.1 ^^^ turn w v r.2.2
def smallSum (w v : Nat) (r : Nat × Nat × Nat) : Nat := turn w v r.1 ^^^ turn w v r.2.1 ^^^ v / 2 ^ r.2.2

/-- The message schedule, its words so far last first, for n more. -/
def sha2Words (f : Sha2) : Nat → List Nat → List Nat
  | 0, l => l.reverse
  | n + 1, l =>
    let back (i : Nat) : Nat := l.getD (i - 1) 0
    sha2Words f n ((back 16 + smallSum f.w (back 15) f.small0 + back 7 + smallSum f.w (back 2) f.small1) % 2 ^ f.w :: l)

/-- One round over the eight working words, with the sum of its constant and its schedule word. -/
def sha2Round (f : Sha2) (l : List Nat) (k : Nat) : List Nat :=
  let v (i : Nat) : Nat := l.getD i 0
  let pick := v 6 ^^^ (v 4 &&& (v 5 ^^^ v 6))
  let most := (v 0 &&& (v 1 ||| v 2)) ||| (v 1 &&& v 2)
  let t := v 7 + bigSum f.w (v 4) f.big1 + pick + k
  (t + bigSum f.w (v 0) f.big0 + most) % 2 ^ f.w :: (l.take 7).set 3 ((v 3 + t) % 2 ^ f.w)

/-- A block of sixteen words into the chaining value. -/
def sha2Block (f : Sha2) (h blk : List Nat) : List Nat :=
  let l := (List.zipWith (· + ·) f.consts (sha2Words f (f.rounds - 16) blk.reverse)).foldl (sha2Round f) h
  (h.zipIdx).map (fun p => (p.1 + l.getD p.2 0) % 2 ^ f.w)

/-- Big-endian number of bytes, and its bytes. -/
def beNat (l : List Byte) : Nat := l.foldl (fun a b => a * 256 + b.toNat) 0
def beBytes (n v : Nat) : List Byte := (toBytes n v).reverse

/-- Pieces of n bytes. -/
def piecesOf (n : Nat) : Nat → List Byte → List (List Byte)
  | 0, _ => []
  | k + 1, l => l.take n :: piecesOf n k (l.drop n)

/-- A message padded to whole blocks of sixteen words: a 1 bit, zeros, its length in bits in two words. -/
def sha2Pad (f : Sha2) (m : List Byte) : List Byte :=
  let word := f.w / 8
  let used := m.length + 1 + 2 * word
  m ++ 0x80 :: List.replicate ((16 * word - used % (16 * word)) % (16 * word)) 0 ++ beBytes (2 * word) (8 * m.length)

/-- The hash of a message: eight words. -/
def sha2 (f : Sha2) (m : List Byte) : List Byte :=
  let word := f.w / 8
  let all := sha2Pad f m
  let words := (piecesOf word (all.length / word) all).map beNat
  let h := (List.range (words.length / 16)).foldl (fun h i => sha2Block f h ((words.drop (16 * i)).take 16)) f.start
  h.flatMap (beBytes word)

def sha256 (m : List Byte) : List Byte := sha2 sha2of32 m
def sha512 (m : List Byte) : List Byte := sha2 sha2of64 m

/-- A digest as the number its 32 bytes spell little-endian, the form the state keeps digests in. -/
def digestOf (m : List Byte) : BitVec 256 := BitVec.ofNat 256 (leNat (sha256 m))

/-! ### Keyed hashes -/

/-- HMAC (RFC 2104) with a key no longer than a block. -/
def hmacOf (f : Sha2) (key m : List Byte) : List Byte :=
  let masked (v : Byte) : List Byte := (List.range (2 * f.w)).map (fun i => key.getD i 0 ^^^ v)
  sha2 f (masked 0x5C ++ sha2 f (masked 0x36 ++ m))

/-- Block after block of HKDF's output, each over the one before it. -/
def hkdfBlocks (prk info : List Byte) : Nat → Nat → List Byte → List Byte
  | 0, _, _ => []
  | n + 1, i, prev =>
    let t := hmacOf sha2of32 prk (prev ++ info ++ [BitVec.ofNat 8 i])
    t ++ hkdfBlocks prk info n (i + 1) t

/-- HKDF-SHA-256 (RFC 5869) with an empty salt: n bytes. -/
def hkdf (ikm info : List Byte) (n : Nat) : List Byte := (hkdfBlocks (hmacOf sha2of32 [] ikm) info ((n + 31) / 32) 1 []).take n

/-- MGF1 (RFC 8017) with SHA-512. -/
def mgf512 (seed : List Byte) (n : Nat) : List Byte := ((List.range ((n + 63) / 64)).flatMap (fun i => sha512 (seed ++ beBytes 4 i))).take n

end Sys2Proof.Machine
end

