-- ==== Sys2Proof/Config.lean ====
section
/-! DEFINITION. What the manual leaves to an implementation or leaves open: constants with no body, so that no proof can see
their values. Free values are applied to the counter `State.free`, which the step advances. -/
namespace Sys2Proof

/-- What the compiler's object knows of a tensor (R168, R172): its layer, and for a gradient tensor whether it is a weight gradient. -/
structure TensorInfo where
  layer : Nat
  grad : Option Bool
deriving DecidableEq, Repr

/-- The tensor of a context that a TID names: the manual gives no map from TIDs to layers. DESIGN CHOICE, log entry 49. -/
opaque Config.tensorOf : Nat → Nat → Option TensorInfo

/-- The bytes of a tile SRAM line that an arrival met before a queued instruction used them (R41, R88). DESIGN CHOICE, log entry 8. -/
opaque Config.freeLine : Nat → BitVec 512

/-- A strap bit whose contact changed around the release of STBY_RST_N (R496). DESIGN CHOICE, log entry 9. -/
opaque Config.freeBit : Nat → Bool

/-- A byte that a failed restore or a broken transfer leaves undefined (R478). DESIGN CHOICE, log entry 10. -/
opaque Config.freeByte : Nat → BitVec 8

/-- The reason code of a REJECT by the check that failed, in the order of R377, and the detail of a descriptor whose stream broke
(R375): the manual gives neither number. DESIGN CHOICE, log entry 11. -/
opaque Config.rejectReason : Nat → BitVec 16
/-- DESIGN CHOICE, log entry 11. -/
opaque Config.brokenDetail : BitVec 16

/-- The value of an LLDP TLV that a port sends, by its type: the manual names the TLVs and gives no contents (R373).
DESIGN CHOICE, log entry 11. -/
opaque Config.lldpTlv : Nat → Nat → List Byte

/-- SHA-256 of the mask ROM's contents (R426). DESIGN CHOICE, log entry 12. -/
opaque Config.romDigest : BitVec 256

/-- The random value of the n-th free draw with which an attestation report is signed: FIPS 205 lets the signer draw one or use PK.seed
(R428). DESIGN CHOICE, log entry 12. -/
opaque Config.signRand : Nat → BitVec 192

/-- Ilxinik's PCI vendor ID (R378), and the double words of configuration space that the manual leaves to the PCI Express specification, by
function and place. DESIGN CHOICE, log entry 12. -/
opaque Config.vendorId : BitVec 16
/-- DESIGN CHOICE, log entry 12. -/
opaque Config.cfgDword : Nat → Nat → BitVec 32

/-- The two Nuarn key hashes of a companion area, whose layout the manual does not give (R418). DESIGN CHOICE, log entry 13. -/
opaque Config.nuarnKeys : List Byte → BitVec 256 × BitVec 256

/-- NUARN_MIN of a companion area (R416, R425). DESIGN CHOICE, log entry 13. -/
opaque Config.nuarnMin : List Byte → Nat

/-- The base Ethernet MAC address and the management MAC address of the module (R373, R407). DESIGN CHOICE, log entry 12. -/
opaque Config.baseMac : BitVec 48
/-- DESIGN CHOICE, log entry 12. -/
opaque Config.mgmtMac : BitVec 48

end Sys2Proof
end

