-- ==== Sys2Proof/Machine/FabricState.lean ====
section
/-! DEFINITION. The state beside the wafer: swath controllers and block tables on the port dies, Saddle dies with their
queues and retire units, and the Crest ring. Plain data only. -/
namespace Sys2Proof.Machine

/-- The state of a block table entry (R272, R273). -/
inductive BlkSt where
  | empty | filling | ready
deriving DecidableEq, Repr

/-- A block table entry (R272). `valid` lists the line indices filled; `served` counts requesters served (R273). -/
structure BlkEntry where
  readers : Nat
  merge : Nat
  sfmt : Nat
  src : Nat
  len : Nat
  base : Nat
  tid : BitVec 20
  ctx : BitVec 8
  st : BlkSt
  valid : List Nat
  served : Nat
deriving DecidableEq, Repr

/-- A merge entry (R201): its requests in arrival order; `released` once its window has ended or its target is reached,
then its answers leave as their lines are valid (R276): how many of each geometry's have. -/
structure MergeEntry where
  reqs : List SwReq
  released : Bool
  sent : Tab Nat
deriving DecidableEq, Repr

/-- A swath fill line held at a port die: entry, line index, data (R273), poison, whether the port die found a parity error in it
(R351), and the step of its data (R350). -/
structure FillLine where
  entry : Nat
  line : Nat
  data : Line
  psn : Bool
  par : Bool
  step : W32
  /-- The line holds a credit of its spur's pool, which its taking returns (R353). -/
  lent : Bool
deriving DecidableEq, Repr

/-- The swath controller of one port die (R201, R270 to R276): buffer, poisoned lines, block table, merge entries, the
requests waiting while all entries are open, fill lines from the mesh and from the spur, and per CTX how many copies of swath
lines its requesters have not acknowledged (R200). -/
structure Swath where
  buf : Mem
  bad : List Nat
  table : Tab BlkEntry
  merges : List MergeEntry
  waiting : List SwReq
  reqs : List SwReq
  fromMesh : List FillLine
  fromSpur : List FillLine
  owed : Tab Nat
deriving DecidableEq, Repr

def Swath.init : Swath := ⟨[], [], [], [], [], [], [], [], []⟩

/-- A read issued to HBM (R262, R263): where the request came from and the line as it stood at its arrival (R265). -/
structure ReadOut where
  link : Nat
  tile : Nat
  slot : Nat
  op : Nat
  idx : Nat
  ctx : BitVec 8
  off : Nat
  phys : Nat
  cls : Nat
  fmt : Nat
  tid : BitVec 20
  epoch : Nat
  data : Line
deriving DecidableEq, Repr

/-- A slab scrub in progress (R258): the slabs, and the context they go to, if any. -/
structure Scrub where
  slabs : List Nat
  owner : Option (BitVec 8)
deriving DecidableEq, Repr

/-- The walk of a context's stream plan by one stream sequencer in one step (R274): the step, the items done, and the lines sent of the
item under way. -/
structure StreamWalk where
  step : W32
  pos : Nat
  line : Nat
deriving DecidableEq, Repr

/-- One Saddle die (R258 to R266, R274, R237): edge link queues, reads under way, scrubs, slab owners, epochs and seeds of
the contexts, lines known bad per context, corrected-error count, the retire unit's inbox, and stream walks. -/
structure Saddle where
  links : Tab (List Pkt)
  reads : List ReadOut
  scrubs : List Scrub
  owner : Tab (BitVec 8)
  epochs : Tab Nat
  seeds : Tab (BitVec 64)
  bad : Tab (List Nat)
  corrected : Nat
  inbox : List AwnMsg
  /-- Task forms of fault completions whose detail form is still to come (R238). -/
  faultTasks : List AwnMsg
  walks : Tab StreamWalk
deriving DecidableEq, Repr

def Saddle.init : Saddle := ⟨[], [], [], [], [], [], [], 0, [], [], []⟩

/-- What a Crest ring flit carries (R267, R435, R206). DEDUCED, log entry 18. -/
inductive FlitBody where
  | report (r : LogRec)
  | answer (tile tag : Nat) (router : Bool)
  /-- Bytes for a view offset of a context, from the host (class H), from Ethernet input or a storage read (class I). -/
  | hbmWrite (ctx : BitVec 8) (off : Nat) (data : List Byte) (epoch : Nat)
  /-- A stretch of stook emission on its way to a store port (class S): context, step, section bytes, port. -/
  | stook (ctx : BitVec 8) (step : W32) (sect : Nat) (off : Nat) (data : List Byte)
  /-- Piece n of a storage write read from HBM (class S). -/
  | put (job n : Nat) (data : List Byte)
deriving DecidableEq, Repr

/-- The ring classes (R267). -/
inductive RingClass where
  | h | i | s
deriving DecidableEq, Repr

/-- A flit on the Crest ring (R268): stops 0 to 27 clockwise from N0; where it is, where it goes, how often its present
segment has failed, poison. -/
structure Flit where
  src : Nat
  dst : Nat
  at_ : Nat
  cw : Bool
  cls : RingClass
  tries : Nat
  psn : Bool
  body : FlitBody
deriving DecidableEq, Repr

end Sys2Proof.Machine
end

