-- ==== Sys2Proof/Machine/LinkState.lean ====
section
/-! DEFINITION. The state of the spurs (port die links, hop flow control, streams, the engine table) and of Ethernet
(ports, cages, streams, transfers). Plain data only. -/
namespace Sys2Proof.Machine

/-- Training of one port die link (R346, R347). -/
inductive LinkTrain where
  | down | training | trained
deriving DecidableEq, Repr

/-- A frame stream (R359): source engine, destination engine, CTX, CLASS, port die index. -/
structure StreamKey where
  src : BitVec 24
  dst : BitVec 24
  ctx : BitVec 8
  cls : Nat
  port : Nat
deriving DecidableEq, Repr

/-- A Winnow frame held in the resend store until CHUNK_ACK (R317). -/
structure HeldFrame where
  ctx : BitVec 8
  step : W32
  bucket : Nat
  chunk : Nat
  att : Nat
  f : RawFrame
deriving DecidableEq, Repr

/-- One port die's link (R345 to R360). `txLast` is the LSEQ of the last sequenced frame sent, `replay` those not yet
acknowledged, `rxLast` the LSEQ of the last one accepted, `nak` a NAK condition; per pool, lines sent, the peer's freed
count, our freed count, lines held. `outq` waits for credits; the inboxes hold frames in their pools that the engine has still to take, `kernel` the frames handed to
the kernel, `ctl` and `sentFrames` what has left on the fibre. -/
structure PortLink where
  train : LinkTrain
  txLast : Nat
  replay : List RawFrame
  rxLast : Nat
  nak : Bool
  sent : Tab Nat
  peerFreed : Tab Nat
  freed : Tab Nat
  outq : List RawFrame
  transitBad : Bool
  store : List HeldFrame
  grd : List RawFrame
  /-- Winnow frames delivered whose verdict line is still to come (R316). -/
  vlines : List RawFrame
  urg : List RawFrame
  par : List RawFrame
  eng : List RawFrame
  kernel : List RawFrame
  ctl : List (BitVec 64 × Line)
  sentFrames : List RawFrame
  tx : List (StreamKey × Nat)
  rx : List (StreamKey × Nat)
  fillCred : Tab Nat
deriving DecidableEq, Repr

/-- DESIGN CHOICE, log entry 6. -/
def PortLink.init : PortLink :=
  ⟨.down, 0xFFFF, [], 0xFFFF, false, [], [], [], [], false, [], [], [], [], [], [], [], [], [], [], [], []⟩

/-- One spur (R347, R363 to R367): SPURSTAT state, owner, neighbour from HELLO: ID, spur, serial number and
state. -/
structure Spur where
  st : Nat
  owner : Option (BitVec 8)
  nbr : BitVec 24
  nbrSpur : Nat
  nbrSerial : BitVec 64
  nbrState : Nat
deriving DecidableEq, Repr

def Spur.init : Spur := ⟨0, none, 0, 0, 0, 0⟩

/-- An entry for one spur in the engine table (R371). -/
structure SpurEntry where
  id : BitVec 24
  spur : Nat
  enable : Bool
deriving DecidableEq, Repr

/-- A route (R371). -/
structure Route where
  dest : BitVec 24
  spur : Nat
  pool : Nat
deriving DecidableEq, Repr

/-- An Ethernet endpoint (R371). -/
structure Endpoint where
  engine : BitVec 24
  port : Nat
  v6 : Bool
  ip : BitVec 128
  nhMac : BitVec 48
deriving DecidableEq, Repr

/-- A port entry of the engine table (R371). -/
structure PortCfg where
  enable : Bool
  v4 : Bool
  v6 : Bool
  mode : Nat
  pfc : Nat
  pcpmap : Nat
  vlan : Nat
  ip4 : BitVec 32
  ip6 : BitVec 128
deriving DecidableEq, Repr

/-- The installed engine table (R371). -/
structure EngineTable where
  id : BitVec 24
  spurs : List SpurEntry
  udp : Nat
  routes : List Route
  eps : List Endpoint
  ports : List PortCfg
deriving DecidableEq, Repr

/-- A peer of a context and a fill binding (R372). -/
structure Peer where
  engine : BitVec 24
  ctx : BitVec 8
  epoch : Nat
deriving DecidableEq, Repr
structure Binding where
  port : Nat
  entry : Nat
  peer : Nat
deriving DecidableEq, Repr

/-- The installed context table (R372). -/
structure PeerTable where
  xcount : Nat
  xring : Nat
  spurMask : Nat
  peers : List Peer
  binds : List Binding
  /-- The kernel that the table's installation placed (R369). -/
  kernel : List KernelTask
deriving DecidableEq, Repr

/-- An Ethernet port (R373): link state and the LLDP neighbour last received. -/
structure EthPort where
  up : Bool
  lldp : List Byte
deriving DecidableEq, Repr

/-- An OSFP cage (R487): a module is present, and it is within the power its budget allows. -/
structure Cage where
  present : Bool
  powered : Bool
deriving DecidableEq, Repr

/-- What a frame on an Ethernet stream was sent for: data of a PUT by its descriptor count, the request of a GET, a stook (0 section
frames, 1 manifest, 2 seal line), or a peer's request. -/
inductive XOwner where
  | xfer (ctx : BitVec 8) (idx : Nat)
  | get (ctx : BitVec 8) (idx : Nat)
  | stook (ctx : BitVec 8) (step : W32) (part : Nat)
  | peer
deriving DecidableEq, Repr

/-- A frame sent on an Ethernet stream and not yet acknowledged, or waiting for the window (R375). -/
structure EthHeld where
  seq : Nat
  resends : Nat
  own : XOwner
  d : Dgram
deriving DecidableEq, Repr

/-- One engine transport stream (R375): the sender's next SEQ, window and queue, the receiver's next SEQ and frames
accepted since its last ACK. -/
structure EthStream where
  key : StreamKey
  next : Nat
  held : List EthHeld
  waiting : List EthHeld
  expect : Nat
  unacked : Nat
  broken : Bool
deriving DecidableEq, Repr

/-- A transfer descriptor that RD has not passed (R376): context, descriptor count, whether it is a GET or a stook part, its
fields, the bytes (GET) or frames (PUT) left, whether its STATUS has been written, and the stream it runs on. -/
structure Transfer where
  ctx : BitVec 8
  idx : Nat
  get : Bool
  stook : Bool
  remote : BitVec 24
  raddr : Nat
  loff : Nat
  len : Nat
  left : Nat
  ended : Bool
  key : Option StreamKey
deriving DecidableEq, Repr

/-- A storage write whose bytes are on their way from HBM to the Crest die of its port (R267, R376): whom it serves, where it goes, its
length, the pieces that have come, and which of them were poisoned. -/
structure PutJob where
  no : Nat
  own : XOwner
  remote : BitVec 24
  ctx : BitVec 8
  epoch : Nat
  port : Nat
  xid : Nat
  raddr : Nat
  len : Nat
  got : List (Nat × List Byte)
  bad : List Nat
deriving DecidableEq, Repr

/-- What the Ethernet side has sent: engine transport datagrams with their UDP source port, and the other packets by kind (LLDP, neighbour answers,
echo answers). -/
inductive EthOut where
  | dgram (port udp : Nat) (d : Dgram)
  | lldp (port : Nat) (tlvs : List (Nat × List Byte))
  | neighbour (port : Nat) (mac : BitVec 48) (data : List Byte)
  | echo (port : Nat) (data : List Byte)
deriving DecidableEq, Repr

/-- The Ethernet state. -/
structure Eth where
  ports : Tab EthPort
  cages : Tab Cage
  streams : List EthStream
  xfers : List Transfer
  jobs : List PutJob
  nextJob : Nat
  out : List EthOut
  dropped : Nat
deriving DecidableEq, Repr

def Eth.init : Eth := ⟨[], [], [], [], [], 0, [], 0⟩

end Sys2Proof.Machine
end

