-- ==== Sys2Proof/Machine/WinnowState.lean ====
section
/-! DEFINITION. The state of Winnow and of the update units: bucket plans, bucket slots and chunks, publication, the norm
pass, and the landed buckets of the Saddle dies. Plain data only. -/
namespace Sys2Proof.Machine

/-- Rank entry (R294). -/
structure PlanRank where
  engine : BitVec 24
  parent : Nat
deriving DecidableEq, Repr

/-- Bucket entry (R294). `nblk` blocks, `ncon` contributions. -/
structure PlanBucket where
  owner : Nat
  ncon : Nat
  cspur : Nat
  b0set : Bool
  b0 : Nat
  lsaddle : Nat
  nblk : Nat
  range0 : Nat
  nrange : Nat
  cov0 : Nat
  ncov : Nat
  conv0 : Nat
  nconv : Nat
  ctid : Nat
deriving DecidableEq, Repr

/-- Coverage entry (R294). -/
structure PlanCov where
  rank : Nat
  partner : Nat
  backup : Bool
  first : Nat
  nblk : Nat
deriving DecidableEq, Repr

/-- Range entry (R294). -/
structure PlanRange where
  blk0 : Nat
  tid : Nat
  group : Nat
  layer : Nat
  nelem : Nat
  elem0 : Nat
  strm : Nat
  master : Nat
  mom1 : Nat
  mom2 : Nat
  land : Nat
deriving DecidableEq, Repr

/-- Conversion entry (R294). -/
structure PlanConv where
  graph : Nat
  task : Nat
deriving DecidableEq, Repr

/-- An installed bucket plan (R293). `digest` is PLANDIG (R474); `kernel` the kernel that it placed (R297), `stores` the swath granules,
as 32 * port + granule, that it takes from the context's lease for the resend stores (R317). -/
structure Plan where
  rsg : Nat
  dlexp : Nat
  wfmt0 : Nat
  sched : Nat
  tx : Nat
  bsize : Nat
  window : Nat
  nlayv : Nat
  myRank : Nat
  firstStep : W32
  expOff : Nat
  ranks : List PlanRank
  buckets : List PlanBucket
  covs : List PlanCov
  ranges : List PlanRange
  convs : List PlanConv
  digest : BitVec 256
  kernel : List KernelTask
  stores : List Nat
deriving DecidableEq, Repr

/-- One input of a chunk, held until the chunk leaves the tile or, on the owner, commits (R316). `src` is the sending
rank, `pair` marks a pair copy, `verdict` is none until the verdict line comes, `added` tells whether it is in the sum,
`sat` the blocks that its addition saturated. -/
structure ChunkIn where
  src : Nat
  pair : Bool
  fmt : Nat
  side : Line
  mant : List Int
  digest : BitVec 64
  verdict : Option Bool
  added : Bool
  sat : Nat
deriving DecidableEq, Repr

/-- The pair states of R313 at the collect tile. -/
inductive PairSt where
  | awaiting | first | resolved
deriving DecidableEq, Repr

/-- One pair of a chunk: its members, its state, the member added and its digest, whether the second copy came. -/
structure PairRec where
  primary : Nat
  backup : Nat
  st : PairSt
  firstRank : Nat
  digest : BitVec 64
  second : Bool
deriving DecidableEq, Repr

/-- A chunk on a rank: inputs held, the sum of those added, the blocks that its additions saturated, its pairs, whether its
partial has left for the next rank and been acknowledged there, and the same for the rank's own pair copy. -/
structure Chunk where
  inputs : List ChunkIn
  sum : List Int
  esc : Nat
  pairs : List PairRec
  sent : Bool
  acked : Bool
  copySent : Bool
  copyAcked : Bool
deriving DecidableEq, Repr

def Chunk.init : Chunk := ⟨[], [], 0, [], false, false, false, false⟩

/-- The states of a bucket slot: the owner's (R307) and another rank's (R308). -/
inductive BSlotSt where
  | opened | resolving | committed | sending | sent
deriving DecidableEq, Repr

/-- A bucket slot (R303). A Free slot is one that is not listed. -/
structure BSlot where
  ctx : BitVec 8
  epoch : Nat
  step : W32
  bucket : Nat
  att : Nat
  owner : Bool
  st : BSlotSt
  chunks : Tab Chunk
  /-- Chunks whose sum the landing Saddle die has taken (R307). -/
  landed : List Nat
deriving DecidableEq, Repr

/-- A digest kept for the comparison of a late second copy (R315). -/
structure KeptDigest where
  bucket : Nat
  step : W32
  chunk : Nat
  primary : Nat
  firstRank : Nat
  digest : BitVec 64
  second : Bool
deriving DecidableEq, Repr

/-- A publication in progress on the owner (R323): the ranks that have answered EXPT_ACK, and whether the streaming copies
are accepted. -/
structure Publication where
  bucket : Nat
  step : W32
  /-- The exponents of the next step are formed and sent; they wait for the step's verdicts. -/
  sent : Bool
  acks : List Nat
deriving DecidableEq, Repr

/-- A verdict record of a layer (R320). -/
structure VRec where
  ovf : Bool
  under : Bool
  head : Int
deriving DecidableEq, Repr

/-- The norm pass of one step on this rank (R319 to R321): the partials of owned buckets, COMMITs counted, the NORM body
received and not yet combined, whether this rank takes part, whether it has sent its NORM, and the CLIP result. -/
structure NormSt where
  step : W32
  partials : Tab Nat
  body : Option (Nat × List VRec)
  started : Bool
  sent : Bool
  result : Option (Nat × List VRec)
deriving DecidableEq, Repr

/-- What the policies remember of a layer (R172, R179): steps run since s_l changed, since OVER, since an escalation, and a host
write of SEXP waiting for the step boundary (R173). DEDUCED, log entry 37. -/
structure LayerPol where
  sinceScale : Nat
  sinceOver : Nat
  sinceEsc : Nat
  hostSexp : Option Nat
  /-- The changes of s_l made at the boundaries after steps, newest first, as far back as some owned bucket is still to be published. -/
  deltas : List (W32 × Int)
deriving DecidableEq, Repr

/-- A layer whose s_l has never changed, with no step behind it. -/
def LayerPol.init : LayerPol := ⟨16, 0, 1, none, []⟩

/-- A context's Winnow state: the plan, the committed frontier and the order indices committed beyond it (R304, R306),
publications, kept digests, norm passes, OVER marks per step and layer from ATTEMPTs (R311), bucket versions set
(R323), the committed BMAX of each bucket. -/
structure WinnowCtx where
  plan : Option Plan
  front : Nat
  ahead : List Nat
  pubs : List Publication
  digests : List KeptDigest
  norms : List NormSt
  overs : List (W32 × Nat)
  versions : Tab W32
  bmax : Tab (List Byte)
  /-- Exponent tables being received: bucket, step, bytes written so far (R323). -/
  expRx : List (Nat × W32 × Nat)
  /-- Data frames discarded as stale (R306). -/
  stale : Nat
deriving DecidableEq, Repr

def WinnowCtx.init : WinnowCtx := ⟨none, 0, [], [], [], [], [], [], [], [], 0⟩

/-- Where a landed bucket stands in the update unit (R281, R285). -/
inductive UpdSt where
  | landing | landed | barrier | released | sched
deriving DecidableEq, Repr

/-- A bucket at a landing Saddle die: its committed attempt and wire format, its chunk sums with their side lines, and the chunks whose
mantissas lie in the landing areas of its ranges in HBM. -/
structure UpdItem where
  saddle : Nat
  ctx : BitVec 8
  step : W32
  bucket : Nat
  att : Nat
  fmt : Nat
  st : UpdSt
  chunks : Tab (Line × List Int)
  spilled : List Nat
deriving DecidableEq, Repr

/-- The clip limit fixed for a step (R255), the factor with whether T2 was finite, once known (R282, R321). -/
structure ClipLatch where
  step : W32
  clipc : BitVec 32
  factor : Option (BitVec 32 × Bool)
  units : List Nat
deriving DecidableEq, Repr

/-- The schedule entry a Saddle die fixed for a step (R280): the multiplier, none while the entry is missing (and logged). -/
structure SchedLatch where
  saddle : Nat
  step : W32
  rho : Option (BitVec 32)
deriving DecidableEq, Repr

end Sys2Proof.Machine
end

