-- ==== Sys2Proof/Machine/CtxState.lean ====
section
/-! DEFINITION. The state of contexts, sheaves, graphs, submissions, replays and stooks, as Maelec, Nuarn and the home
Saddle die hold it. Plain data only. -/
namespace Sys2Proof.Machine

/-- The function that opened a context (R409): the PF, a virtual function, or a secure channel; `detached`: a Function
Level Reset has detached it from its VF (R384). -/
inductive Opener where
  | pf
  | vf (v : Nat)
  | secure (chan : Nat)
  | detached
deriving DecidableEq, Repr

/-- An output edge of a task (R221). -/
structure GEdge where
  target : Nat
  data : Bool
  delta : Bool
  pri : Nat
deriving DecidableEq, Repr

/-- An anchor write that the replay section assigns to a task (R445). -/
structure GAnchor where
  off : Nat
  fmt : Nat
  layer : Nat
  micro : Nat
  grad : Bool
  len : Nat
deriving DecidableEq, Repr

/-- A loaded task (R220) with its placement resolved to an absolute tile, and its replay information (R445). -/
structure GTask where
  tile : Nat
  queue : Nat
  stepArg : Bool
  tid : BitVec 20
  tokens : Nat
  entry : BitVec 18
  args : List W32
  bases : List Addr
  wins : List Window
  edges : List GEdge
  anchors : List GAnchor
  producers : List Nat
  reads : List (Nat × Nat)
deriving DecidableEq, Repr

/-- A relocation record (R94). -/
structure Reloc where
  off : Nat
  type : Nat
  lo : Nat
  width : Nat
  low : Bool
  rshift : Nat
  addend : Int
deriving DecidableEq, Repr

/-- A loaded graph (R222): handle, sheaf, ordered queues, promotion and watchdog exponents, tasks, the object's code and
relocations, its tile data segment, its HBM segment, its block table entries, granules and stream plan. -/
structure Graph where
  handle : Nat
  sheaf : Nat
  ordq : Nat
  prom : Nat
  wdog : Nat
  hwin : Nat
  tasks : List GTask
  code : List Byte
  codeAt : Nat
  dataAt : Nat
  data : List Byte
  hbmAt : Nat
  hbmLen : Nat
  relocs : List Reloc
  entries : List (Nat × Nat)
  granules : List Nat
  stream : List (Nat × Nat × Nat)
  layers : List Nat
deriving DecidableEq, Repr

/-- A submission (R223, R224): the sheaf's queue entry it holds, the instances it runs, how many INSTANCE_DONE it has
written, its tasks retired per instance (keyed by ordinal), whether the tiles have it, and its end. `faulted` holds the
tasks that retired with a fault. -/
structure Submission where
  no : Nat
  sheaf : Nat
  graph : Nat
  first : W32
  count : Nat
  notify : Bool
  onTiles : Bool
  done : Nat
  retired : Tab (List Nat)
  cancelling : Bool
  finished : Bool
  cancelled : Bool
deriving DecidableEq, Repr

/-- A completion record waiting for room in the ring (R241), 32 bytes as a number, with whether it raises the interrupt. -/
structure CrRec where
  data : Nat
  notify : Bool
deriving DecidableEq, Repr

/-- A partition reset and its replay (R442, R448): RNO, cause, the origin whose RNO it carries, whether it still waits for
the EPOCH spacing of R452, whether the replay has begun, the members not yet retired
as (submission, instance, task), how many were replayed, and whether it ended in REPLAY_IMPOSSIBLE with its reason. -/
structure Reset where
  rno : Nat
  cause : Nat
  origin : BitVec 24
  waitEpoch : Bool
  begun : Bool
  members : List (Nat × Nat × Nat)
  replayed : Nat
  impossible : Option Nat
  noReplay : Bool
  /-- A rerun from a restored boundary (R480): instances of this step and later count as unstarted. -/
  rerunFrom : Option W32
  /-- The oldest unfinished step at the origin, where that is another engine (R451). -/
  originStep : Option W32
deriving DecidableEq, Repr

/-- The states of a stook (R477). -/
inductive StookSt where
  | opened | complete | sealed | failed
deriving DecidableEq, Repr

/-- A stook (R467 to R477): step, address, endpoint; the health window and directory size at its opening, its emitted bytes by
object offset, the owned buckets whose state has been emitted, whether section 0 and sections 1 to 3 have been, pieces not
yet acknowledged, and whether manifest and seal have been sent. -/
structure Stook where
  step : W32
  base : BitVec 64
  ep : BitVec 24
  st : StookSt
  emitted : List Nat
  parts : Bool
  boundary : Bool
  hwW : Nat
  hwNt : Nat
  body : Mem
  unacked : Nat
  manifestSent : Bool
  sealSent : Bool
  seed : BitVec 64
  dataPos : BitVec 64
  nhs : Nat
deriving DecidableEq, Repr

/-- A stook cadence (R469). -/
structure Cadence where
  k : Nat
  first : W32
  ep : BitVec 24
  base : BitVec 64
  from_ : W32
deriving DecidableEq, Repr

/-- A stook part held at the home Saddle die (R476). -/
structure StookPart where
  isSeal : Bool
  step : W32
  data : List Byte
  written : Bool
deriving DecidableEq, Repr

/-- Why a context is held at a step boundary (R441, R455, R462, R478). -/
inductive QuiesceBy where
  | spur (j : Nat)
  | peer (e : BitVec 24)
  | test (sheaf : Nat)
  | restore
  /-- While the owner tags of a sheaf are to be written (R57). -/
  | tags (sheaf : Nat)
deriving DecidableEq, Repr

/-- A TASK_FAULT that Nuarn has still to handle (R440): submission, instance step, graph, task, trap code. -/
structure TaskFault where
  sub : Nat
  step : W32
  graph : Nat
  task : Nat
  trap : Nat
deriving DecidableEq, Repr

/-- What is noted when a task's slot is loaded, until it retires (R445): submission, instance, task; GSN of the newest LAYERTAB record,
and the formats of its anchor writes. -/
structure LoadNote where
  key : Nat × Nat × Nat
  ltv : Nat
  fmts : List Nat
deriving DecidableEq, Repr

/-- An open context. -/
structure Ctx where
  opener : Opener
  chan : Nat
  vector : Nat
  mask : Nat
  slabs : Nat
  seed : BitVec 64
  /-- The slabs of the context, keyed by stack, in view order. -/
  slabMap : Tab (List Nat)
  window : Bool
  closing : Bool
  reset : Option Reset
  resetsSeen : List (Nat × Nat × Nat)
  quiesced : List QuiesceBy
  waiting : List QuiesceBy
  graphs : List Graph
  nextSub : Nat
  subs : List Submission
  /-- Finished submissions whose instances a bucket attempt may still re-dispatch (R311). -/
  past : List Submission
  /-- The submission accepted last on each sheaf (R223). -/
  newest : Tab Nat
  hwSet : Bool
  segs : List (Nat × Nat)
  heldRecs : List CrRec
  crSeq : Nat
  gsn : Nat
  gleanMarks : List (W32 × Nat)
  lastLayerTab : Nat
  loads : List LoadNote
  itemLogs : List W32
  faults : List TaskFault
  layers : List Nat
  layerPol : Tab LayerPol
  /-- The tile that first reported a tensor's record of a step (R181), and the records of the last two steps that set the anomaly
  flag (R170), by directory index and step. -/
  firstRep : List (Nat × W32 × Nat)
  anom : List (Nat × W32)
  boundaryDone : Option W32
  win : WinnowCtx
  clip : List ClipLatch
  sched : List SchedLatch
  peers : Option PeerTable
  xrd : Nat
  cad : Option Cadence
  stook : Option Stook
  /-- Earlier stooks, Complete but not Sealed, that wait for their seal parts (R477). -/
  sealing : List Stook
  parts : List StookPart
  restored : Option (W32 × Option (BitVec 32))
deriving DecidableEq, Repr

/-- A bound sheaf (R13, R409): its context, geometry, resilience and row shifts (row to the logical x of the dead tile),
its co-tenant with bank mask, when its last automatic test began in ms, a test in progress (categories, whether it
has begun, whether the host asked for it), a release under way, and for each context the first and the last step done since its
last passed test or the last start-up mapping (R463). -/
structure Sheaf where
  ctx : BitVec 8
  x0 : Nat
  y0 : Nat
  w : Nat
  h : Nat
  resilient : Bool
  shifts : Tab Nat
  second : Option (BitVec 8)
  mask : Nat
  testMs : Option Nat
  testing : Option (Nat × Bool × Bool)
  releasing : Option Bool
  steps : Tab (W32 × W32)
deriving DecidableEq, Repr

end Sys2Proof.Machine
end

