-- ==== Sys2Proof/Machine/HostState.lean ====
section
/-! DEFINITION. The state of the mailboxes and of the PCI Express endpoint: channels, taken messages and replies, journals,
interrupts, doorbells. Plain data only. -/
namespace Sys2Proof.Machine

/-- A message as taken from a channel (R397, R398). -/
structure Msg where
  takeNo : Nat
  seq : Nat
  code : Nat
  flags : Nat
  len : Nat
  cseq : W32
  args : List W32
  inHdr : List Byte
  inData : List Byte
deriving DecidableEq, Repr

/-- A reply (R397, R400): SEQ, detail, status, body registers 2 to 14, the data of OUT. -/
structure Reply where
  seq : Nat
  cseq : W32
  status : Nat
  detail : Nat
  body : List W32
  last : W32
  out : List Byte
deriving DecidableEq, Repr

/-- A journal entry (R404): a client sequence number with the outcome it had. -/
structure JEntry where
  cseq : W32
  status : Nat
  detail : Nat
  body : List W32
  out : List Byte
deriving DecidableEq, Repr

/-- A staged assembly (R401). -/
structure Assembly where
  code : Nat
  total : Nat
  dest : Nat
  data : List Byte
deriving DecidableEq, Repr

/-- What the command at the head of a channel waits for. -/
inductive Await where
  | cancel (ctx : BitVec 8)
  | close (ctx : BitVec 8)
  | release (sheaf : Nat) (secondary : Bool)
  | verify (ctx : BitVec 8)
  | test (sheaf : Nat)
deriving DecidableEq, Repr

/-- One mailbox channel (R391 to R394, R398 to R404). -/
structure Chan where
  data : Tab W32
  seq : Nat
  short : Bool
  busy : Bool
  timedOut : Bool
  tseq : Nat
  rseq : Nat
  late : Bool
  restarted : Bool
  replyValid : Bool
  timeout : Bool
  taken : Bool
  tmo : Nat
  tmoLatched : Nat
  irq : Nat
  reply : Tab W32
  inBuf : Mem
  outBuf : Mem
  queue : List Msg
  await : Option Await
  replies : List Reply
  journal : List JEntry
  asm : Option Assembly
  report : List Byte
deriving DecidableEq, Repr

/-- DESIGN CHOICE, log entry 6. -/
def Chan.init : Chan :=
  { data := [], seq := 0, short := false, busy := false, timedOut := false, tseq := 0, rseq := 0, late := false
    restarted := false, replyValid := false, timeout := false, taken := false, tmo := 20000, tmoLatched := 20000
    irq := 0, reply := [], inBuf := [], outBuf := [], queue := [], await := none, replies := [], journal := []
    asm := none, report := [] }

/-- A negotiated agreement of a function (R406). -/
structure Agreement where
  version : Nat
  features : Nat
deriving DecidableEq, Repr

/-- A doorbell write in the FIFO (R382). -/
structure Bell where
  ctx : BitVec 8
  value : W32
deriving DecidableEq, Repr

/-- One MSI-X vector (R379, R381): its table entry, mask and pending bit. Keyed 0 to 127 for the PF and 128 * v + n for
VF v. -/
structure MsixVec where
  addr : BitVec 64
  data : W32
  masked : Bool
  pend : Bool
deriving DecidableEq, Repr

def MsixVec.init : MsixVec := ⟨0, 0, true, false⟩

/-- The PCI Express side (R378 to R384): the link and PERST#, MSI-X vectors, doorbell FIFO, event page; what AER has reported: uncorrectable
status, advisory non-fatal errors (poisoned writes), correctable errors. -/
structure Pcie where
  perst : Bool
  linkUp : Bool
  vecs : Tab MsixVec
  fifo : List Bell
  evtStat : Nat
  evtEn : Nat
  aerStatus : W32
  nonFatal : Nat
  corrected : Nat
deriving DecidableEq, Repr

def Pcie.init : Pcie := ⟨true, false, [], [], 0, 0, 0, 0, 0⟩

/-- What the module sends to the management port (R396). -/
inductive MgmtOut where
  /-- An event of secure channel s: an In-Band Interrupt, and an OP 3 record to the requester that last wrote the channel's MBX_IRQ over
  UDP, by its tag. -/
  | event (s : Nat) (dest : Option (BitVec 64))
  /-- The answer to a request record: OP, address, value, tag. -/
  | answer (op : Nat) (addr : Nat) (value : W32) (tag : BitVec 64)
deriving DecidableEq, Repr

end Sys2Proof.Machine
end

