-- ==== Sys2Proof/Machine/ModuleState.lean ====
section
/-! DEFINITION. The state of the standby domain and of the module: fuses, straps, flash, the Cairn complex, measurements,
logs, power, cooling and telemetry. Plain data only. -/
namespace Sys2Proof.Machine

/-- The fuse array (R417). `svn` is the field of 64 fuses whose set bits are counted. -/
structure Fuses where
  serial : BitVec 64
  idseed : BitVec 256
  svn : BitVec 64
  dbgdis : Bool
  keyrev : BitVec 4
  keyhash : List (BitVec 256)
deriving DecidableEq, Repr

/-- The strap values latched at standby reset release (R495, R496). -/
structure Straps where
  boot : BitVec 2
  host : BitVec 2
  sec : Bool
  pwr : BitVec 3
  spur : Bool
  eth : BitVec 2
  slot : BitVec 4
  dbg : Bool
deriving DecidableEq, Repr

/-- The firmware image that the ROM accepted (R420, R428): which image, its version, key index and rollback version. -/
structure Maelec where
  image : Nat
  imgVer : Nat
  keyIdx : Nat
  svn : Nat
  revoke : Nat
  companion : List Byte
deriving DecidableEq, Repr

/-- The Nuarn image in force (R424, R425): version, interface range and floor, its first 128 header bytes. -/
structure Nuarn where
  imgVer : Nat
  vmin : Nat
  vmax : Nat
  vfloor : Nat
deriving DecidableEq, Repr

/-- A steward core (R388, R389, R415): powered, restarting, retired, times of its deaths in ms, access table calls. -/
structure Steward where
  awake : Bool
  restarting : Bool
  retired : Bool
  deaths : List Nat
deriving DecidableEq, Repr

def Steward.init : Steward := ⟨true, false, false, []⟩

/-- A log ring (R436): records ever written, and those still held, oldest first. -/
structure LogRing where
  written : Nat
  recs : List LogRec
deriving DecidableEq, Repr

def LogRing.init : LogRing := ⟨0, []⟩

/-- Why the engine is out of service (R455, R465, R491) and what follows. -/
inductive Oos where
  /-- Class 8: a new start-up mapping follows; `waiting` once it could not present every shot or stack (R457). -/
  | remap (cls : Nat) (waiting : Bool)
  /-- Class 12, and a steward's third death: the engine waits for repair. -/
  | repair (cls : Nat)
  /-- An orderly power-down in progress: contexts have been told REPAIR_WAIT or not yet. -/
  | powerDown (told : Bool)
deriving DecidableEq, Repr

/-- The Cairn complex (R385 to R389, R415, R426 to R431). `restart` holds, during an engine restart after a warden failure,
whether it was the watchdog. -/
structure Cairn where
  engState : Nat
  oos : Option Oos
  restart : Option Bool
  maelec : Option Maelec
  compOk : Bool
  nuarn : Option Nuarn
  ready : Bool
  stewards : Tab Steward
  meas : List (BitVec 256)
  certBad : Bool
  debugOpen : Bool
  rseq : Nat
  restarts : Nat
  rno : Nat
  engIdHi : BitVec 20
  ms : Nat
  /-- Uncorrectable errors seen: (1, tile, bank * 256 + line, ms) for SRAM, (2, stack, pseudo-channel, ms) for HBM; and
  (3, tile, ECCCNT, ms) samples. -/
  errs : List (Nat × Nat × Nat × Nat)
  failedTiles : List Nat
  probing : List Nat
  probeSeen : List (Nat × Bool)
  /-- Has the running image reached ENGSTATE 0x05 (R422)? -/
  wasReady : Bool
  /-- The local SRAM of the cores (R385): 0 the warden, 1 to 4 stewards 0 to 3. -/
  sram : Tab Mem
deriving DecidableEq, Repr

/-- Main power (R490 to R493). -/
inductive MainPhase where
  | off | precharge | up | orderly
deriving DecidableEq, Repr

/-- Power, cooling and clocking (R488 to R509). `cap` and the derates in 0.1 kW, frequencies in 0.1 GHz. `eoffWait`: an EOFF_N asks
for MAIN_EN to rise anew. `ceilMs` counts down the periods in which a shot's ceiling may not rise; `levelZeroMs` and `fgMs` count
periods since the level became 0 and since F_G changed. `winHigh`, `winSum`, `winN`: whether a window of the period passed the
threshold, and the sum and number of the period's window means in W. `limited`, `curDerate`, `hotActed`: the limiter was above 0,
the input limit acted, and the tiles gated by the tile-hot trip, in the present telemetry frame. `autoFallow` holds the origins
of the 8 × 8 blocks that the loop made fallow. -/
structure Module where
  stbyGood : Bool
  stbyOff : Bool
  rst : Bool
  mainEn : Bool
  eoffWait : Bool
  phase : MainPhase
  pgMain : Bool
  alertLatch : Bool
  cap : Nat
  fmax : Nat
  fallowOk : Bool
  fg : Nat
  level : Nat
  ceil : Tab Nat
  levelZeroMs : Nat
  fgMs : Nat
  ceilMs : Tab Nat
  winHigh : Bool
  winSum : Nat
  winN : Nat
  /-- The POWER_POLICY cap that the loop uses for the period in progress (R507). -/
  loopCap : Nat
  limited : Bool
  inletCap : Option Nat
  flowCap : Option Nat
  curDerate : Bool
  hotActed : List Nat
  hbmHot : List Nat
  hbmVery : List Nat
  dieHot : List Nat
  autoFallow : List Nat
deriving DecidableEq, Repr

/-- Telemetry (R511 to R514): the words of the frame at 0x5_0400 by word number, the counters TLM_CE0 to TLM_CE11, the
energy in mJ, the address the I3C target 0x3B holds, whether a shot-warn trip holds, and the number of the last frame. -/
structure Telemetry where
  frame : Tab W32
  ce : Tab Nat
  energy : Nat
  i3c : Nat
  shotWarn : Bool
  last : Nat
deriving DecidableEq, Repr

/-- DESIGN CHOICE, log entry 6. -/
def Telemetry.init : Telemetry := ⟨[], [], 0, 0, false, 0⟩

end Sys2Proof.Machine
end

