-- ==== Sys2Proof/Machine/State.lean ====
section
/-! DEFINITION. The state of the engine: one module HY8200 with its wafer, memories, links, firmware complex, host link,
power and cooling, and the queue of commands that wait. Plain data only. -/
namespace Sys2Proof.Machine

/-- A command never stops this machine with a fault: every fault of the manual (a task trap, a poisoned line, a reset, a
power-down) is an effect on the state. No constructor; nobody raises one. DESIGN CHOICE, log entry 2. -/
inductive Fault where
deriving DecidableEq, Repr

/-- The refusals of exec. -/
inductive Refusal where
  /-- The command has no meaning yet in the model. Raised by exec's arm for it, by name. Safe: the machine stops. -/
  | notModelled (mnemonic : String)
deriving DecidableEq, Repr

/-- What the module is (R3): grade F or S, stepping A1 or B0. -/
structure Dev where
  gradeF : Bool
  stepB0 : Bool
deriving DecidableEq, Repr

/-- A notice: the variant of profile 0 was loaded where none fits the stepping (R98); the step counter of a context has wrapped (R161);
the field tests of a peer's engine are requested (R314). -/
inductive Notice where
  | performance (ctx : BitVec 8) (graph : Nat)
  | stepWrap (ctx : BitVec 8)
  | fieldTest (ctx : BitVec 8) (engine : BitVec 24)
deriving DecidableEq, Repr

/-- The machine. -/
structure State where
  /-- Commands waiting, first in first out. -/
  pending : List Instr
  /-- The counter that free values are drawn with; the model's own. -/
  free : Nat
  dev : Dev
  /-- Ticks of the common time base, the nominal tile cycle. -/
  ticks : Nat
  /-- Periods that the limiter's level has let pass (R503), in eighths of a tick: in a tile that is not hot, and in a hot one; and the first
  of these counts at the last start-up mapping. -/
  periods : Nat
  hotPeriods : Nat
  mapPeriods : Nat
  /-- Tiles by index y * 256 + x; an unlisted tile is as start-up mapping leaves it. -/
  tiles : Tab Tile
  /-- Swath controllers by port die. -/
  swaths : Tab Swath
  /-- Leases of swath granules, keyed 32 * port + granule, giving the CTX (R270). -/
  leases : Tab Nat
  /-- Saddle dies by number (R237). -/
  saddles : Tab Saddle
  /-- The HBM of all stacks: byte b of slab n of stack k at k * 2^36 + n * 2^27 + b; and the lines, by number, that hold an
  uncorrectable error. -/
  hbm : Mem
  hbmBad : List Nat
  ring : List Flit
  /-- What is left to classes H, I and S of their shares of each segment's round (R267), keyed 2 * stop + 1 clockwise, 2 * stop
  the other way. -/
  ringArb : Tab (Nat × Nat × Nat)
  /-- Uncorrectable-error reports that have reached Maelec (R435). -/
  reports : List LogRec
  /-- Port die links and spurs (R345 to R370), the installed engine table (R371). -/
  links : Tab PortLink
  spurs : Tab Spur
  engine : Option EngineTable
  eth : Eth
  /-- Open contexts, bound sheaves by handle, the EPOCH of every context number and those advanced within 20 ms (R452). -/
  ctxs : Tab Ctx
  sheaves : Tab Sheaf
  epochs : Tab Nat
  spaced : List Nat
  /-- Bucket slots (R303) and the buckets at the landing Saddle dies (R281). -/
  bslots : List BSlot
  upd : List UpdItem
  /-- Mailbox channels: 0 to 63 PF, 64 + 4 (v - 1) + k for VF v, 312 + s secure (R390); agreements by function (0 PF, v, 63
  secure); the take count (R405). -/
  chans : Tab Chan
  agree : Tab Agreement
  takeNo : Nat
  pcie : Pcie
  cairn : Cairn
  /-- Fuse array and shadow, flash devices 0 and 1, latched straps (R417, R418, R496). -/
  fuses : Fuses
  shadow : Fuses
  flash0 : Mem
  flash1 : Mem
  straps : Straps
  faultLog : LogRing
  eventLog : LogRing
  /-- Notices and requests to which the manual gives no record kind and no frame (R98, R161, R314). DESIGN CHOICE, log entry 29. -/
  notices : List Notice
  module : Module
  tlm : Telemetry
  /-- What has left the module: MSI-X messages as (function, vector), management port events and answers, completed
  configuration requests as (function, item, value; none: retry status). -/
  msiOut : List (Nat × Nat)
  mgmtOut : List MgmtOut
  cfgOut : List (Nat × CfgItem × Option Nat)
  /-- Where the last event of a secure channel goes: the tag of the requester that last wrote its MBX_IRQ (R396), and the
  address the I3C target 0x3A holds. -/
  mgmtTags : Tab (BitVec 64)
  mgmtAddr : Nat
deriving DecidableEq, Repr

/-- The fuses as the model starts them. DESIGN CHOICE: the manual calls them fused. DESIGN CHOICE, log entry 5. -/
def Fuses.init : Fuses := ⟨0, 0, 0, false, 0, [0, 0, 0, 0]⟩

/-- The straps with every contact open (R495). DESIGN CHOICE, log entry 5. -/
def Straps.open_ : Straps := ⟨2, 0, false, 0, true, 0, 0, true⟩

/-- The Cairn complex at standby reset. -/
def Cairn.init : Cairn :=
  { engState := 0, oos := none, restart := none, maelec := none, compOk := false, nuarn := none, ready := false
    stewards := [], meas := [0, 0, 0, 0, 0, 0, 0, 0], certBad := false, debugOpen := false, rseq := 0, restarts := 0
    rno := 0, engIdHi := 0, ms := 0, errs := [], failedTiles := [], probing := [], probeSeen := [], wasReady := false, sram := [] }

/-- Power and cooling at standby reset: policy at its defaults (R506), main power off. -/
def Module.init : Module :=
  { stbyGood := true, stbyOff := false, rst := true, mainEn := false, eoffWait := false, phase := .off, pgMain := false
    alertLatch := false, cap := 280, fmax := 27, fallowOk := true, fg := 27, level := 0, ceil := [], levelZeroMs := 0
    fgMs := 0, ceilMs := [], winHigh := false, winSum := 0, winN := 0, loopCap := 280, limited := false, inletCap := none
    flowCap := none, curDerate := false, hotActed := [], hbmHot := [], hbmVery := [], dieHot := [], autoFallow := [] }

/-- The machine right after reset: standby reset asserted (R494), nothing running, main power off, memories unlisted.
DESIGN CHOICE, log entry 5; DESIGN CHOICE, log entry 6. -/
def State.reset : State :=
  { pending := [], free := 0, dev := ⟨true, true⟩, ticks := 0, periods := 0, hotPeriods := 0, mapPeriods := 0, tiles := [], swaths := [], leases := []
    saddles := [], hbm := [], hbmBad := [], ring := [], ringArb := [], reports := [], links := [], spurs := [], engine := none
    eth := .init, ctxs := [], sheaves := [], epochs := [], spaced := [], bslots := [], upd := [], chans := [], agree := []
    takeNo := 0, pcie := .init, cairn := .init, fuses := .init, shadow := .init, flash0 := [], flash1 := []
    straps := .open_, faultLog := .init, eventLog := .init, notices := [], module := .init, tlm := .init, msiOut := [], mgmtOut := []
    cfgOut := [], mgmtTags := [], mgmtAddr := 0 }

end Sys2Proof.Machine
end

