-- ==== Sys2Proof/Machine/Issue.lean ====
section
/-! DEFINITION. What every tile instruction shares: whether the tile can issue, the fetch check, the encoding checks of
R84, the order of traps of R93, the wait for registers, and the advance of the PC; and the entry of a unit instruction
into its queue. -/
namespace Sys2Proof.Machine

/-- The running task's slot, where the scalar pipeline can issue: the core runs, no instruction stalls it, and its
registers are loaded. DESIGN CHOICE, log entry 3. -/
def issuer (t : Tile) : Option (Nat × Slot) :=
  if t.power = .run ∧ t.stall = none ∧ t.pendLoad = none then
    match t.running with
    | some k => (tabFind t.slots k).map (fun sl => (k, sl))
    | none => none
  else none

/-- The trap of a fetch at an offset (R90, R91, R101): an offset that is not a multiple of 8 or lies in no window with X,
then a bank the task's context does not own. DESIGN CHOICE, log entry 3. -/
def fetchTrap (t : Tile) (sl : Slot) (pc : Nat) : Option Nat :=
  if pc % 8 ≠ 0 ∨ !(inWindow sl.task.wins .x pc 8) ∨ pc + 8 > 0x30000 then some 1
  else if banksOwned t sl.task.sec [⟨pc, 8⟩] then none else some 6

/-- A trap of the running task at its current PC. -/
def trapRun (k code unit : Nat) (t : Tile) : Tile := trapSlot k code t.pc unit t

/-- Moves to the next instruction (R84's `next`). -/
def advance (t : Tile) : Tile := { t with pc := t.pc + 8 }

/-- Takes a branch: a target in no X window or off a multiple of 8 traps with the branch's PC (R101). -/
def jumpTo (k : Nat) (sl : Slot) (target : Nat) (t : Tile) : Tile :=
  let tg := target % 2 ^ 18
  if tg % 8 ≠ 0 ∨ !(inWindow sl.task.wins .x tg 8) ∨ tg + 8 > 0x30000 then trapRun k 1 0 t
  else { t with pc := BitVec.ofNat 18 tg }

/-- Scalar registers that the instruction reads or writes and a pending unit instruction still writes (R38). -/
def regsFree (t : Tile) (l : List Nat) : Bool := l.all (fun r => !(pendingS t).contains r)

/-- Issue of one instruction: `unit` is the unit its own checks report, `sregs` the scalar registers it touches, `bad` its
first failing check, and `eff` its effect. Where the tile cannot issue, or a register is still being written, nothing
happens: the command is not taken by the tile in this state. DESIGN CHOICE, log entry 3. -/
def issueWith (unit : Nat) (sregs : Nat → Slot → Tile → List Nat) (bad : Slot → Tile → Option Nat)
    (eff : Nat → Slot → Tile → Tile) (t : Tile) : Tile :=
  match issuer t with
  | none => t
  | some (k, sl) =>
    match fetchTrap t sl t.pc.toNat with
    | some c => trapRun k c 0 t
    | none =>
      if regsFree t (sregs k sl t) then
        match bad sl t with
        | some c => trapRun k c unit t
        | none => eff k sl t
      else t

/-- The instruction word at the PC. -/
def wordAtPc (t : Tile) : BitVec 64 := BitVec.ofNat 64 (sramGet t t.pc.toNat 8)

/-- An instruction as the tile's fetch meets it. A fetch that traps traps whatever the command names. Otherwise the word at the PC
is read, by a read of its ECC word (R56): a word whose MAJOR and MINOR pair is not assigned traps as illegal (R84); the word of the
command's instruction runs it; on any other word the command is not the tile's next instruction, and nothing happens. A held
instruction fetches its word again when it is tried again. DESIGN CHOICE, log entry 3. -/
def fetched (e : Env) (word : BitVec 64) (f : Tile → Tile) (t : Tile) : Tile :=
  match issuer t with
  | none => t
  | some (k, sl) =>
    match fetchTrap t sl t.pc.toNat with
    | some c => trapRun k c 0 t
    | none =>
      let w := wordAtPc t
      if !assigned w then trapRun k 7 0 (sramTouch e t.pc.toNat 8 t)
      else if w = word then f (sramTouch e t.pc.toNat 8 t)
      else t

/-- An encoding check: the illegal-instruction trap (0x07) unless the condition holds (R84). -/
def need (b : Bool) : Option Nat := if b then none else some 7
/-- A format check (0x02). -/
def needFmt (b : Bool) : Option Nat := if b then none else some 2

/-- IMM as a number; bit ranges of it. -/
def immN (o : TInsn) : Nat := o.imm.toNat

/-- The position block of R141, where RM is 0b10: k must be at most 29. -/
def posBlock (t : Tile) (k stream : Nat) : PosBlock :=
  let p := sGet t (k + 2)
  ⟨stream, sGet t k, p >>> 12, 2 ^ 32 * (p % 2 ^ 12) + sGet t (k + 1)⟩

/-- Enters a unit instruction into its queue (R37, R38, R39): not where the queue is full or range entries lack. -/
def enqueue (u : Nat) (k : Nat) (sl : Slot) (kind : UKind) (rds wrs : List Rng) (entries : Nat) (sregs : List Nat)
    (t : Tile) : Tile :=
  let full := if u = 1 then decide (t.arrQ.length ≥ 4) else if u = 2 then decide (t.vecQ.length ≥ 8)
    else decide (t.cpyQ.length ≥ 16)
  if full || decide (entriesUsed t + entries > 16) then t
  else
    let op : UOp := ⟨t.opNo, t.pc, k, sl.loadNo, sl.task.sec, sl.task.ctx, sl.task.step, kind, rds, wrs, entries, sregs, 0⟩
    let t := { t with opNo := t.opNo + 1 }
    advance (if u = 1 then { t with arrQ := t.arrQ ++ [op] } else if u = 2 then { t with vecQ := t.vecQ ++ [op] }
      else { t with cpyQ := t.cpyQ ++ [op] })

end Sys2Proof.Machine
end

