-- ==== Sys2Proof/Machine/Array.lean ====
section
/-! DEFINITION. The array and accumulator instructions (R117 to R130): the checks at issue, the ownership checks at
start (R49, R119), and the effects at completion. -/
namespace Sys2Proof.Machine

/-! ### Operand layouts (R121, R122) -/

def ceilDiv (a b : Nat) : Nat := (a + b - 1) / b

/-- Lines per vector in row layout, of elements and of scales. -/
def rowLines (b k : Nat) : Nat := ceilDiv (k * b) 512
def scaleLines (k : Nat) : Nat := ceilDiv k 2048

/-- 64-byte lines an MMA operand occupies. -/
def operandLines (col : Bool) (fmt k : Nat) : Nat :=
  if col then 64 * ceilDiv (k * (elemBits fmt / 8)) 64
  else 64 * (rowLines (elemBits fmt) k + (if 5 ≤ fmt ∧ fmt ≤ 7 then scaleLines k else 0))

/-- opval (R125): the exact value of element (v, k) of an operand at `base`. -/
def opVal (t : Tile) (col : Bool) (fmt kTotal base v k : Nat) : FVal :=
  let b := elemBits fmt
  match elemFmt fmt with
  | none => .nan
  | some F =>
    if col then decodeF F (sramGet t (base + 64 * (b / 8) * k + (b / 8) * v) (b / 8))
    else
      let p := rowLines b kTotal
      let at_ := base + 64 * p * v + k * b / 8
      if b = 16 then decodeF F (sramGet t at_ 2)
      else
        let raw := (memRd t.sram at_).toNat
        let el := if b = 4 then (if k % 2 = 0 then raw % 16 else raw / 16) else raw
        if 5 ≤ fmt then
          mxVal F el (memRd t.sram (base + 4096 * p + 64 * scaleLines kTotal * v + k / 32)).toNat
        else decodeF F el

/-- One element of a bank or of a pair during an MMA: high and low words, the run and its product count, whether the run
met a non-finite operand, and the SAT and NF flags set so far. -/
structure MmaAcc where
  hi : Nat
  lo : Nat
  run : Dy
  cnt : Nat
  bad : Bool
  sat : Bool
  nf : Bool
deriving DecidableEq, Repr

/-- promote of R125 into a single bank element. -/
def promoteOne (m : MmaAcc) : MmaAcc :=
  if m.bad || isNan32 m.hi then { m with hi := nan32, nf := true }
  else
    let y := rne32 (fvAdd (f32 m.hi) (.fin m.run))
    if isInf32 y then { m with hi := max32 (decide (y ≥ 2 ^ 31)), sat := true } else { m with hi := y }

/-- promote of R125 into an FP32x2 pair. -/
def promotePair (m : MmaAcc) : MmaAcc :=
  if m.bad || isNan32 m.hi || isNan32 m.lo then { m with hi := nan32, lo := nan32, nf := true }
  else
    let y := rne32 (fvAdd (.fin m.run) (f32 m.lo))
    let s := rne32 (fvAdd (f32 m.hi) (f32 y))
    if isInf32 y || isInf32 s then { m with hi := max32 (decide (s ≥ 2 ^ 31)), lo := 0, sat := true }
    else { m with hi := s, lo := rne32 (fvAdd (fvAdd (f32 m.hi) (f32 y)) (f32 s).neg) }

/-- One array cycle for one position: p products added exactly, one rounding, and a promotion where the run ends. -/
def mmaCycle (pair : Bool) (l : Nat) (lastCycle : Bool) (p : Nat) (prods : List (FVal × FVal)) (m : MmaAcc) : MmaAcc :=
  let bad := m.bad || prods.any (fun q => !q.1.isFinite || !q.2.isFinite)
  let sum := prods.foldl (fun acc q => match fvMul q.1 q.2 with
    | .fin d => dyAdd acc d
    | _ => acc) m.run
  let m := { m with run := if bad then ⟨false, 0, 0⟩ else rrun sum, cnt := m.cnt + p, bad := bad }
  if m.cnt ≥ l ∨ lastCycle then
    { (if pair then promotePair m else promoteOne m) with run := ⟨false, 0, 0⟩, cnt := 0, bad := false }
  else m

/-- The final value of element (m, n) of an MMA (R125). -/
def mmaElem (t : Tile) (ora orb : Bool) (fa fb k : Nat) (pair : Bool) (l aBase bBase m n hi lo : Nat) : MmaAcc :=
  let p := min (fmtRate fa) (fmtRate fb)
  (List.range (k / p)).foldl (fun acc i =>
    let prods := (List.range p).map (fun q =>
      (opVal t ora fa k aBase m (i * p + q), opVal t orb fb k bBase n (i * p + q)))
    mmaCycle pair l (decide ((i + 1) * p = k)) p prods acc) ⟨hi, lo, ⟨false, 0, 0⟩, 0, false, false, false⟩

def bankGet (t : Tile) (b : Bool) : AccBank := if b then t.accB else t.accA
def bankSet (b : Bool) (x : AccBank) (t : Tile) : Tile := if b then { t with accB := x } else { t with accA := x }
def elemGet (x : AccBank) (i : Nat) : Nat := (tabGet x.elems i 0).toNat
def elemSet (i v : Nat) (x : AccBank) : AccBank := { x with elems := tabPut x.elems i 0 (BitVec.ofNat 32 v) }

/-- The effect of an MMA (R125). -/
def mmaEffect (bank ora orb : Bool) (fa fb k : Nat) (pair : Bool) (runlen aBase bBase : Nat) (t : Tile) : Tile :=
  (List.range 4096).foldl (fun t' i =>
    let hi := elemGet (if pair then t'.accA else bankGet t' bank) i
    let lo := if pair then elemGet t'.accB i else 0
    let r := mmaElem t ora orb fa fb k pair (runlen + 1) aBase bBase (i / 64) (i % 64) hi lo
    let flag (x : AccBank) : AccBank := { x with sat := x.sat || r.sat, nf := x.nf || r.nf }
    if pair then
      { t' with accA := flag (elemSet i r.hi t'.accA), accB := elemSet i r.lo t'.accB }
    else bankSet bank (flag (elemSet i r.hi (bankGet t' bank))) t') t

/-- The effect of ACCZ (R127): elements +0, flags clear. The claim is made at start. -/
def acczEffect (bank pair : Bool) (t : Tile) : Tile :=
  let z (x : AccBank) : AccBank := { x with elems := [], sat := false, nf := false }
  if pair then { t with accA := z t.accA, accB := z t.accB } else bankSet bank (z (bankGet t bank)) t

/-- The draw of element j under a position block (R141). -/
def drawAt (seed : Nat) (p : PosBlock) (j : Nat) : Nat := pkg seed p.stream p.step p.tid ((p.idx + j) % 2 ^ 44)

/-- Bits per element and lines per row of an ACCRD or ACCWR format (R128, R129). -/
def accBits (fmt : Nat) : Nat := if fmt = 0 then 32 else if fmt = 0xD then 64 else elemBits fmt
def accRowLines (fmt : Nat) : Nat := if fmt = 0 then 4 else if fmt = 0xD then 8 else rowLines (elemBits fmt) 64
def accLines (fmt : Nat) : Nat := 64 * (accRowLines fmt + (if 5 ≤ fmt ∧ fmt ≤ 7 then 1 else 0))

/-- The encodings of one row of an ACCRD, and its scales (R128, R143). -/
def accrdRow (seed fmt rm : Nat) (pos : PosBlock) (x : AccBank) (r : Nat) : List Nat × List Nat :=
  let vals := (List.range 64).map (fun c => f32 (elemGet x (64 * r + c)))
  match mxFmt fmt with
  | some (F, emax) =>
    let blk (n : Nat) := mxNarrow F emax rm (fun i => drawAt seed pos (64 * r + 32 * n + i)) ((vals.drop (32 * n)).take 32)
    ((blk 0).2 ++ (blk 1).2, [(blk 0).1, (blk 1).1])
  | none =>
    match fmtOfCode fmt with
    | some F => (vals.mapIdx (fun c v => rmRound F rm (drawAt seed pos (64 * r + c)) v), [])
    | none => ([], [])

/-- The effect of ACCRD (R128). -/
def accrdEffect (e : Env) (seed : Nat) (bank rel add : Bool) (fmt rm : Nat) (pos : PosBlock) (dst : Nat) (t : Tile) :
    Tile :=
  let x := bankGet t bank
  let p := accRowLines fmt
  let t := (List.range 64).foldl (fun t r =>
    if add then
      (List.range 4).foldl (fun t l =>
        sramAdd e (dst + 256 * r + 64 * l)
          (ofElems 32 ((List.range 16).map (fun c => elemGet x (64 * r + 16 * l + c)))) t) t
    else if fmt = 0xD then
      sramPut e (dst + 512 * r) 512
        (ofElems 64 ((List.range 64).map (fun c => elemGet t.accA (64 * r + c) + 2 ^ 32 * elemGet t.accB (64 * r + c)))) t
    else
      let row := accrdRow seed fmt rm pos x r
      let t := sramPut e (dst + 64 * p * r) (64 * p) (ofElems (accBits fmt) row.1) t
      if 5 ≤ fmt ∧ fmt ≤ 7 then sramPut e (dst + 4096 * p + 64 * r) 64 (ofElems 8 row.2) t else t) t
  if rel then
    (if fmt = 0xD then { t with accA := { t.accA with own := 0 }, accB := { t.accB with own := 0 } }
     else bankSet bank { bankGet t bank with own := 0 } t)
  else t

/-- The effect of ACCWR (R129, R47): exact conversion, non-finite inputs as the canonical NaN with NF. -/
def accwrEffect (e : Env) (bank : Bool) (fmt src : Nat) (t : Tile) : Tile :=
  let t := sramTouch e src (64 * accLines fmt) t
  let F := (fmtOfCode fmt).getD fmtFP32
  let w := accBits fmt / 8
  if fmt = 0xD then
    (List.range 4096).foldl (fun t i =>
      let h := sramGet t (src + 8 * i) 4
      let l := sramGet t (src + 8 * i + 4) 4
      if (f32 h).isFinite && (f32 l).isFinite then { t with accA := elemSet i h t.accA, accB := elemSet i l t.accB }
      else { t with accA := { elemSet i nan32 t.accA with nf := true }, accB := elemSet i nan32 t.accB }) t
  else
    (List.range 4096).foldl (fun t i =>
      let v := decodeF F (sramGet t (src + w * i) w)
      if v.isFinite then bankSet bank (elemSet i (rne32 v) (bankGet t bank)) t
      else bankSet bank { elemSet i nan32 (bankGet t bank) with nf := true } t) t

/-- The effect of ACCSW (R50, R130). -/
def accswEffect (t : Tile) : Tile := { t with accA := t.accB, accB := t.accA }

/-! ### Issue -/

/-- MMA: fields of R124; formats of R42; the whole range of both operands readable (R123). -/
def insMma (o : TInsn) (t : Tile) : Tile :=
  let i := immN o
  let bank := bitOf i 33
  let ora := bitOf i 32
  let orb := bitOf i 31
  let fa := bits i 30 27
  let fb := bits i 26 23
  let k := 32 * (bits i 22 16 + 1)
  let pair := bitOf i 15
  let a := aGet t (regNo o.rs1)
  let b := aGet t (regNo o.rs2)
  let okF (f : Nat) (col : Bool) : Bool := decide (1 ≤ f ∧ f ≤ 7) && !(col && decide (f ≥ 5))
  let chk (sl : Slot) (col : Bool) (f x : Nat) : Option Nat :=
    chkLocal sl.task.wins .r x (if col then 4096 else 64) (operandLines col f k)
  issueWith 1 (fun _ _ _ => [])
    (fun sl _ => firstTrap [
      need (o.rd == 0 && isA o.rs1 && isA o.rs2 && decide (bits i 14 0 = 0) && !(pair && bank)),
      needFmt (okF fa ora && okF fb orb),
      chkMin (chk sl ora fa a) (chk sl orb fb b)])
    (fun kk sl t => enqueue 1 kk sl (.mma bank ora orb fa fb k pair t.runlen (offOf a) (offOf b))
      [⟨offOf a, 64 * operandLines ora fa k⟩, ⟨offOf b, 64 * operandLines orb fb k⟩] [] 2 [] t) t

/-- ACCZ: BANK and PAIR only. -/
def insAccz (o : TInsn) (t : Tile) : Tile :=
  issueWith 1 (fun _ _ _ => [])
    (fun _ _ => need (o.rd == 0 && o.rs1 == 0 && o.rs2 == 0 && decide (immN o % 2 ^ 32 = 0)))
    (fun k sl t => enqueue 1 k sl (.accz (bitOf (immN o) 33) (bitOf (immN o) 32)) [] [] 0 [] t) t

/-- ACCRD: fields of R128, the written range in windows with W. DEDUCED, log entry 4. -/
def insAccrd (o : TInsn) (t : Tile) : Tile :=
  let i := immN o
  let bank := bitOf i 33
  let fmt := bits i 30 27
  let rm := bits i 26 25
  let add := bitOf i 31
  let d := aGet t (regNo o.rd)
  issueWith 1 (fun _ _ _ => if rm = 2 then [regNo o.rs2, regNo o.rs2 + 1, regNo o.rs2 + 2] else [])
    (fun sl _ => firstTrap [
      need (isA o.rd && o.rs1 == 0 && decide (bits i 24 16 = 0) &&
        (if rm = 2 then decide (o.rs2.toNat ≤ 29) else o.rs2 == 0) &&
        !(decide (fmt = 0xD) && bank) && !(decide (fmt = 0 ∨ fmt = 0xD) && decide (rm ≠ 0))),
      needFmt (decide (fmt ≤ 7 ∨ fmt = 0xD) && !(add && decide (fmt ≠ 0))),
      chkLocal sl.task.wins .w d 64 (accLines fmt)])
    (fun k sl t => enqueue 1 k sl
      (.accrd bank (bitOf i 32) add fmt rm (if rm = 2 then posBlock t o.rs2.toNat (bits i 15 0) else ⟨0, 0, 0, 0⟩) (offOf d))
      (if add then [⟨offOf d, 64 * accLines fmt⟩] else []) [⟨offOf d, 64 * accLines fmt⟩] 1 [] t) t

/-- ACCWR: BANK and FMT only; formats 0x0, 0x1, 0x2 and 0xD; the read range in windows with R. -/
def insAccwr (o : TInsn) (t : Tile) : Tile :=
  let i := immN o
  let bank := bitOf i 33
  let fmt := bits i 30 27
  let s := aGet t (regNo o.rs1)
  issueWith 1 (fun _ _ _ => [])
    (fun sl _ => firstTrap [
      need (o.rd == 0 && isA o.rs1 && o.rs2 == 0 && decide (bits i 32 31 = 0 ∧ bits i 26 0 = 0) &&
        !(decide (fmt = 0xD) && bank)),
      needFmt (decide (fmt ≤ 2 ∨ fmt = 0xD)),
      chkLocal sl.task.wins .r s 64 (accLines fmt)])
    (fun k sl t => enqueue 1 k sl (.accwr bank fmt (offOf s)) [⟨offOf s, 64 * accLines fmt⟩] [] 1 [] t) t

/-- ACCSW: no fields. -/
def insAccsw (o : TInsn) (t : Tile) : Tile :=
  issueWith 1 (fun _ _ _ => [])
    (fun _ _ => need (o.rd == 0 && o.rs1 == 0 && o.rs2 == 0 && o.imm == 0))
    (fun k sl t => enqueue 1 k sl .accsw [] [] 0 [] t) t

/-! ### Start -/

/-- Does an array instruction run in the product engine? ACCSW takes both; it is held there. -/
def inProduct : UKind → Bool
  | .mma .. => true
  | .accsw => true
  | _ => false

/-- The banks an array instruction reads or writes: acc.A, acc.B. -/
def banksUsed : UKind → Bool × Bool
  | .mma b _ _ _ _ _ pair .. => (pair || !b, pair || b)
  | .accz b pair => (pair || !b, pair || b)
  | .accrd b _ _ fmt .. => (decide (fmt = 0xD) || !b, decide (fmt = 0xD) || b)
  | .accwr b fmt _ => (decide (fmt = 0xD) || !b, decide (fmt = 0xD) || b)
  | .accsw => (true, true)
  | _ => (false, false)

/-- The bank ownership check of R49 and R119. -/
def accOwned (t : Tile) (o : UOp) : Bool :=
  let tag := roleTag o.sec
  let own (x : AccBank) : Bool := x.own == tag
  let free (x : AccBank) : Bool := x.own == 0 || x.own == tag
  let u := banksUsed o.kind
  match o.kind with
  | .mma .. | .accrd .. => (!u.1 || own t.accA) && (!u.2 || own t.accB)
  | .accz .. | .accwr .. | .accsw => (!u.1 || free t.accA) && (!u.2 || free t.accB)
  | _ => true

/-- ACCZ and ACCWR claim their banks (R49). -/
def accClaim (o : UOp) (t : Tile) : Tile :=
  let tag := roleTag o.sec
  let u := banksUsed o.kind
  match o.kind with
  | .accz .. | .accwr .. =>
    { t with accA := if u.1 then { t.accA with own := tag } else t.accA
             accB := if u.2 then { t.accB with own := tag } else t.accB }
  | _ => t

/-- Do the ranges of an instruction wait for an earlier pending one (R38)? -/
def rangesClear (t : Tile) (o : UOp) : Bool :=
  (pendingOps t).all (fun p => decide (p.no ≥ o.no) || !conflicts o.rds o.wrs p)

/-- May the head of the array queue start (R118)? -/
def arrayMayStart (t : Tile) (o : UOp) : Bool :=
  let u := banksUsed o.kind
  let clash (x : Option UOp) : Bool := match x with
    | some p => let q := banksUsed p.kind
                (u.1 && q.1) || (u.2 && q.2)
    | none => false
  (if inProduct o.kind then t.prod.isNone else t.port.isNone) && !clash t.prod && !clash t.port && rangesClear t o

/-- UNIT_INSTRUCTION_START of the array unit: the head of the queue starts, or traps on ownership with its PC. -/
def arrayStart (t : Tile) : Tile :=
  match t.arrQ with
  | [] => t
  | o :: rest =>
    if arrayMayStart t o then
      let t := { t with arrQ := rest }
      if accOwned t o && banksOwned t o.sec (o.rds ++ o.wrs) then
        let t := accClaim o t
        if inProduct o.kind then { t with prod := some o } else { t with port := some o }
      else trapSlot o.slot 6 o.pc 1 t
    else t

/-- The job seed a unit instruction draws with (R141). -/
def seedOf (t : Tile) (sec : Bool) : Nat := ((roleOf t sec).map (·.seed.toNat)).getD 0

/-- The effect of a completed array instruction. -/
def arrayEffect (e : Env) (o : UOp) (t : Tile) : Tile :=
  match o.kind with
  | .mma bank ora orb fa fb k pair rl a b =>
    mmaEffect bank ora orb fa fb k pair rl a b (o.rds.foldl (fun t r => sramTouch e r.lo r.len t) t)
  | .accz bank pair => acczEffect bank pair t
  | .accrd bank rel add fmt rm pos dst => accrdEffect e (seedOf t o.sec) bank rel add fmt rm pos dst t
  | .accwr bank fmt src => accwrEffect e bank fmt src t
  | .accsw => accswEffect t
  | _ => t

/-- UNIT_INSTRUCTION_COMPLETE of the product engine or the bank port. -/
def productComplete (e : Env) (t : Tile) : Tile :=
  match t.prod with
  | some o => tryLoad (arrayEffect e o { t with prod := none })
  | none => t
def portComplete (e : Env) (t : Tile) : Tile :=
  match t.port with
  | some o => tryLoad (arrayEffect e o { t with port := none })
  | none => t

end Sys2Proof.Machine
end

