-- ==== Sys2Proof/Machine/Copy.lean ====
section
/-! DEFINITION. The copy instructions (R104 to R108, R275): the checks at issue, what a started one sends, and what it does
at completion. -/
namespace Sys2Proof.Machine

/-- The classes tile code may name (R188). -/
def classOk (c : Nat) : Bool := [0x0, 0x4, 0x5, 0x8, 0x9, 0xD].contains c

/-- The encoding and format checks CPY, SEND and MCAST share (R104). -/
def moveEnc (o : TInsn) : Option Nat :=
  firstTrap [
    need (isA o.rd && isA o.rs1 && isS o.rs2 && classOk (bits (immN o) 33 30) && decide (bits (immN o) 23 20 = 0)),
    none]
def moveFmt (o : TInsn) : Option Nat :=
  needFmt (decide (bits (immN o) 27 24 < 0xE) && !(bitOf (immN o) 29 && decide (bits (immN o) 27 24 ≠ 0)))

/-- An operand of CPY in SPACE 0x2 or 0x3: alignment (0x01), then the view (0x04). -/
def chkView (e : Env) (ctx : BitVec 8) (p : Perm) (a lines : Nat) : Option Nat :=
  if offOf a % 64 ≠ 0 then some 1
  else if viewOk e ctx p (spaceOf a) (offOf a) lines then none else some 4

/-- The address checks of CPY (R105): the pairing, and each side's own checks. -/
def cpyAddr (e : Env) (sl : Slot) (src dst n : Nat) : Option Nat :=
  if n = 0 then none
  else
    let side (p : Perm) (a : Nat) : Option Nat :=
      if spaceOf a = 0 then chkLocal sl.task.wins p a 64 n
      else if spaceOf a = 2 ∨ spaceOf a = 3 then chkView e sl.task.ctx p a n else some 4
    let ss := spaceOf src
    let ds := spaceOf dst
    let pairOk := (ss = 0 ∧ (ds = 0 ∨ ds = 2 ∨ ds = 3)) ∨ (ds = 0 ∧ (ss = 2 ∨ ss = 3))
    chkMin (chkMin (side .r src) (side .w dst)) (if pairOk then none else some 4)

/-- CPY (R105). DEDUCED, log entry 4. -/
def insCpy (e : Env) (o : TInsn) (t : Tile) : Tile :=
  let i := immN o
  let n := sGet t (regNo o.rs2) % 2 ^ 16
  let src := aGet t (regNo o.rs1)
  let dst := aGet t (regNo o.rd)
  let add := bitOf i 29
  issueWith 3 (fun _ _ _ => [regNo o.rs2])
    (fun sl _ => firstTrap [moveEnc o, if n ≠ 0 ∧ add ∧ spaceOf dst ≠ 0 then some 7 else none, moveFmt o,
      cpyAddr e sl src dst n])
    (fun k sl t =>
      let tid := stepTid (BitVec.ofNat 20 i) sl.task.step
      let rd : List Rng := if spaceOf src = 0 ∧ n ≠ 0 then [⟨offOf src, 64 * n⟩] else []
      let wr : List Rng := if spaceOf dst = 0 ∧ n ≠ 0 then [⟨offOf dst, 64 * n⟩] else []
      enqueue 3 k sl (.cpy (spaceOf src) (offOf src) (spaceOf dst) (offOf dst) n add (bits i 33 30) (bits i 27 24) tid)
        (rd ++ (if add then wr else [])) wr 1 [] t) t

/-- The address checks of SEND and MCAST (R81, R106): source local, destination in the sheaf, no line's destination offset
beyond bits [17:0]. DEDUCED, log entry 4. -/
def sendAddr (sl : Slot) (t : Tile) (src dst n span : Nat) (dirY : Bool) : Option Nat :=
  if n = 0 then none
  else
    let d : Option Nat :=
      if spaceOf dst = 1 ∧ offOf dst % 64 ≠ 0 then some 1
      else chkMin (chkSheaf t dst span dirY) (if offOf dst % 2 ^ 18 + 64 * n ≤ 2 ^ 18 then none else some 4)
    chkMin (chkLocal sl.task.wins .r src 64 n) d

def sendKind (o : TInsn) (src dst n rk span : Nat) (sl : Slot) : UKind :=
  let i := immN o
  .send (offOf src) (bits (offOf dst) 39 32) (bits (offOf dst) 31 24) (offOf dst % 2 ^ 18) n rk span (bitOf i 29)
    (bitOf i 28) (bits i 33 30) (bits i 27 24) (stepTid (BitVec.ofNat 20 i) sl.task.step)

/-- SEND (R106). -/
def insSend (o : TInsn) (t : Tile) : Tile :=
  let n := sGet t (regNo o.rs2) % 2 ^ 16
  let src := aGet t (regNo o.rs1)
  let dst := aGet t (regNo o.rd)
  issueWith 3 (fun _ _ _ => [regNo o.rs2])
    (fun sl t => firstTrap [moveEnc o, moveFmt o, sendAddr sl t src dst n 0 false])
    (fun k sl t => enqueue 3 k sl (sendKind o src dst n 0 0 sl) (if n ≠ 0 then [⟨offOf src, 64 * n⟩] else []) [] 1 [] t) t

/-- MCAST (R106): a run of S(rs2)[23:16] + 1 tiles along +x or +y; S(rs2)[31:25] must be 0. -/
def insMcast (o : TInsn) (t : Tile) : Tile :=
  let s2 := sGet t (regNo o.rs2)
  let n := s2 % 2 ^ 16
  let span := bits s2 23 16
  let dirY := bitOf s2 24
  let src := aGet t (regNo o.rs1)
  let dst := aGet t (regNo o.rd)
  issueWith 3 (fun _ _ _ => [regNo o.rs2])
    (fun sl t => firstTrap [moveEnc o, need (decide (bits s2 31 25 = 0)), moveFmt o, sendAddr sl t src dst n span dirY])
    (fun k sl t => enqueue 3 k sl (sendKind o src dst n (if dirY then 2 else 1) span sl)
      (if n ≠ 0 then [⟨offOf src, 64 * n⟩] else []) [] 1 [] t) t

/-- RECV (R107). -/
def insRecv (o : TInsn) (t : Tile) : Tile :=
  let n := sGet t (regNo o.rs2) % 2 ^ 16
  let dst := aGet t (regNo o.rd)
  issueWith 3 (fun _ _ _ => [regNo o.rs2])
    (fun sl _ => firstTrap [
      need (isA o.rd && o.rs1 == 0 && isS o.rs2 && decide (immN o < 2 ^ 20)),
      chkLocal sl.task.wins .w dst 64 n])
    (fun k sl t => enqueue 3 k sl (.recv (offOf dst) n (stepTid (BitVec.ofNat 20 (immN o)) sl.task.step)) []
      (if n ≠ 0 then [⟨offOf dst, 64 * n⟩] else []) 1 [] t) t

/-- The footprint of a SWREAD's destination (R275, R121): runs of lines as (offset from A(rd), lines). -/
def swFootprint (n fmt : Nat) (t : Bool) (kb v0 : Nat) : List (Nat × Nat) :=
  let v := n / (kb + 1)
  let kdst := if t then v else 32 * (kb + 1)
  let first := if t then 0 else v0
  let cnt := if t then 32 * (kb + 1) else v
  let p := rowLines (elemBits fmt) kdst
  let ps := scaleLines kdst
  (64 * p * first, p * cnt) :: (if 5 ≤ fmt then [(4096 * p + 64 * ps * first, ps * cnt)] else [])

/-- The view check of a SWREAD's stream lines (R81, R271): those of the stream format of the block table entry that the request meets;
where none is met, and the request will be discarded (R276), those that the narrower format would take. DEDUCED, log entry 4. -/
def chkStream (e : Env) (ctx : BitVec 8) (tid : BitVec 20) (a n : Nat) : Option Nat :=
  if offOf a % 64 ≠ 0 then some 1
  else if (streamLines ((rangeFmt e ctx tid (offOf a)).getD 5) n).all (fun i => leased e ctx (offOf a + 64 * i)) then none
  else some 4

/-- SWREAD (R108, R275). -/
def insSwread (e : Env) (o : TInsn) (t : Tile) : Tile :=
  let i := immN o
  let s2 := sGet t (regNo o.rs2)
  let n := s2 % 2 ^ 16
  let kb := bits s2 22 16
  let v0 := bits s2 28 23
  let v := n / (kb + 1)
  let tr := bitOf i 29
  let fmt := bits i 33 30
  let rm := bits i 28 27
  let src := aGet t (regNo o.rs1)
  let dst := aGet t (regNo o.rd)
  let runs := swFootprint n fmt tr kb v0
  issueWith 3 (fun _ _ _ => [regNo o.rs2])
    (fun sl _ => firstTrap [
      need (isA o.rd && isA o.rs1 && isS o.rs2 && decide (bits i 26 20 = 0 ∧ rm ≠ 2 ∧ bits s2 31 29 = 0 ∧
        n % (kb + 1) = 0 ∧ v0 + v ≤ 64) && (!tr || decide (kb ≤ 1 ∧ (v = 32 ∨ v = 64) ∧ v0 = 0))),
      needFmt (decide (1 ≤ fmt ∧ fmt ≤ 7)),
      if n = 0 then none
      else chkMin
        (runs.foldl (fun acc r => chkMin acc (chkLocal sl.task.wins .w (dst + r.1) 64 r.2)) none)
        (if spaceOf src ≠ 3 then some 4
          else chkStream e sl.task.ctx (stepTid (BitVec.ofNat 20 i) sl.task.step) src n)])
    (fun k sl t => enqueue 3 k sl
      (.swread (offOf src) (offOf dst) n fmt tr rm kb v0 (stepTid (BitVec.ofNat 20 i) sl.task.step)) []
      (if n = 0 then [] else runs.map (fun r => ⟨offOf dst + r.1, 64 * r.2⟩)) 1 [] t) t

/-! ### Start and completion -/

/-- The next SEQ of a task under a TID, and the task with it counted (R186). -/
def nextSeq (sl : Slot) (tid : BitVec 20) : Nat := tabGet sl.seqs tid.toNat 0
def bumpSeq (tid : BitVec 20) (sl : Slot) : Slot := { sl with seqs := tabMod sl.seqs tid.toNat 0 (fun n => (n + 1) % 2 ^ 16) }

/-- A packet that a unit instruction forms (R61, R186, R187). -/
def mkPkt (e : Env) (t : Tile) (o : UOp) (rk : Nat) (add tok : Bool) (psn : Bool) (cls seq fmt : Nat) (tid : BitVec 20)
    (span line dy dx : Nat) (data : Line) (body : PBody) : Pkt :=
  { rk := rk, add := add, tok := tok, hop := 0, epoch := epochOf t o.sec, psn := psn, cls := cls, seq := seq, fmt := fmt,
    tid := tid, ctx := o.ctx, span := span, slot := o.slot, rsv := 0, line := line, dstY := dy, dstX := dx,
    srcY := ixY e.me, srcX := ixX e.me, data := data, body := body }

/-- Where a request for an HBM or swath view offset goes: the attachment tile of edge link (o >> 6) mod 8 of the stack's
Saddle die (R262), or the first port tile of the port die (R270). -/
def viewTarget (e : Env) (ctx : BitVec 8) (sp o : Nat) : Nat × Nat :=
  if sp = 2 then attachTile e.w (viewDecode (tabGet e.parts ctx.toNat (0, 0)) o).1 ((o >>> 6) % 8)
  else portTile e.w (bits o 30 25)

/-- One line sent by SEND or MCAST. -/
def sendLine (e : Env) (o : UOp) (src dx dy dst rk span : Nat) (add tok : Bool) (cls fmt : Nat) (tid : BitVec 20)
    (t : Tile) (i : Nat) : Tile :=
  let a := src + 64 * i
  let seq := match tabFind t.slots o.slot with
    | some sl => nextSeq sl tid
    | none => 0
  let p := mkPkt e t o rk add tok (sramPoisoned t a 64) cls seq fmt tid span ((dst + 64 * i) / 64) dy dx
    (memLine t.sram a) .line
  inject (slotUpd (sramTouch e a 64 t) o.slot (fun sl => { bumpSeq tid sl with owed := sl.owed + (span + 1) })) p

/-- One line written by CPY to an HBM or swath view. -/
def cpyOutLine (e : Env) (o : UOp) (sp src dst cls fmt : Nat) (tid : BitVec 20) (t : Tile) (i : Nat) : Tile :=
  let a := src + 64 * i
  let d := viewTarget e o.ctx sp (dst + 64 * i)
  let seq := match tabFind t.slots o.slot with
    | some sl => nextSeq sl tid
    | none => 0
  let p := mkPkt e t o 0 false false (sramPoisoned t a 64) cls seq fmt tid 0 0 d.2 d.1
    (memLine t.sram a) (.write sp (dst + 64 * i))
  inject (slotUpd (sramTouch e a 64 t) o.slot (fun sl => { bumpSeq tid sl with hbmOwed := sl.hbmOwed + 1 })) p

/-- One read request of CPY from an HBM or swath view; the answer returns on the class CPY named (R262). -/
def cpyInReq (e : Env) (o : UOp) (sp src cls fmt : Nat) (tid : BitVec 20) (t : Tile) (i : Nat) : Tile :=
  let d := viewTarget e o.ctx sp (src + 64 * i)
  let seq := match tabFind t.slots o.slot with
    | some sl => nextSeq sl tid
    | none => 0
  let p := mkPkt e t o 0 false false false 1 seq fmt tid 0 0 d.2 d.1 0 (.readReq sp (src + 64 * i) o.no i cls)
  inject (slotUpd t o.slot (bumpSeq tid)) p

/-- A wait on a receive counter begins: an existing counter stops counting arrivals as late (R111), also where the count is there
already and the wait ends at once. DEDUCED, log entry 16. -/
def rxBegin (t : Tile) (c : BitVec 8) (tid : BitVec 20) : Tile :=
  rxUpd t c tid (fun r => { r with late := false, lateWatch := false })

/-- RECV reaches the head of the copy queue (R107): trap on an overflowed counter, done where the count is there, else it
waits and the engine goes on. -/
def recvStart (o : UOp) (n : Nat) (tid : BitVec 20) (t : Tile) : Tile :=
  match rxFind t o.ctx tid with
  | some r =>
    if r.ovf then trapSlot o.slot 3 o.pc 3 t
    else
      let t := rxBegin t o.ctx tid
      if r.count ≥ n then rxTidy (rxUpd t o.ctx tid (fun r => { r with count := r.count - n }))
      else { t with recvs := t.recvs ++ [⟨o, n, tid, true⟩] }
  | none =>
    if n = 0 then t
    else rxTidy { t with recvs := t.recvs ++ [⟨o, n, tid, false⟩] }

/-- UNIT_INSTRUCTION_START of the copy engine. -/
def copyStart (e : Env) (t : Tile) : Tile :=
  match t.cpyQ with
  | [] => t
  | o :: rest =>
    if t.cpy.isSome then t
    else
      let t' := { t with cpyQ := rest }
      match o.kind with
      | .recv _ n tid => recvStart o n tid t'
      | .cpy ss src ds dst n _ cls fmt tid =>
        if n = 0 then t'
        else if !rangesClear t o then t
        else if !banksOwned t o.sec (o.rds ++ o.wrs) then trapSlot o.slot 6 o.pc 3 t'
        else if ds = 2 ∨ ds = 3 then
          { (List.range n).foldl (cpyOutLine e o ds src dst cls fmt tid) t' with cpy := some o }
        else if ss = 2 ∨ ss = 3 then
          { (List.range n).foldl (cpyInReq e o ss src cls fmt tid) t' with cpy := some { o with left := n } }
        else { t' with cpy := some o }
      | .send src dx dy dst n rk span add tok cls fmt tid =>
        if n = 0 then t'
        else if !rangesClear t o then t
        else if !banksOwned t o.sec o.rds then trapSlot o.slot 6 o.pc 3 t'
        else { (List.range n).foldl (sendLine e o src dx dy dst rk span add tok cls fmt tid) t' with cpy := some o }
      | .swread src _ n fmt tr rm kb v0 tid =>
        if n = 0 then t'
        else if !rangesClear t o then t
        else if !banksOwned t o.sec o.wrs then trapSlot o.slot 6 o.pc 3 t'
        else
          let d := viewTarget e o.ctx 3 src
          let seq := match tabFind t.slots o.slot with
            | some sl => nextSeq sl tid
            | none => 0
          let r : SwReq := ⟨e.me, o.slot, o.no, o.ctx, tid, src, n, fmt, tr, rm, kb, v0⟩
          let p := mkPkt e t o 0 false false false 1 seq fmt tid 0 0 d.2 d.1 0 (.swReq r)
          { inject (slotUpd t' o.slot (bumpSeq tid)) p with
              cpy := some { o with left := ((swFootprint n fmt tr kb v0).map (·.2)).sum } }
      | _ => t'

/-- One line of a local CPY (R105): lines move in order, so a later line sees the earlier ones. -/
def cpyLocalLine (e : Env) (src dst : Nat) (add : Bool) (t : Tile) (i : Nat) : Tile :=
  let a := src + 64 * i
  let v := sramGet t a 64
  let psn := sramPoisoned t a 64
  let t := sramTouch e a 64 t
  let t := if add then sramAdd e (dst + 64 * i) v t else sramPut e (dst + 64 * i) 64 v t
  if psn then sramPoison (dst + 64 * i) t else t

/-- UNIT_INSTRUCTION_COMPLETE of the copy engine: a local CPY moves its lines; the others complete once nothing they wait
for is outstanding. -/
def copyComplete (e : Env) (t : Tile) : Tile :=
  match t.cpy with
  | none => t
  | some o =>
    if o.left ≠ 0 then t
    else
      let t := { t with cpy := none }
      match o.kind with
      | .cpy 0 src 0 dst n add _ _ _ => tryLoad ((List.range n).foldl (cpyLocalLine e src dst add) t)
      | _ => tryLoad t

/-- RECV_SATISFIED: the n-th pending RECV of the tile, counted from 0 in program order, finds its count (R107). -/
def recvSatisfied (i : Nat) (t : Tile) : Tile :=
  match t.recvs[i]? with
  | none => t
  | some w =>
    if !w.alloc then t
    else match rxFind t w.op.ctx w.tid with
      | some r =>
        if r.count ≥ w.n then
          rxTidy { rxUpd t w.op.ctx w.tid (fun r => { r with count := r.count - w.n }) with recvs := t.recvs.eraseIdx i }
        else t
      | none => t

end Sys2Proof.Machine
end

