-- ==== Sys2Proof/Machine/Scalar.lean ====
section
/-! DEFINITION. The scalar, control, load and store, CSR and address instructions (R100 to R103), each as its effect on
the tile that issues it. -/
namespace Sys2Proof.Machine

/-- Encoding checks of ADD to MUL (R100): destination and sources in the s file; the immediate form uses IMM[31:0], the
register form RS2. -/
def aluBad (o : TInsn) : Option Nat :=
  need (isS o.rd && isS o.rs1 &&
    (if bitOf (immN o) 33 then o.rs2 == 0 && !bitOf (immN o) 32 else isS o.rs2 && o.imm == 0))

/-- Source 2 of ADD to MUL. -/
def aluSrc2 (o : TInsn) (t : Tile) : Nat :=
  if bitOf (immN o) 33 then immN o % 2 ^ 32 else sGet t (regNo o.rs2)

def aluRegs (o : TInsn) : List Nat :=
  if bitOf (immN o) 33 then [regNo o.rd, regNo o.rs1] else [regNo o.rd, regNo o.rs1, regNo o.rs2]

/-- The shape of ADD to MUL. -/
def aluIns (f : Nat → Nat → Nat) (o : TInsn) (t : Tile) : Tile :=
  issueWith 0 (fun _ _ _ => aluRegs o) (fun _ _ => aluBad o)
    (fun _ _ t => advance (sSet t (regNo o.rd) (f (sGet t (regNo o.rs1)) (aluSrc2 o t)))) t

def aluAdd (x y : Nat) : Nat := (x + y) % 2 ^ 32
def aluSub (x y : Nat) : Nat := (2 ^ 32 + x - y) % 2 ^ 32
def aluAnd (x y : Nat) : Nat := x &&& y
def aluOr (x y : Nat) : Nat := x ||| y
def aluXor (x y : Nat) : Nat := x ^^^ y
def aluShl (x y : Nat) : Nat := (x <<< (y % 32)) % 2 ^ 32
def aluShr (x y : Nat) : Nat := x >>> (y % 32)
def aluSra (x y : Nat) : Nat := toField (sextN x 32 / 2 ^ (y % 32)) 32
def aluMul (x y : Nat) : Nat := (x * y) % 2 ^ 32

def insAdd (o : TInsn) (t : Tile) : Tile := aluIns aluAdd o t
def insSub (o : TInsn) (t : Tile) : Tile := aluIns aluSub o t
def insAnd (o : TInsn) (t : Tile) : Tile := aluIns aluAnd o t
def insOr (o : TInsn) (t : Tile) : Tile := aluIns aluOr o t
def insXor (o : TInsn) (t : Tile) : Tile := aluIns aluXor o t
def insShl (o : TInsn) (t : Tile) : Tile := aluIns aluShl o t
def insShr (o : TInsn) (t : Tile) : Tile := aluIns aluShr o t
def insSra (o : TInsn) (t : Tile) : Tile := aluIns aluSra o t
def insMul (o : TInsn) (t : Tile) : Tile := aluIns aluMul o t

/-- The condition of CMP (R100). -/
def cmpCond (c x y : Nat) : Bool :=
  if c = 0 then x == y
  else if c = 1 then x != y
  else if c = 2 then decide (sextN x 32 < sextN y 32)
  else if c = 3 then decide (sextN x 32 ≥ sextN y 32)
  else if c = 4 then decide (x < y)
  else decide (x ≥ y)

/-- CMP: 1 or 0 into S(rd); condition codes 0x6 to 0xF and IMM[33:4] are reserved. -/
def insCmp (o : TInsn) (t : Tile) : Tile :=
  issueWith 0 (fun _ _ _ => [regNo o.rd, regNo o.rs1, regNo o.rs2])
    (fun _ _ => need (isS o.rd && isS o.rs1 && isS o.rs2 && decide (immN o < 6)))
    (fun _ _ t => advance (sSet t (regNo o.rd)
      (if cmpCond (immN o) (sGet t (regNo o.rs1)) (sGet t (regNo o.rs2)) then 1 else 0))) t

/-- LI: a 32-bit immediate into a scalar register, or zero-extended into an address register. -/
def insLi (o : TInsn) (t : Tile) : Tile :=
  issueWith 0 (fun _ _ _ => if isS o.rd then [regNo o.rd] else [])
    (fun _ _ => need (!isV o.rd && o.rs1 == 0 && o.rs2 == 0 && decide (immN o < 2 ^ 32)))
    (fun _ _ t => advance (if isS o.rd then sSet t (regNo o.rd) (immN o) else aSet t (regNo o.rd) (immN o))) t

/-- LUI: bits [31:16] of a scalar register, or bits [47:32] of an address register, the rest kept. -/
def insLui (o : TInsn) (t : Tile) : Tile :=
  issueWith 0 (fun _ _ _ => if isS o.rd then [regNo o.rd] else [])
    (fun _ _ => need (!isV o.rd && o.rs1 == 0 && o.rs2 == 0 && decide (immN o < 2 ^ 16)))
    (fun _ _ t => advance
      (if isS o.rd then sSet t (regNo o.rd) (2 ^ 16 * immN o + sGet t (regNo o.rd) % 2 ^ 16)
       else aSet t (regNo o.rd) (2 ^ 32 * immN o + aGet t (regNo o.rd) % 2 ^ 32))) t

/-- PC + 8 * sext(imm[19:0]) modulo 2^18 (R101). -/
def relTarget (o : TInsn) (t : Tile) : Nat :=
  ((((t.pc.toNat : Nat) : Int) + 8 * sextN (immN o) 20) % ((2 ^ 18 : Nat) : Int)).toNat

/-- BR: branches if S(rs1) is non-zero (IMM[33] = 1) or zero (IMM[33] = 0). -/
def insBr (o : TInsn) (t : Tile) : Tile :=
  issueWith 0 (fun _ _ _ => [regNo o.rs1])
    (fun _ _ => need (o.rd == 0 && isS o.rs1 && o.rs2 == 0 && decide (bits (immN o) 32 20 = 0)))
    (fun k sl t =>
      if (sGet t (regNo o.rs1) != 0) == bitOf (immN o) 33 then jumpTo k sl (relTarget o t) t else advance t) t

/-- J: to a register's offset (IMM[32] = 1) or PC-relative. R101 lists IMM[32], IMM[19:0] and RS1 as used by J, so neither form
reserves the field of the other (DEDUCED, log entry 4). -/
def insJ (o : TInsn) (t : Tile) : Tile :=
  issueWith 0 (fun _ _ _ => if bitOf (immN o) 32 then [regNo o.rs1] else [])
    (fun _ _ => need (o.rd == 0 && o.rs2 == 0 && isS o.rs1 && !bitOf (immN o) 33 && decide (bits (immN o) 31 20 = 0)))
    (fun k sl t => jumpTo k sl (if bitOf (immN o) 32 then sGet t (regNo o.rs1) else relTarget o t) t) t

/-- CALL: PC + 8 into s31, then a PC-relative jump. -/
def insCall (o : TInsn) (t : Tile) : Tile :=
  issueWith 0 (fun _ _ _ => [31])
    (fun _ _ => need (o.rd == 0 && o.rs1 == 0 && o.rs2 == 0 && decide (immN o < 2 ^ 20)))
    (fun k sl t => jumpTo k sl (relTarget o t) (sSet t 31 ((t.pc.toNat + 8) % 2 ^ 18))) t

/-- RET: to the offset in s31. -/
def insRet (o : TInsn) (t : Tile) : Tile :=
  issueWith 0 (fun _ _ _ => [31])
    (fun _ _ => need (o.rd == 0 && o.rs1 == 0 && o.rs2 == 0 && o.imm == 0))
    (fun k sl t => jumpTo k sl (sGet t 31) t) t

/-- The effective address A(rs1) with sext(imm[17:0]) added to its offset, SPACE kept (R102, R131). -/
def effAddr (o : TInsn) (t : Tile) : Nat :=
  let a := aGet t (regNo o.rs1)
  2 ^ 44 * spaceOf a + ((((offOf a : Nat) : Int) + sextN (immN o) 18) % ((2 ^ 44 : Nat) : Int)).toNat

/-- The address checks of LDS and STS: SPACE 0x0, a multiple of 4, inside a window with the permission (R81, R102); then
bank ownership (R58). -/
def wordBad (t : Tile) (sl : Slot) (p : Perm) (ea : Nat) : Option Nat :=
  firstTrap [
    if spaceOf ea = 0 ∧ offOf ea < 0x30000 ∧ offOf ea % 4 = 0 ∧ inWindow sl.task.wins p (offOf ea) 4 then none else some 1,
    if banksOwned t sl.task.sec [⟨offOf ea, 4⟩] then none else some 6]

/-- LDS: one 32-bit word of tile-local SRAM, after the pending writes of its line (R38). -/
def insLds (e : Env) (o : TInsn) (t : Tile) : Tile :=
  issueWith 0 (fun _ _ _ => [regNo o.rd])
    (fun sl t => firstTrap [need (isS o.rd && isA o.rs1 && o.rs2 == 0 && decide (immN o < 2 ^ 18)),
      wordBad t sl .r (effAddr o t)])
    (fun _ _ t =>
      let a := offOf (effAddr o t)
      if (pendingOps t).any (conflicts [⟨a, 4⟩] []) then t
      else advance (sSet (sramTouch e a 4 t) (regNo o.rd) (sramGet t a 4))) t

/-- STS: one 32-bit word to tile-local SRAM, by read-modify-write of its ECC word (R56). -/
def insSts (e : Env) (o : TInsn) (t : Tile) : Tile :=
  issueWith 0 (fun _ _ _ => [regNo o.rs2])
    (fun sl t => firstTrap [need (o.rd == 0 && isA o.rs1 && isS o.rs2 && decide (immN o < 2 ^ 18)),
      wordBad t sl .w (effAddr o t)])
    (fun _ _ t =>
      let a := offOf (effAddr o t)
      if (pendingOps t).any (conflicts [] [⟨a, 4⟩]) then t
      else advance (sramPut e a 4 (sGet t (regNo o.rs2)) t)) t

/-! ### Tile CSRs (R73 to R78) -/

/-- The listed CSR numbers (R73). -/
def csrListed (n : Nat) : Bool :=
  [0x001, 0x002, 0x003, 0x004, 0x010, 0x011, 0x020, 0x021, 0x030, 0x031, 0x032].contains n

def flagBit (b : Bool) (i : Nat) : Nat := if b then 2 ^ i else 0

/-- ACCSTAT (R76). -/
def accstat (t : Tile) : Nat :=
  flagBit t.accB.nf 7 + flagBit t.accB.sat 6 + flagBit t.accA.nf 5 + flagBit t.accA.sat 4 + 4 * t.accB.own + t.accA.own

def bitSum (l : List Nat) : Nat := (l.map (2 ^ ·)).sum

/-- The value a CSRR returns, for every listed CSR. -/
def csrValue (e : Env) (t : Tile) (n : Nat) : Nat :=
  if n = 0x001 then ixY e.me * 256 + ixX e.me
  else if n = 0x002 then (if t.inSheaf then t.orgY * 256 + t.orgX else 0)
  else if n = 0x003 then (if t.inSheaf then 2 ^ 16 * t.dimH + t.dimW else 0)
  else if n = 0x004 then
    (match t.running.bind (tabFind t.slots) with
     | some sl => sl.task.ctx.toNat * 256 + sl.task.queue * 2 + (if sl.task.sec then 1 else 0)
     | none => 0)
  else if n = 0x010 then cycleNow e t % 2 ^ 32
  else if n = 0x011 then t.cycHi
  else if n = 0x020 then t.runlen
  else if n = 0x021 then accstat t
  else if n = 0x030 then (t.sramOwn.map (fun p => p.2 * 4 ^ p.1)).sum
  else if n = 0x031 then 2 ^ 16 * bitSum t.sramNf + bitSum t.sramSat
  else t.eccCnt

/-- The side effect of a CSRR: reading CYCLE_LO latches bits [47:32] (R36). -/
def csrReadEff (e : Env) (n : Nat) (t : Tile) : Tile :=
  if n = 0x010 then { t with cycHi := cycleNow e t / 2 ^ 32 } else t

/-- A write of ACCSTAT: 1 clears a flag (RW1C). -/
def accstatWrite (v : Nat) (t : Tile) : Tile :=
  { t with accA := { t.accA with sat := t.accA.sat && !bitOf v 4, nf := t.accA.nf && !bitOf v 5 }
           accB := { t.accB with sat := t.accB.sat && !bitOf v 6, nf := t.accB.nf && !bitOf v 7 } }

/-- A CSRW, per field access (R7): ARRCFG.RUNLEN stores, the flags of ACCSTAT and SRAMSTAT clear on 1, the rest is RO. -/
def csrWrite (n v : Nat) (t : Tile) : Tile :=
  if n = 0x020 then { t with runlen := v % 256 }
  else if n = 0x021 then accstatWrite v t
  else if n = 0x031 then
    { t with sramSat := t.sramSat.filter (fun b => !bitOf v b), sramNf := t.sramNf.filter (fun b => !bitOf v (16 + b)) }
  else t

/-- Has every array instruction issued earlier completed (R120)? -/
def arrayIdle (t : Tile) : Bool := t.arrQ.isEmpty && t.prod.isNone && t.port.isNone

/-- CSRR (R102). A read of ACCSTAT waits for the array (R120). -/
def insCsrr (e : Env) (o : TInsn) (t : Tile) : Tile :=
  issueWith 0 (fun _ _ _ => [regNo o.rd])
    (fun _ _ => need (isS o.rd && o.rs1 == 0 && o.rs2 == 0 && decide (immN o < 2 ^ 12) && csrListed (immN o)))
    (fun _ _ t =>
      if immN o = 0x021 ∧ !arrayIdle t then { advance t with stall := some (.accRead (regNo o.rd)) }
      else advance (csrReadEff e (immN o) (sSet t (regNo o.rd) (csrValue e t (immN o))))) t

/-- CSRW (R102). A write of ACCSTAT waits for the array (R120). -/
def insCsrw (o : TInsn) (t : Tile) : Tile :=
  issueWith 0 (fun _ _ _ => [regNo o.rs1])
    (fun _ _ => need (o.rd == 0 && isS o.rs1 && o.rs2 == 0 && decide (immN o < 2 ^ 12) && csrListed (immN o)))
    (fun _ _ t =>
      let v := sGet t (regNo o.rs1)
      if immN o = 0x021 ∧ !arrayIdle t then { advance t with stall := some (.accWrite (BitVec.ofNat 32 v)) }
      else advance (csrWrite (immN o) v t)) t

/-- A CSRR of CYCLE_LO into S(rd) (R36). -/
def insCycleLo (e : Env) (tile : Nat) (rd : BitVec 6) (t : Tile) : Tile := insCsrr e ⟨tile, rd, 0, 0, 0x010⟩ t

/-- The waiting CSRR or CSRW of ACCSTAT acts once the array is idle (R120). -/
def accstatAccess (t : Tile) : Tile :=
  if arrayIdle t then
    match t.stall with
    | some (.accRead rd) => { sSet t rd (accstat t) with stall := none }
    | some (.accWrite v) => { accstatWrite v.toNat t with stall := none }
    | _ => t
  else t

/-- AGEN (R103): SPACE of A(rs1), offset plus S(rs2) << SCALE plus a 30-bit signed offset, modulo 2^44. -/
def insAgen (o : TInsn) (t : Tile) : Tile :=
  issueWith 0 (fun _ _ _ => [regNo o.rs2])
    (fun _ _ => need (isA o.rd && isA o.rs1 && isS o.rs2))
    (fun _ _ t =>
      let a := aGet t (regNo o.rs1)
      let off : Int := ((offOf a + (sGet t (regNo o.rs2) <<< bits (immN o) 33 30) : Nat) : Int) + sextN (immN o) 30
      advance (aSet t (regNo o.rd) (2 ^ 44 * spaceOf a + toField off 44))) t

/-- AINC (R103): a 24-bit signed step, within an aligned ring of 2^WRAP bytes where WRAP is not 0. -/
def insAinc (o : TInsn) (t : Tile) : Tile :=
  issueWith 0 (fun _ _ _ => [])
    (fun _ _ => need (isA o.rd && o.rs1 == 0 && o.rs2 == 0 && decide (bits (immN o) 33 28 ≤ 44)
      && decide (bits (immN o) 27 24 = 0)))
    (fun _ _ t =>
      let a := aGet t (regNo o.rd)
      let w := if bits (immN o) 33 28 = 0 then 44 else bits (immN o) 33 28
      let low := toField (((a % 2 ^ w : Nat) : Int) + sextN (immN o) 24) w
      advance (aSet t (regNo o.rd) (a - a % 2 ^ w + low))) t

end Sys2Proof.Machine
end

