-- ==== Sys2Proof/Machine/Vector.lean ====
section
/-! DEFINITION. The vector, conversion, Winnow-integer and health instructions (R131 to R146): checks at issue, start,
and effects at completion. -/
namespace Sys2Proof.Machine

/-- A column read (R52): N = 64 / E elements of E bytes at one byte offset of lines l0, l0 + S, … of one bank. -/
def columnRead (t : Tile) (ea esz stride : Nat) : Nat :=
  ofElems (8 * esz) ((List.range (64 / esz)).map (fun n => sramGet t (ea + 64 * stride * n) esz))

/-- The address check of a column read (R52, R81): alignment to E, lines within the bank, each whole line readable. -/
def colBad (wins : List Window) (a esz stride : Nat) : Option Nat :=
  let o := offOf a
  let n := 64 / esz
  if spaceOf a ≠ 0 ∨ o ≥ 0x30000 ∨ o % esz ≠ 0 ∨ (o / 64) % 256 + (n - 1) * stride > 255 then some 1
  else if (List.range n).all (fun i => inWindow wins .r (o / 64 * 64 + 64 * stride * i) 64) then none else some 1

/-- VLD (R131). -/
def insVld (o : TInsn) (t : Tile) : Tile :=
  let i := immN o
  let col := bitOf i 33
  let es := bits i 32 31
  let esz := 2 ^ es
  let stride := 2 ^ bits i 30 29
  let ea := effAddr o t
  issueWith 2 (fun _ _ _ => [])
    (fun sl _ => firstTrap [
      need (isV o.rd && isA o.rs1 && o.rs2 == 0 && decide (bits i 28 18 = 0) &&
        (if col then decide (es ≠ 3) else decide (bits i 32 29 = 0))),
      if col then colBad sl.task.wins ea esz stride else chkLocal sl.task.wins .r ea 64 1])
    (fun k sl t => enqueue 2 k sl (.vld (regNo o.rd) col esz stride (offOf ea))
      [if col then ⟨offOf ea / 64 * 64, 64 * ((64 / esz - 1) * stride + 1)⟩ else ⟨offOf ea, 64⟩] [] 1 [] t) t

/-- VST (R131). -/
def insVst (o : TInsn) (t : Tile) : Tile :=
  let i := immN o
  let add := bitOf i 33
  let ea := effAddr o t
  issueWith 2 (fun _ _ _ => [])
    (fun sl _ => firstTrap [
      need (o.rd == 0 && isA o.rs1 && isV o.rs2 && decide (bits i 32 18 = 0)),
      chkLocal sl.task.wins .w ea 64 1])
    (fun k sl t => enqueue 2 k sl (.vst (regNo o.rs2) add (offOf ea))
      (if add then [⟨offOf ea, 64⟩] else []) [⟨offOf ea, 64⟩] 1 [] t) t

/-- The shape of the register-only vector instructions. -/
def vecIns (ok : Bool) (fmtOk : Bool) (kind : UKind) (sregs : List Nat) (t : Tile) : Tile :=
  issueWith 2 (fun _ _ _ => sregs) (fun _ _ => firstTrap [need ok, needFmt fmtOk])
    (fun k sl t => enqueue 2 k sl kind [] [] 0 sregs t) t

def vvv (o : TInsn) : Bool := isV o.rd && isV o.rs1 && isV o.rs2
def vv (o : TInsn) : Bool := isV o.rd && isV o.rs1 && o.rs2 == 0

/-- VADD.F32, VMUL.F32, VFMA.F32 (R132): RM 0b10 is reserved. -/
def insVadd (o : TInsn) (t : Tile) : Tile :=
  vecIns (vvv o && decide (immN o < 4 ∧ immN o ≠ 2)) true
    (.vadd (regNo o.rd) (regNo o.rs1) (regNo o.rs2) (immN o)) [] t
def insVmul (o : TInsn) (t : Tile) : Tile :=
  vecIns (vvv o && decide (immN o < 4 ∧ immN o ≠ 2)) true
    (.vmul (regNo o.rd) (regNo o.rs1) (regNo o.rs2) (immN o)) [] t
def insVfma (o : TInsn) (t : Tile) : Tile :=
  vecIns (vvv o && decide (immN o < 4 ∧ immN o ≠ 2)) true
    (.vfma (regNo o.rd) (regNo o.rs1) (regNo o.rs2) (immN o)) [] t
/-- VMAX (R133). -/
def insVmax (o : TInsn) (t : Tile) : Tile :=
  vecIns (vvv o && decide (immN o < 2)) true
    (.vmax (regNo o.rd) (regNo o.rs1) (regNo o.rs2) (bitOf (immN o) 0)) [] t
/-- VEXP, VRCP, VRSQ (R136, R137). -/
def insVexp (o : TInsn) (t : Tile) : Tile := vecIns (vv o && o.imm == 0) true (.vexp (regNo o.rd) (regNo o.rs1)) [] t
def insVrcp (o : TInsn) (t : Tile) : Tile := vecIns (vv o && o.imm == 0) true (.vrcp (regNo o.rd) (regNo o.rs1)) [] t
def insVrsq (o : TInsn) (t : Tile) : Tile := vecIns (vv o && o.imm == 0) true (.vrsq (regNo o.rd) (regNo o.rs1)) [] t
/-- VDERIV (R138). -/
def insVderiv (o : TInsn) (t : Tile) : Tile :=
  vecIns (vvv o && decide (immN o < 4)) true (.vderiv (regNo o.rd) (regNo o.rs1) (regNo o.rs2) (immN o)) [] t
/-- VRED (R134): writes a scalar register. -/
def insVred (o : TInsn) (t : Tile) : Tile :=
  vecIns (isS o.rd && isV o.rs1 && o.rs2 == 0 && decide (immN o < 3)) true
    (.vred (regNo o.rd) (regNo o.rs1) (immN o)) [regNo o.rd] t
/-- VIADD.W (R145): sets ESC in a scalar register. -/
def insViadd (o : TInsn) (t : Tile) : Tile :=
  vecIns (vvv o && decide (immN o < 2 ^ 8 ∧ bits (immN o) 1 0 ≠ 3)) true
    (.viadd (regNo o.rd) (regNo o.rs1) (regNo o.rs2) (bits (immN o) 1 0) (bitOf (immN o) 2) (bits (immN o) 7 3))
    [bits (immN o) 7 3] t
/-- VSTAT (R146). -/
def insVstat (o : TInsn) (t : Tile) : Tile :=
  vecIns (vv o && decide (immN o < 2 ^ 9)) (decide (bits (immN o) 3 0 ≤ 4))
    (.vstat (regNo o.rd) (regNo o.rs1) (bits (immN o) 3 0) (bitOf (immN o) 4) (bits (immN o) 8 5)) [] t

/-- One row of the conversion table of R140: the width of the narrow slot (512: whole registers), the largest PART, the
number of elements, and whether S(SD) is used. -/
structure CvtRow where
  slot : Nat
  maxPart : Nat
  n : Nat
  usesSd : Bool
deriving DecidableEq, Repr

/-- The row of the non-FP32 format of a pair. -/
def cvtRow (f : Nat) : Option CvtRow :=
  if f = 1 ∨ f = 2 then some ⟨256, 1, 16, false⟩
  else if f = 3 ∨ f = 4 ∨ f = 8 then some ⟨128, 3, 16, false⟩
  else if f = 9 then some ⟨512, 0, 16, false⟩
  else if f = 5 ∨ f = 6 then some ⟨256, 1, 32, true⟩
  else if f = 7 then some ⟨128, 3, 32, true⟩
  else if f = 0xA then some ⟨256, 1, 16, true⟩
  else if f = 0xB ∨ f = 0xC then some ⟨512, 0, 16, true⟩
  else none

/-- The accepted pairs of R140: one side is FP32. -/
def cvtPair (fs fd : Nat) : Option CvtRow :=
  if fs = 0 then cvtRow fd else if fd = 0 then cvtRow fs else none

/-- VCVT (R139 to R141). DEDUCED, log entry 4. -/
def insVcvt (o : TInsn) (t : Tile) : Tile :=
  let i := immN o
  let fd := bits i 33 30
  let fs := bits i 29 26
  let rm := bits i 25 24
  let part := bits i 23 21
  let sd := bits i 20 16
  let row := cvtPair fs fd
  let pairOk := match row with
    | none => decide (sd = 0)
    | some r =>
      decide (part ≤ r.maxPart) && (r.usesSd || decide (sd = 0)) && (fs == 0 || decide (rm = 0)) &&
        (r.n != 32 || (if fs = 0 then decide (regNo o.rs1 % 2 = 0) else decide (regNo o.rd % 2 = 0)))
  let uses := match row with
    | some r => r.usesSd
    | none => false
  let writes := uses && fs == 0
  let regs := (if uses then [sd] else []) ++ (if rm = 2 then [regNo o.rs2, regNo o.rs2 + 1, regNo o.rs2 + 2] else [])
  issueWith 2 (fun _ _ _ => regs)
    (fun _ _ => firstTrap [
      need (isV o.rd && isV o.rs1 && (if rm = 2 then decide (o.rs2.toNat ≤ 29) else o.rs2 == 0) && pairOk),
      needFmt row.isSome])
    (fun k sl t => enqueue 2 k sl
      (.vcvt (regNo o.rd) (regNo o.rs1) fd fs rm part sd (sGet t sd)
        (if rm = 2 then posBlock t o.rs2.toNat (bits i 15 0) else ⟨0, 0, 0, 0⟩))
      [] [] 0 (if writes then [sd] else []) t) t

/-! ### Effects -/

/-- Lane-wise application. -/
def lanes1 (f : Nat → Nat) (x : Nat) : Nat := ofElems 32 ((elemsOf x 32 16).map f)
def lanes2 (f : Nat → Nat → Nat) (x y : Nat) : Nat := ofElems 32 (List.zipWith f (elemsOf x 32 16) (elemsOf y 32 16))

/-- VRED's fixed pairwise tree (R134). -/
def vredStep (op : Nat → Nat → Nat) : List Nat → List Nat
  | a :: b :: l => op a b :: vredStep op l
  | l => l
def vredTree (op : Nat → Nat → Nat) (l : List Nat) : Nat :=
  (vredStep op (vredStep op (vredStep op (vredStep op l)))).headD 0

def vredOp (op : Nat) : Nat → Nat → Nat :=
  if op = 0 then f32add 0 else if op = 1 then f32max else aluAddW
where
  aluAddW (x y : Nat) : Nat := (x + y) % 2 ^ 32

/-- The mantissa width of a W format code. -/
def wBits (f : Nat) : Nat := if f = 0xA then 16 else if f = 0xB then 24 else 32

/-- VCVT's result (R140 to R144): the new V(rd) — and V(rd + 1) for an MX widening — and the new S(SD) where one is
written. `x` holds V(rs1) and `x1` V(rs1 + 1); `d` holds the old V(rd). -/
def vcvtResult (seed : Nat) (fd fs rm part sdVal : Nat) (pos : PosBlock) (x x1 d : Nat) :
    Nat × Option Nat × Option Nat :=
  let dr (j : Nat) : Nat := drawAt seed pos j
  match cvtPair fs fd with
  | none => (d, none, none)
  | some r =>
    let put (b : Nat) (es : List Nat) : Nat := setBits d (r.slot * part) r.slot (ofElems b es)
    if fs = 0 then
      let src := (elemsOf x 32 16).map f32
      match mxFmt fd with
      | some (F, emax) =>
        let o := mxNarrow F emax rm dr (src ++ (elemsOf x1 32 16).map f32)
        (put (r.slot / 32) o.2, none, some o.1)
      | none =>
        match fmtOfCode fd with
        | some F => (put (r.slot / 16) (src.mapIdx (fun j v => rmRound F rm (dr j) v)), none, none)
        | none =>
          if fd = 8 then
            (put 8 (src.mapIdx (fun j v => toField (rmIntClamp rm (dr j) (-128) 127 v) 8)), none, none)
          else if fd = 9 then
            (put 32 (src.mapIdx (fun j v => toField (rmIntClamp rm (dr j) (-2 ^ 31) (2 ^ 31 - 1) v) 32)), none, none)
          else
            let rs := src.mapIdx (fun j v => wNarrow (wBits fd) (sdVal % 256) rm (dr j) v)
            let esc := if rs.any (·.2.1) then 2 ^ 31 else 0
            let nf := if rs.any (·.2.2) then 2 ^ 30 else 0
            (put (r.slot / 16) (rs.map (fun q => toField q.1 (r.slot / 16))), none, some (sdVal ||| esc ||| nf))
    else
      let s := elemAt x r.slot part
      match mxFmt fs with
      | some (F, _) =>
        let es := (elemsOf s (r.slot / 32) 32).map (fun b => rne32 (mxVal F b sdVal))
        (ofElems 32 (es.take 16), some (ofElems 32 (es.drop 16)), none)
      | none =>
        let es := elemsOf s (r.slot / 16) 16
        let val (b : Nat) : FVal :=
          match fmtOfCode fs with
          | some F => decodeF F b
          | none =>
            if fs = 8 then fvInt (sextN b 8) else if fs = 9 then fvInt (sextN b 32)
            else wVal (wBits fs) (sdVal % 256) (sextN b (wBits fs))
        (ofElems 32 (es.map (fun b => rne32 (val b))), none, none)

/-- VIADD.W over a register (R145): lanes of 16 bits for W16, of 32 bits holding sign-extended values otherwise. -/
def viaddResult (wf : Nat) (sub : Bool) (x y : Nat) : Nat × Bool :=
  let w := if wf = 0 then 16 else if wf = 1 then 24 else 32
  let lw := if wf = 0 then 16 else 32
  let n := if wf = 0 then 32 else 16
  let rs := List.zipWith (fun a b => wAdd w sub (sextN a w) (sextN b w)) (elemsOf x lw n) (elemsOf y lw n)
  (ofElems lw (rs.map (fun r => toField r.1 lw)), rs.any (·.2))

/-- One element counted into a health record (R146). -/
def statOne (F : Fmt) (x : Nat) (rec_ : Nat) : Nat :=
  let inc (lo n r : Nat) : Nat := setBits r lo n (min (2 ^ n - 1) ((r >>> lo) % 2 ^ n + 1))
  let r := inc 128 64 rec_
  match f32 x with
  | .fin d =>
    if d.m = 0 then inc 0 32 r
    else
      let r := if dyAbove d F.maxM F.maxE then inc 32 32 r
        else if (decodeF F (roundF F .rne (.fin d))).isZero then inc 96 32 r else r
      let mx := (dyLog d + 32768).toNat
      setBits r 192 16 (max ((r >>> 192) % 2 ^ 16) mx)
  | _ => inc 64 32 r

/-- VSTAT over lanes 0 to NL of a register (R146); reserved bytes are written 0. -/
def vstatResult (fmt : Nat) (half : Bool) (nl x d : Nat) : Nat :=
  let F := (fmtOfCode fmt).getD fmtFP32
  let lo := if half then 256 else 0
  let r0 := (d >>> lo) % 2 ^ 208
  setBits d lo 256 ((elemsOf x 32 (nl + 1)).foldl (fun r v => statOne F v r) r0)

/-- The effect of a completed vector instruction. -/
def vectorEffect (e : Env) (o : UOp) (t : Tile) : Tile :=
  match o.kind with
  | .vld vd col esz stride ea =>
    if col then vSet (((List.range (64 / esz)).foldl (fun t n => sramTouch e (ea + 64 * stride * n) esz t)) t) vd
      (columnRead t ea esz stride)
    else vSet (sramTouch e ea 64 t) vd (sramGet t ea 64)
  | .vst vs add ea => if add then sramAdd e ea (vGet t vs) t else sramPut e ea 64 (vGet t vs) t
  | .vadd vd a b rm => vSet t vd (lanes2 (f32add rm) (vGet t a) (vGet t b))
  | .vmul vd a b rm => vSet t vd (lanes2 (f32mul rm) (vGet t a) (vGet t b))
  | .vfma vd a b rm =>
    vSet t vd (ofElems 32 ((List.range 16).map (fun i =>
      f32fma rm (elemAt (vGet t a) 32 i) (elemAt (vGet t b) 32 i) (elemAt (vGet t vd) 32 i))))
  | .vmax vd a b int => vSet t vd (lanes2 (if int then i32max else f32max) (vGet t a) (vGet t b))
  | .vexp vd a => vSet t vd (lanes1 vexp32 (vGet t a))
  | .vrcp vd a => vSet t vd (lanes1 vrcp32 (vGet t a))
  | .vrsq vd a => vSet t vd (lanes1 vrsq32 (vGet t a))
  | .vderiv vd a b fn => vSet t vd (lanes2 (vderiv32 fn) (vGet t a) (vGet t b))
  | .vred sd a op => sSet t sd (vredTree (vredOp op) (elemsOf (vGet t a) 32 16))
  | .viadd vd a b wf sub ef =>
    let r := viaddResult wf sub (vGet t a) (vGet t b)
    let t := vSet t vd r.1
    if r.2 then sSet t ef (sGet t ef ||| 2 ^ 31) else t
  | .vstat vd a fmt half nl => vSet t vd (vstatResult fmt half nl (vGet t a) (vGet t vd))
  | .vcvt vd a fd fs rm part sd sdVal pos =>
    let r := vcvtResult (seedOf t o.sec) fd fs rm part sdVal pos (vGet t a) (vGet t (a + 1)) (vGet t vd)
    let t := vSet t vd r.1
    let t := match r.2.1 with
      | some x => vSet t (vd + 1) x
      | none => t
    match r.2.2 with
    | some x => sSet t sd x
    | none => t
  | _ => t

/-- UNIT_INSTRUCTION_START of the vector unit. -/
def vectorStart (t : Tile) : Tile :=
  match t.vecQ with
  | [] => t
  | o :: rest =>
    if t.vec.isNone && rangesClear t o then
      let t := { t with vecQ := rest }
      if banksOwned t o.sec (o.rds ++ o.wrs) then { t with vec := some o } else trapSlot o.slot 6 o.pc 2 t
    else t

/-- UNIT_INSTRUCTION_COMPLETE of the vector engine. -/
def vectorComplete (e : Env) (t : Tile) : Tile :=
  match t.vec with
  | some o => tryLoad (vectorEffect e o { t with vec := none })
  | none => t

end Sys2Proof.Machine
end

