-- ==== Sys2Proof/Machine/Sync.lean ====
section
/-! DEFINITION. The synchronisation instructions (R112 to R115), and the dispatcher of one tile: selection, promotion, the
run limit, the wait watchdog, completion posting and the retire-order buffer (R229 to R239). -/
namespace Sys2Proof.Machine

/-- WAITT (R112): trap on an overflowed counter, done at once where the count is there or the wait is for 0, else a stall. -/
def insWaitt (o : TInsn) (t : Tile) : Tile :=
  issueWith 0 (fun _ _ _ => [regNo o.rs1])
    (fun _ _ => need (o.rd == 0 && isS o.rs1 && o.rs2 == 0 && decide (immN o < 2 ^ 20)))
    (fun k sl t =>
      let n := sGet t (regNo o.rs1) % 2 ^ 16
      let tid := stepTid (BitVec.ofNat 20 (immN o)) sl.task.step
      match rxFind t sl.task.ctx tid with
      | some r =>
        if r.ovf then trapRun k 3 0 t
        else
          let t := rxBegin t sl.task.ctx tid
          if r.count ≥ n then rxTidy (advance (rxUpd t sl.task.ctx tid (fun r => { r with count := r.count - n })))
          else { advance t with stall := some (.waitt tid n true t.pc) }
      | none =>
        if n = 0 then advance t
        else rxTidy { advance t with stall := some (.waitt tid n false t.pc) }) t

/-- WAITT_SATISFIED: the count is subtracted and issue resumes. -/
def waittSatisfied (t : Tile) : Tile :=
  match t.stall with
  | some (.waitt tid n true _) =>
    match rxFind t (runCtx t) tid with
    | some r =>
      if r.count ≥ n then
        rxTidy { rxUpd t (runCtx t) tid (fun r => { r with count := r.count - n }) with stall := none }
      else t
    | none => t
  | _ => t

/-- POST (R113): one TOKEN or COUNT message to a tile of the sheaf. -/
def insPost (e : Env) (o : TInsn) (t : Tile) : Tile :=
  let i := immN o
  let a := aGet t (regNo o.rd)
  issueWith 0 (fun _ _ _ => [])
    (fun _ t => firstTrap [
      need (isA o.rd && o.rs1 == 0 && o.rs2 == 0 && decide (bits i 33 32 ≠ 3 ∧ bits i 31 29 = 0 ∧ bits i 27 20 = 0)),
      chkSheaf t a 0 false])
    (fun _ sl t =>
      let m : AwnMsg := {
        dstX := bits (offOf a) 39 32, dstY := bits (offOf a) 31 24, epoch := epochOf t sl.task.sec, ctx := sl.task.ctx,
        tid := stepTid (BitVec.ofNat 20 i) sl.task.step, pri := bits i 33 32, src := e.me, toSaddle := false,
        body := if bitOf i 28 then .token else .count }
      advance (injectAwn t m)) t

/-- Is a unit instruction of a slot's task other than a waiting RECV outstanding (R114: FENCE never waits for arrivals; R244: nor for
another task that had the slot before)? DEDUCED, log entry 16. -/
def slotBusy (t : Tile) (k : Nat) (sl : Slot) : Bool :=
  (t.arrQ ++ t.vecQ ++ t.cpyQ ++ t.prod.toList ++ t.port.toList ++ t.vec.toList ++ t.cpy.toList).any
    (fun o => o.slot == k && o.load == sl.loadNo)

/-- Are the effects a FENCE of this mode selects complete (R114)? The packets that sheaf mode waits for are all that the task sent,
the lines of a CPY to SPACE 0x2 and 0x3 among them, which their dies acknowledge at acceptance (R264); acceptance is the visibility
that memory mode waits for. DEDUCED, log entry 16. -/
def fenceDone (t : Tile) (k : Nat) (sl : Slot) (mode : Nat) : Bool :=
  !slotBusy t k sl && (decide (mode < 1) || (decide (sl.owed = 0) && decide (sl.hbmOwed = 0)))

/-- FENCE (R114). -/
def insFence (o : TInsn) (t : Tile) : Tile :=
  issueWith 0 (fun _ _ _ => [])
    (fun _ _ => need (o.rd == 0 && o.rs1 == 0 && o.rs2 == 0 && decide (immN o < 3)))
    (fun k sl t =>
      if fenceDone t k sl (immN o) then advance t else { advance t with stall := some (.fence (immN o) t.pc) }) t

/-- FENCE_COMPLETE (R244). -/
def fenceComplete (t : Tile) : Tile :=
  match t.stall, t.running with
  | some (.fence mode _), some k =>
    match tabFind t.slots k with
    | some sl => if fenceDone t k sl mode then { t with stall := none } else t
    | none => t
  | _, _ => t

/-- TEND (R115): the slot drains, and the dispatcher selects the next task (R67). -/
def insTend (o : TInsn) (t : Tile) : Tile :=
  issueWith 0 (fun _ _ _ => [])
    (fun _ _ => need (o.rd == 0 && o.rs1 == 0 && o.rs2 == 0 && o.imm == 0))
    (fun k _ t => selectNext { slotUpd t k (fun s => { s with st := .draining }) with running := none }) t

/-- An order of a freed ordered task counts as sent (R239). -/
def ordKey (q : Nat) (sec : Bool) : Nat := 2 * q + (if sec then 1 else 0)

/-- Advances the next order to send over the orders that cancels freed. -/
def ordAdvance (key : Nat) (t : Tile) : Tile :=
  let freed := tabGet t.ordFreed key []
  let nxt := freed.foldl (fun n _ => if freed.contains n then n + 1 else n) (tabGet t.ordSent key 0)
  { t with ordSent := tabSet t.ordSent key nxt, ordFreed := tabSet t.ordFreed key (freed.filter (fun x => decide (x ≥ nxt))) }

/-- The COMPLETION messages of one task (R237, R238): the task form, and for a fault the detail form after it. -/
def complMsgs (e : Env) (ctx : BitVec 8) (epoch graph task : Nat) (step : W32) (subNo : Nat) (trap : Option TrapRec) (again : Bool) :
    List AwnMsg :=
  let d := attachTile e.w (retireSaddle e.w e.me) 0
  let m (b : AwnBody) : AwnMsg := ⟨d.1, d.2, epoch, ctx, 0, 1, e.me, true, b⟩
  m (.complTask graph task trap.isSome step subNo again) ::
    (match trap with
     | some r => [m (.complDetail r.code r.unit (r.pc.toNat / 8))]
     | none => [])

/-- Sends the held completions whose earlier orders have all been sent (R239). -/
def sendHeld (e : Env) (key : Nat) : Nat → Tile → Tile
  | 0, t => t
  | n + 1, t =>
    let t := ordAdvance key t
    match t.held.find? (fun h => h.queue == key && h.order == tabGet t.ordSent key 0) with
    | none => t
    | some h =>
      let t := (complMsgs e h.ctx h.epoch h.graph h.task h.step h.subNo h.trap false).foldl injectAwn t
      sendHeld e key n { t with held := t.held.filter (fun x => !(x.queue == key && x.order == h.order))
                                ordSent := tabSet t.ordSent key (h.order + 1) }

/-- A slot that a cancel frees (R242): without tokens or completion, its order counting as sent, so that completions held behind it
leave (R239). -/
def cancelSlot (e : Env) (k : Nat) (t : Tile) : Tile :=
  match tabFind t.slots k with
  | none => t
  | some sl =>
    let key := ordKey sl.task.queue sl.task.sec
    let t := if sl.task.ordered then
        sendHeld e key 17 { t with ordFreed := tabMod t.ordFreed key [] (fun l => l ++ [sl.ord]) }
      else t
    slotFree k (dropUnbegun k t)

/-- YIELD (R115, R69): PC, s0 to s7 and a0 to a3 are saved and the slot is Ready again; a cancelled task is freed. -/
def insYield (e : Env) (o : TInsn) (t : Tile) : Tile :=
  issueWith 0 (fun _ _ _ => List.range 8)
    (fun _ _ => need (o.rd == 0 && o.rs1 == 0 && o.rs2 == 0 && o.imm == 0))
    (fun k sl t =>
      let sv : SaveArea := ⟨t.pc + 8, (List.range 8).map (fun i => BitVec.ofNat 32 (sGet t i)),
        (List.range 4).map (fun i => BitVec.ofNat 48 (aGet t i)), 0⟩
      let t := { t with running := none }
      selectNext (if sl.cancelled then cancelSlot e k t
        else slotUpd t k (fun s => { s with st := .ready, save := some sv }))) t

/-! ### Events of the dispatcher -/

/-- TASK_SELECT (R68): the pipeline is idle and a slot is Ready. -/
def taskSelect (t : Tile) : Tile :=
  if t.power = .run ∧ t.running = none then selectNext t else t

/-- Q2_PROMOTION (R232) of a primary Q2 slot that is Ready in a graph with PROM. -/
def promoteSlot (k : Nat) (t : Tile) : Tile :=
  match tabFind t.slots k with
  | some sl =>
    if sl.st = .ready ∧ sl.task.queue = 2 ∧ !sl.task.sec ∧ sl.task.prom ≠ 0 ∧ sl.promo = none then
      let rec_ := ((readySlots t).filter (fun p => !p.2.task.sec && p.2.task.queue == 0)).map (·.2.loadNo)
      { slotUpd t k (fun s => { s with promo := some t.promos, recorded := rec_ }) with promos := t.promos + 1 }
    else t
  | none => t

/-- RUN_LIMIT_EXPIRY (R233): a secondary task has run on since a primary slot became Ready, whatever has become of that slot. -/
def runLimit (t : Tile) : Tile :=
  match t.running with
  | some k =>
    match tabFind t.slots k with
    | some sl => if sl.task.sec ∧ t.runLim then trapSlot k 5 (slotPc t k sl) 0 t else t
    | none => t
  | none => t

/-- The counter of a key whose wait timed out counts later arrivals as late (R111). -/
def rxTimeout (c : BitVec 8) (tid : BitVec 20) (t : Tile) : Tile := rxUpd t c tid (fun r => { r with lateWatch := true })

/-- WAIT_WATCHDOG_EXPIRY of the stalled WAITT or FENCE (R111, R192). A satisfied wait is taken, not timed out. -/
def watchdogStall (t : Tile) : Tile :=
  match t.stall, t.running with
  | some (.waitt tid n al pc), some k =>
    let c := runCtx t
    let got := al && (match rxFind t c tid with
      | some r => decide (r.count ≥ n)
      | none => false)
    if got then waittSatisfied t else trapSlot k 5 pc 0 (rxTimeout c tid t)
  | some (.fence mode pc), some k =>
    match tabFind t.slots k with
    | some sl => if fenceDone t k sl mode then { t with stall := none } else trapSlot k 5 pc 0 t
    | none => t
  | _, _ => t

/-- WAIT_WATCHDOG_EXPIRY of the i-th pending RECV. -/
def watchdogRecv (i : Nat) (t : Tile) : Tile :=
  match t.recvs[i]? with
  | none => t
  | some w =>
    let got := w.alloc && (match rxFind t w.op.ctx w.tid with
      | some r => decide (r.count ≥ w.n)
      | none => false)
    if got then recvSatisfied i t else trapSlot w.op.slot 5 w.op.pc 3 (rxTimeout w.op.ctx w.tid t)

/-- COMPLETION_POST of slot k (R235, R236, R239, R92): a Draining task whose effects are all complete, or a Faulted one
whose begun instructions have completed. TOKEN edges leave first, then the COMPLETION; an ordered one may be held. DEDUCED, log entry 16. -/
def completionPost (e : Env) (k : Nat) (t : Tile) : Tile :=
  match tabFind t.slots k with
  | none => t
  | some sl =>
    let quiet := !slotBusy t k sl && !t.recvs.any (fun w => w.op.slot == k)
    let ready := (sl.st = .draining ∧ sl.owed = 0 ∧ sl.hbmOwed = 0) ∨ sl.st = .faulted
    let key := ordKey sl.task.queue sl.task.sec
    let first := tabGet (ordAdvance key t).ordSent key 0 = sl.ord
    if !quiet ∨ ¬ ready ∨ (sl.task.ordered ∧ ¬ first ∧ t.held.length ≥ 16) then t
    else
      let ep := epochOf t sl.task.sec
      let t := slotFree k t
      let t := if sl.trap.isNone then
          sl.task.edges.foldl (fun t ed => injectAwn t
            ⟨ixX ed.dst, ixY ed.dst, ep, sl.task.ctx, ed.tid, ed.pri, e.me, false, .token⟩) t
        else t
      if sl.task.silent ∧ !sl.task.repass ∧ sl.trap.isNone then t
      else if sl.task.ordered ∧ ¬ first then
        { t with held := t.held ++ [⟨key, sl.task.ctx, sl.ord, ep, sl.task.task, sl.task.step, sl.task.graph, sl.task.subNo,
                                     sl.trap⟩] }
      else
        let t := (complMsgs e sl.task.ctx ep sl.task.graph sl.task.task sl.task.step sl.task.subNo sl.trap (sl.task.silent || sl.task.repass)).foldl injectAwn t
        if sl.task.ordered then
          sendHeld e key 17 { t with ordSent := tabSet t.ordSent key (sl.ord + 1) }
        else t

/-- FREQUENCY_CHANGE (R34, R35): clamped to 2.7 GHz; a request below 1.0 GHz asks for fallow, which the tile takes only
while all its slots are Free, its memories lost and its cycle count held (R36, R72). A tile leaving fallow runs tile reset. -/
def frequencyChange (e : Env) (f : Nat) (t : Tile) : Tile :=
  if f < 10 then
    (if t.slots.isEmpty ∧ t.power = .run then
       { tileReset e t with power := .fallow, cycBase := cycleNow e t, cycFrom := coreClock e t }
     else t)
  else if t.power = .fallow then { tileReset e t with power := .run, freq := min f 27 }
  else if t.power = .run then { cycFix e t with freq := min f 27 }
  else t

/-- The slots the dispatcher may give a queue and role (R62, R231): the primary's 8 guaranteed per queue, then the 32
shared; the secondary only shared ones, at most 16. -/
def slotAvail (t : Tile) (q : Nat) (sec : Bool) : Bool :=
  let prim (q : Nat) : Nat := (t.slots.filter (fun p => !p.2.task.sec && p.2.task.queue == q)).length
  let secN := (t.slots.filter (fun p => p.2.task.sec)).length
  let shared := ((List.range 4).map (fun q => prim q - 8)).sum + secN
  if sec then decide (secN < 16 ∧ shared < 32) else decide (prim q < 8 ∨ shared < 32)

/-- The lowest Free slot number. -/
def freeSlot (t : Tile) : Nat := ((List.range 64).find? (fun k => (tabFind t.slots k).isNone)).getD 0

/-- Loads a task into a free slot (R63, R65, R66): the counter starts at its tokens, and early tokens of its key apply. -/
def loadTask (d : TaskDesc) (t : Tile) : Tile :=
  let k := freeSlot t
  let key := ordKey d.queue d.sec
  let sl : Slot := {
    st := if d.tokens = 0 then .ready else .waiting, task := d, counter := d.tokens, save := none, loadNo := t.loads
    owed := 0, hbmOwed := 0, seqs := [], promo := none, recorded := [], trap := none, cancelled := false
    ord := tabGet t.ordNext key 0 }
  let mine := t.early.filter (fun p => p.1 == d.ctx && p.2 == d.tid)
  let t := { t with slots := tabSet t.slots k sl, loads := t.loads + 1
                    ordNext := if d.ordered then tabMod t.ordNext key 0 (· + 1) else t.ordNext
                    early := t.early.filter (fun p => !(p.1 == d.ctx && p.2 == d.tid)) }
  armLimit (mine.foldl (fun t p => (tokenArrive p.1 p.2 t).getD t) t)

end Sys2Proof.Machine
end

