-- ==== Sys2Proof/Machine/Mach.lean ====
section
/-! DEFINITION. The shared operations on the whole machine: its parts with their defaults, the logs, interrupts, contexts and
their HBM views, and the record of an effect that one tile has. -/
namespace Sys2Proof.Machine

/-! ### Parts and their defaults -/

/-- The grid width (R3). -/
def gridW (s : State) : Nat := if s.dev.gradeF then 256 else 240

def tileOf (s : State) (i : Nat) : Tile := tabGet s.tiles i (tileInit s.mapPeriods)
def setTile (s : State) (i : Nat) (t : Tile) : State := { s with tiles := tabSet s.tiles i t }
def swathOf (s : State) (p : Nat) : Swath := tabGet s.swaths p .init
def setSwath (s : State) (p : Nat) (x : Swath) : State := { s with swaths := tabSet s.swaths p x }
def saddleOf (s : State) (k : Nat) : Saddle := tabGet s.saddles k .init
def setSaddle (s : State) (k : Nat) (x : Saddle) : State := { s with saddles := tabSet s.saddles k x }
def linkOf (s : State) (p : Nat) : PortLink := tabGet s.links p .init
def setLink (s : State) (p : Nat) (x : PortLink) : State := { s with links := tabSet s.links p x }
def spurOf (s : State) (j : Nat) : Spur := tabGet s.spurs j .init
def chanOf (s : State) (n : Nat) : Chan := tabGet s.chans n .init
def setChan (s : State) (n : Nat) (c : Chan) : State := { s with chans := tabSet s.chans n c }
def stewardOf (s : State) (k : Nat) : Steward := tabGet s.cairn.stewards k .init
def ctxOf (s : State) (c : BitVec 8) : Option Ctx := tabFind s.ctxs c.toNat
def setCtx (s : State) (c : BitVec 8) (x : Ctx) : State := { s with ctxs := tabSet s.ctxs c.toNat x }
/-- Applies a function to an open context. -/
def updCtx (s : State) (c : BitVec 8) (f : Ctx → Ctx) : State :=
  match ctxOf s c with
  | some x => setCtx s c (f x)
  | none => s
/-- The EPOCH of a context number (R452). -/
def epochNow (s : State) (c : BitVec 8) : Nat := tabGet s.epochs c.toNat 0
def updLink (s : State) (p : Nat) (f : PortLink → PortLink) : State := setLink s p (f (linkOf s p))
def updChan (s : State) (n : Nat) (f : Chan → Chan) : State := setChan s n (f (chanOf s n))
def updSaddle (s : State) (k : Nat) (f : Saddle → Saddle) : State := setSaddle s k (f (saddleOf s k))

/-- This engine's 24-bit ID (R15). -/
def engineId (s : State) : BitVec 24 := BitVec.ofNat 24 (s.cairn.engIdHi.toNat * 16 + s.straps.slot.toNat)

/-! ### Interrupts (R381, R396) -/

/-- A vector's key: PF vector n is n, VF v's is 128 * v + n. -/
def vecKey (fn n : Nat) : Nat := 128 * fn + n

/-- Sends an MSI-X message, or sets the vector's pending bit while it is masked. -/
def raiseVec (s : State) (fn n : Nat) : State :=
  let v := tabGet s.pcie.vecs (vecKey fn n) .init
  if v.masked then
    { s with pcie := { s.pcie with vecs := tabSet s.pcie.vecs (vecKey fn n) { v with pend := true } } }
  else { s with msiOut := s.msiOut ++ [(fn, n)] }

/-- Sets bits of EVT_STAT; one message on vector 64 where enabled bits become 1 (R381). -/
def setEvt (s : State) (mask : Nat) : State :=
  let fresh := mask &&& s.pcie.evtEn &&& (0x7F - (s.pcie.evtStat &&& 0x7F))
  let s' := { s with pcie := { s.pcie with evtStat := s.pcie.evtStat ||| mask } }
  if fresh = 0 then s' else raiseVec s' 0 64

def evtSpur : Nat := 1
def evtEth : Nat := 2
def evtFault : Nat := 4
def evtSteward : Nat := 8
def evtThermal : Nat := 16
def evtState : Nat := 32
def evtDbOvf : Nat := 64

/-- Changes ENGSTATE; a change sets STATE_CHG (R380, R433). -/
def setEngState (s : State) (v : Nat) : State :=
  if s.cairn.engState = v then s else setEvt { s with cairn := { s.cairn with engState := v } } evtState

/-! ### The logs (R436, R437) -/

def faultLogSize : Nat := 4096
def eventLogSize : Nat := 16384

def ringAdd (n : Nat) (l : LogRing) (r : LogRec) : LogRing :=
  ⟨l.written + 1, if l.recs.length ≥ n then l.recs.drop 1 ++ [r] else l.recs ++ [r]⟩

/-- The kinds whose occurrences merge (R437, R516). -/
def counted (k : Nat) : Bool :=
  [0x1001, 0x1002, 0x1101, 0x1102, 0x1103, 0x1201, 0x1202, 0x1203, 0x1204, 0x1205, 0x1206, 0x1501, 0x1502].contains k

/-- The key field of a counted kind. -/
def logKey (k arg : Nat) : Nat :=
  if k = 0x1001 then bits arg 39 32 else if 0x1201 ≤ k ∧ k ≤ 0x1206 then bits arg 55 32 else 0

def sameOccurrence (a b : LogRec) : Bool :=
  a.kind == b.kind && a.unit == b.unit && a.index == b.index && a.ms == b.ms && a.ctx == b.ctx
    && logKey a.kind a.arg == logKey b.kind b.arg

/-- Merges one occurrence into the first record it belongs to. -/
def mergeRec (r : LogRec) : List LogRec → Option (List LogRec)
  | [] => none
  | x :: l =>
    if sameOccurrence x r then some ({ x with arg := if x.arg % 2 ^ 32 = 2 ^ 32 - 1 then x.arg else x.arg + 1 } :: l)
    else (mergeRec r l).map (x :: ·)

/-- Writes a record to its log at the present Cairn time. A record added to the fault log sets FAULTLOG. -/
def logRec (s : State) (r : LogRec) : State :=
  let r := { r with ms := s.cairn.ms % 2 ^ 32 }
  if r.kind < 0x1000 then setEvt { s with faultLog := ringAdd faultLogSize s.faultLog r } evtFault
  else if counted r.kind then
    match mergeRec r s.eventLog.recs with
    | some l => { s with eventLog := { s.eventLog with recs := l } }
    | none => { s with eventLog := ringAdd eventLogSize s.eventLog { r with arg := 2 ^ 32 * (r.arg / 2 ^ 32) + 1 } }
  else { s with eventLog := ringAdd eventLogSize s.eventLog r }

/-- A record without island stamp. -/
def logAt (s : State) (kind unit index : Nat) (ctx : Option (BitVec 8)) (step : Option W32) (arg : Nat) : State :=
  logRec s ⟨kind, unit, index, ctx, step, none, arg, 0⟩

/-- A record of the Cairn complex (unit 5). DEDUCED, log entry 47. -/
def logCairn (s : State) (kind : Nat) (ctx : Option (BitVec 8)) (arg : Nat) : State := logAt s kind 5 0 ctx none arg

/-! ### One tile -/

def envOf (s : State) (i : Nat) : Env :=
  ⟨i, gridW s, s.ticks, s.periods, s.hotPeriods, tabMap s.ctxs (fun _ c => (c.mask, c.slabs)), s.leases,
    s.swaths.flatMap (fun w => w.2.table.map (fun b =>
      ⟨w.1, b.2.base, 64 * b.2.len, b.2.tid, b.2.ctx, b.2.sfmt⟩))⟩

/-- Stores a tile, handing the event records it wrote to the log. -/
def putTile (s : State) (i : Nat) (t : Tile) : State :=
  t.evq.foldl logRec (setTile s i { t with evq := [] })

/-- Does a tile exist and have power: on the grid, main power good? -/
def tileUp (s : State) (i : Nat) : Bool := onGrid (gridW s) i && s.module.pgMain

/-- An effect of one tile. -/
def onTile (s : State) (i : Nat) (f : Env → Tile → Tile) : State :=
  if tileUp s i then putTile s i (f (envOf s i) (tileOf s i)) else s

/-- Applies a function to every tile of a list, wherever it stands. -/
def onTiles (s : State) (l : List Nat) (f : Nat → Tile → Tile) : State :=
  l.foldl (fun s i => setTile s i (f i (tileOf s i))) s

/-! ### HBM and the views of contexts (R250 to R254) -/

/-- The byte address in HBM of a view offset. -/
def viewPhys (x : Ctx) (o : Nat) : Option Nat :=
  if o < viewSize (x.mask, x.slabs) then
    let d := viewDecode (x.mask, x.slabs) o
    ((tabGet x.slabMap d.1 [])[d.2.1]?).map (fun slab => 2 ^ 36 * d.1 + 2 ^ 27 * slab + d.2.2)
  else none

def viewSz (x : Ctx) : Nat := viewSize (x.mask, x.slabs)

/-- Bytes of a view, in one run: the model reads runs that lie in one slab whole. -/
def viewRead (s : State) (x : Ctx) (o n : Nat) : Nat :=
  match viewPhys x o with
  | some a => if o % 2 ^ 27 + n ≤ 2 ^ 27 then memRead s.hbm a n
      else leNat ((List.range n).map (fun i => match viewPhys x (o + i) with
        | some b => memRd s.hbm b
        | none => 0))
  | none => 0

def viewByte (s : State) (x : Ctx) (o : Nat) : Byte :=
  match viewPhys x o with
  | some a => memRd s.hbm a
  | none => 0

def viewBytes (s : State) (x : Ctx) (o n : Nat) : List Byte := (List.range n).map (fun i => viewByte s x (o + i))

/-- A line that a write covers whole, or partly after a read, no longer holds an error (R444). -/
def clearBad (s : State) (a : Nat) : State :=
  let l := a / 64
  if s.hbmBad.contains l then
    { s with hbmBad := s.hbmBad.filter (· != l)
             saddles := tabMap s.saddles (fun k d =>
               if k = a / 2 ^ 36 then { d with bad := tabMap d.bad (fun _ b => b.filter (· != l)) } else d) }
  else s

/-- Writes one byte at a view offset; outside the view nothing is written. -/
def viewStore (s : State) (x : Ctx) (o : Nat) (b : Byte) : State := match viewPhys x o with
  | some a => { clearBad s a with hbm := memWr s.hbm a b }
  | none => s

/-- Writes bytes at a view offset. -/
def viewWrite (s : State) (x : Ctx) (o : Nat) : List Byte → State
  | [] => s
  | b :: l => viewWrite (viewStore s x o b) x (o + 1) l

/-- Writes n bytes of a number at a view offset. -/
def viewPut (s : State) (x : Ctx) (o n v : Nat) : State := viewWrite s x o (toBytes n v)

/-- The home Saddle die of a context (R251). -/
def homeSaddle (x : Ctx) : Nat := kthBit x.mask 0

/-- Control block fields (R254): offset and bytes. -/
def cbCrWr : Nat := 0
def cbCrRd : Nat := 8
def cbNlWr : Nat := 16
def cbNlLost : Nat := 20
def cbEsWr : Nat := 24
def cbEsRd : Nat := 28
def cbHwW : Nat := 32
def cbHwNt : Nat := 34
def cbHwDrop : Nat := 40
def cbClipC : Nat := 44

/-- Head region places (R252). -/
def atCompl : Nat := 0x10000
def atNumLog : Nat := 0x30000
def atEsc : Nat := 0x50000
def atGroups : Nat := 0x60000
def atSched : Nat := 0x64000
def atCombine : Nat := 0x68000
def atTids : Nat := 0x70000
def atLayers : Nat := 0x80000
def atWindow : Nat := 0x08000000
def atGlean : Nat := 0x10000000
def freeArea : Nat := 0x20000000

/-! ### Contexts: interrupts, logs, records -/

/-- The completion interrupt of a context (R241, R381): its vector, or an event on its secure channel. -/
def raiseCompletion (s : State) (x : Ctx) : State :=
  match x.opener with
  | .pf => raiseVec s 0 x.vector
  | .vf v => raiseVec s v x.vector
  | .secure ch => { s with mgmtOut := s.mgmtOut ++ [.event ch (tabFind s.mgmtTags ch)] }
  | .detached => s

/-- A record of the context's numerics log (R181), 32 bytes as a number; the oldest is overwritten once the ring is full,
and the loss counted. -/
def numLog (s : State) (c : BitVec 8) (data : Nat) : State :=
  match ctxOf s c with
  | none => s
  | some x =>
    let wr := viewRead s x cbNlWr 4
    let lost := viewRead s x cbNlLost 4
    let s := viewPut s x (atNumLog + 32 * (wr % 4096)) 32 data
    let s := viewPut s x cbNlWr 4 ((wr + 1) % 2 ^ 32)
    if wr ≥ 4096 ∨ lost ≠ 0 then viewPut s x cbNlLost 4 (min (2 ^ 32 - 1) (lost + 1)) else s

/-- The fields of a numerics record (R181). -/
structure NumRec where
  kind : Nat
  layer : Nat
  step : W32
  pass : Nat
  old : Nat
  new : Nat
  cause : Nat
  micro : Nat
  tid : Nat
  tile : Nat
  bucket : Nat
  sOld : Nat
  sNew : Nat
deriving DecidableEq, Repr

def NumRec.data (r : NumRec) (c : BitVec 8) : Nat :=
  r.kind + 2 ^ 8 * c.toNat + 2 ^ 16 * r.layer + 2 ^ 32 * r.step.toNat + 2 ^ 64 * r.pass + 2 ^ 72 * r.old + 2 ^ 80 * r.new
    + 2 ^ 88 * r.cause + 2 ^ 96 * r.micro + 2 ^ 128 * r.tid + 2 ^ 176 * r.tile + 2 ^ 192 * r.bucket + 2 ^ 208 * r.sOld
    + 2 ^ 216 * r.sNew

/-- Writes completion records for which the ring has room (R241); the others stay held. -/
def drainRecs (s : State) (c : BitVec 8) : List CrRec → State
  | [] => updCtx s c (fun x => { x with heldRecs := [] })
  | r :: l =>
    match ctxOf s c with
    | none => s
    | some x =>
      let wr := viewRead s x cbCrWr 4
      let rd := viewRead s x cbCrRd 4
      if (2 ^ 32 + wr - rd) % 2 ^ 32 ≥ 4096 then updCtx s c (fun x => { x with heldRecs := r :: l })
      else
        let s := viewPut s x (atCompl + 32 * (wr % 4096)) 32 r.data
        let s := viewPut s x cbCrWr 4 ((wr + 1) % 2 ^ 32)
        drainRecs (if r.notify then raiseCompletion s x else s) c l

/-- A completion record (R241): kind, graph, submission, step, task, detail; SEQ is counted per context. -/
def complRec (s : State) (c : BitVec 8) (kind graph subNo : Nat) (step : W32) (task detail : Nat) (notify : Bool) : State :=
  match ctxOf s c with
  | none => s
  | some x =>
    let d := kind + 2 ^ 8 * (x.crSeq % 2 ^ 24) + 2 ^ 32 * c.toNat + 2 ^ 48 * graph + 2 ^ 64 * (subNo % 2 ^ 32)
      + 2 ^ 96 * step.toNat + 2 ^ 128 * task + 2 ^ 160 * detail
    let s := setCtx s c { x with crSeq := (x.crSeq + 1) % 2 ^ 24 }
    drainRecs s c (x.heldRecs ++ [⟨d, notify⟩])

/-- A glean log record (R445): kind, step, AUX, LTV, LOC; GSN is counted per context. -/
def gleanRec (s : State) (c : BitVec 8) (kind : Nat) (step : W32) (aux ltv loc : Nat) : State :=
  match ctxOf s c with
  | none => s
  | some x =>
    let d := kind + 2 ^ 64 * (x.gsn % 2 ^ 32) + 2 ^ 96 * step.toNat + 2 ^ 128 * aux + 2 ^ 160 * ltv + 2 ^ 192 * loc
    let s := viewPut s x (atGlean + 32 * (x.gsn % 8388608)) 32 d
    updCtx s c (fun x => { x with gsn := x.gsn + 1, lastLayerTab := if kind = 3 then x.gsn else x.lastLayerTab })

/-! ### Sheaves -/

/-- The tiles of a sheaf's rectangle as code sees it: a resilient sheaf without its spare column (R458). -/
def codeW (h : Sheaf) : Nat := if h.resilient then h.w - 1 else h.w
def rectTiles (x0 y0 w h : Nat) : List Nat :=
  (List.range h).flatMap (fun j => (List.range w).map (fun i => tileIx (x0 + i) (y0 + j)))
def sheafTiles (h : Sheaf) : List Nat := rectTiles h.x0 h.y0 (codeW h) h.h

/-- The sheaves a context holds as primary or as co-tenant. -/
def sheavesOf (s : State) (c : BitVec 8) : List (Nat × Sheaf) :=
  s.sheaves.filter (fun p => p.2.ctx == c || p.2.second == some c)

/-- The tiles on which a context runs. -/
def ctxTiles (s : State) (c : BitVec 8) : List Nat := (sheavesOf s c).flatMap (fun p => sheafTiles p.2)

/-- Is the context the co-tenant of the sheaf? -/
def isSecond (h : Sheaf) (c : BitVec 8) : Bool := h.second == some c && h.ctx != c

def findGraph (x : Ctx) (handle : Nat) : Option Graph := x.graphs.find? (·.handle == handle)
def findSub (x : Ctx) (no : Nat) : Option Submission := x.subs.find? (·.no == no)
def updSub (x : Ctx) (no : Nat) (f : Submission → Submission) : Ctx :=
  { x with subs := x.subs.map (fun b => if b.no = no then f b else b) }
/-- Submissions that have written neither SUBMISSION_DONE nor CANCELLED (R223, R242). -/
def unfinished (x : Ctx) : List Submission := x.subs.filter (fun b => !b.finished)
/-- The step of the k-th instance of a submission (R223). -/
def instStep (b : Submission) (k : Nat) : W32 := b.first + BitVec.ofNat 32 k

/-! ### The Crest ring (R19, R268) -/

/-- The ring stop of a Saddle die and of the Crest die of a side. -/
def ringStop (k : Nat) : Nat := 7 * (k / 6) + (if k % 6 < 3 then k % 6 else k % 6 + 1)
def crestStop (side : Nat) : Nat := 7 * side + 3
/-- Maelec and the log memory sit at Crest die N. DEDUCED, log entry 18. -/
def maelecStop : Nat := crestStop 0
/-- The direction with fewer segments; clockwise when equal. -/
def ringCw (src dst : Nat) : Bool := decide ((dst + 28 - src) % 28 ≤ 14)
/-- Sends a flit from one stop to another. -/
def sendRing (s : State) (src dst : Nat) (cls : RingClass) (psn : Bool) (b : FlitBody) : State :=
  { s with ring := s.ring ++ [⟨src, dst, src, ringCw src dst, cls, 0, psn, b⟩] }

/-- The next value of the free-value counter. -/
def drawFree (s : State) : Nat × State := (s.free, { s with free := s.free + 1 })

end Sys2Proof.Machine
end

