-- ==== Sys2Proof/Machine/Link.lean ====
section
/-! DEFINITION. Peer frames and the port die links: link word, header and trailer (R348 to R352), pools and credits (R353),
go-back-N (R355), routes (R360), and the sending of a frame toward an engine. -/
namespace Sys2Proof.Machine

/-! ### Frame fields (R349 to R351) -/

/-- Bytes [hi:lo] of a structure held as a number. -/
def byteField (v hi lo : Nat) : Nat := bits v (8 * hi + 7) (8 * lo)

structure FrameHdr where
  dst : BitVec 24
  src : BitVec 24
  ctx : BitVec 8
  cls : Nat
  tid : Nat
  fmt : Nat
  epoch : Nat
  psn : Bool
  last : Bool
  stook : Bool
  esc : Bool
  nline : Nat
  bucket : Nat
  chunk : Nat
  step : W32
  seq : Nat
deriving DecidableEq, Repr

/-- The header of a frame with its fields, HCRC over bytes [27:0]. -/
def mkHdr (h : FrameHdr) : BitVec 256 :=
  let v := h.dst.toNat + 2 ^ 24 * h.src.toNat + 2 ^ 48 * h.ctx.toNat + 2 ^ 56 * h.cls + 2 ^ 64 * (h.tid + 2 ^ 20 * h.fmt)
    + 2 ^ 88 * h.epoch + 2 ^ 96 * (flagBit h.psn 0 + flagBit h.last 1 + flagBit h.stook 2 + flagBit h.esc 3)
    + 2 ^ 104 * h.nline + 2 ^ 120 * h.bucket + 2 ^ 136 * h.chunk + 2 ^ 160 * h.step.toNat + 2 ^ 192 * (h.seq % 2 ^ 32)
  BitVec.ofNat 256 (v + 2 ^ 224 * crc32c (toBytes 28 v))

def hDst (h : BitVec 256) : BitVec 24 := BitVec.ofNat 24 (byteField h.toNat 2 0)
def hSrc (h : BitVec 256) : BitVec 24 := BitVec.ofNat 24 (byteField h.toNat 5 3)
def hCtx (h : BitVec 256) : BitVec 8 := BitVec.ofNat 8 (byteField h.toNat 6 6)
def hCls (h : BitVec 256) : Nat := byteField h.toNat 7 7 % 16
def hTid (h : BitVec 256) : Nat := byteField h.toNat 10 8 % 2 ^ 20
def hFmt (h : BitVec 256) : Nat := byteField h.toNat 10 8 / 2 ^ 20
def hEpoch (h : BitVec 256) : Nat := byteField h.toNat 11 11 % 8
def hPsn (h : BitVec 256) : Bool := bitOf h.toNat 96
def hLast (h : BitVec 256) : Bool := bitOf h.toNat 97
def hStook (h : BitVec 256) : Bool := bitOf h.toNat 98
def hNline (h : BitVec 256) : Nat := byteField h.toNat 14 13
def hBucket (h : BitVec 256) : Nat := byteField h.toNat 16 15
def hChunk (h : BitVec 256) : Nat := byteField h.toNat 19 17
def hStep (h : BitVec 256) : W32 := BitVec.ofNat 32 (byteField h.toNat 23 20)
def hSeq (h : BitVec 256) : Nat := byteField h.toNat 27 24
def hcrcOk (h : BitVec 256) : Bool := byteField h.toNat 31 28 == crc32c (toBytes 28 h.toNat)
/-- Reserved header bits (R350): CLASS [7:4], EPOCH [7:3], FLAGS [7:4]. -/
def hdrRsv (h : BitVec 256) : Bool :=
  byteField h.toNat 7 7 / 16 != 0 || byteField h.toNat 11 11 / 8 != 0 || byteField h.toNat 12 12 / 16 != 0

def payloadBytes (l : List Line) : List Byte := l.flatMap (fun x => toBytes 64 x.toNat)
/-- Bytes as lines, the last padded with zeros. -/
def linesOf (b : List Byte) : List Line :=
  (List.range ((b.length + 63) / 64)).map (fun i => BitVec.ofNat 512 (leNat ((b.drop (64 * i)).take 64)))

/-- The trailer of a frame (R351). -/
def mkTrailer (hdr : BitVec 256) (p : List Line) (srcPar : Bool) : BitVec 128 :=
  let b := payloadBytes p
  BitVec.ofNat 128 (2 ^ 24 * flagBit srcPar 0 + 2 ^ 32 * crc32c (toBytes 32 hdr.toNat ++ b) + 2 ^ 64 * crc64 b)

def fcrcOk (hdr : BitVec 256) (p : List Line) (t : BitVec 128) : Bool :=
  byteField t.toNat 7 4 == crc32c (toBytes 32 hdr.toNat ++ payloadBytes p)
def trVerdict (t : BitVec 128) : Nat := byteField t.toNat 3 3
def trDigest (t : BitVec 128) : BitVec 64 := BitVec.ofNat 64 (byteField t.toNat 15 8)
/-- HOPBAD set in a trailer, every other byte unchanged (R358). -/
def setHopBad (t : BitVec 128) : BitVec 128 := t ||| BitVec.ofNat 128 (2 ^ 25)

/-- A link word (R349): kind, sequenced, pool, LSEQ. -/
def mkLw (kind : Nat) (sq : Bool) (pool lseq : Nat) : BitVec 64 :=
  let v := 2 ^ 42 * pool + flagBit sq 45 + 2 ^ 46 * kind + 2 ^ 48 * (lseq % 2 ^ 16)
  BitVec.ofNat 64 (v + crc16 (toBytes 6 (v / 2 ^ 16)))
def lwLseq (w : BitVec 64) : Nat := bits w.toNat 63 48
def lwKind (w : BitVec 64) : Nat := bits w.toNat 47 46
def lwSq (w : BitVec 64) : Bool := bitOf w.toNat 45
def lwPool (w : BitVec 64) : Nat := bits w.toNat 44 42
def lwOk (w : BitVec 64) : Bool := bits w.toNat 15 0 == crc16 (toBytes 6 (w.toNat / 2 ^ 16))

/-! ### Pools and routes (R353, R360) -/

def poolLines (k : Nat) : Nat := if k = 0 then 512 else if k = 1 ∨ k = 2 then 4096 else 2048

/-- The pool of a frame that ends at the next engine. -/
def classPool (engine : Bool) (cls : Nat) : Nat :=
  if engine ∨ cls = 0 then 0 else if cls = 4 ∨ cls = 5 then 1 else if cls = 8 ∨ cls = 9 then 2 else 3

/-- TIDs reserved to the kernel (R298). -/
def kernelTid (tid : Nat) : Bool := decide ((0x7FC00 ≤ tid ∧ tid ≤ 0x7FFFF) ∨ (0xFFC00 ≤ tid ∧ tid ≤ 0xFFFFF))
def winnowTid : Nat := 0x7FC00

/-- Is a frame a Winnow data frame, which is not sequenced (R355)? -/
def isWinnowData (lw : BitVec 64) (h : BitVec 256) : Bool := lwKind lw == 0 && hCls h == 9 && kernelTid (hTid h)

def findRoute (s : State) (e : BitVec 24) : Option Route := s.engine.bind (fun t => t.routes.find? (·.dest == e))

/-- The neighbour that the engine table names on a spur (R371). -/
def spurEntry (s : State) (j : Nat) : Option SpurEntry := s.engine.bind (fun t => t.spurs[j]?)

/-- SPURSTAT states (R380). -/
def spurDisabled : Nat := 0
def spurDown : Nat := 1
def spurTraining : Nat := 2
def spurUp : Nat := 3
def spurAttached : Nat := 4
def spurDetaching : Nat := 5
def spurFailed : Nat := 6

/-- The STATE a spur shows: held Disabled while STRAP_SPUR disables it (R347). -/
def spurState (s : State) (j : Nat) : Nat := if s.straps.spur then (spurOf s j).st else spurDisabled

/-- Sets a spur's state; a change of SPURSTAT sets SPUR_CHG (R380). -/
def setSpurSt (s : State) (j st : Nat) : State :=
  if (spurOf s j).st = st then s
  else setEvt { s with spurs := tabSet s.spurs j { spurOf s j with st := st } } evtSpur

/-- Sets a spur's owner; OWNED stands in SPURSTAT, so a change of it sets SPUR_CHG (R380). -/
def setSpurOwner (s : State) (j : Nat) (o : Option (BitVec 8)) : State :=
  let x := spurOf s j
  if x.owner = o then s
  else
    let t := { s with spurs := tabSet s.spurs j { x with owner := o } }
    if x.owner.isSome = o.isSome then t else setEvt t evtSpur

/-- The pool a frame names on the hop out of spur j: the class pool where the neighbour is the destination, otherwise the
route's, where 2 keeps the pool of arrival (R360). -/
def hopPool (s : State) (j : Nat) (r : Route) (engine : Bool) (cls arrival : Nat) (dst : BitVec 24) : Nat :=
  match spurEntry s j with
  | some e => if e.id = dst then classPool engine cls else if r.pool = 0 then 4 else if r.pool = 1 then 5 else arrival
  | none => classPool engine cls

/-! ### Transmission on one link (R353, R355) -/

/-- The bytes of a frame on a link: link word, header, payload, trailer (R348). -/
def frameBytes (f : RawFrame) : List Byte :=
  toBytes 8 f.lw.toNat ++ toBytes 32 f.hdr.toNat ++ payloadBytes f.payload ++ toBytes 16 f.trailer.toNat

/-- The lines of a frame for credits (R353). -/
def frameCost (f : RawFrame) : Nat := f.payload.length + 1
/-- The bytes of a frame in the replay store. -/
def frameSize (f : RawFrame) : Nat := 56 + 64 * f.payload.length
def replayStore : Nat := 524288

/-- Credits held in a pool: its lines less those sent and not known freed, counted modulo 2^16. -/
def credits (l : PortLink) (k : Nat) : Nat :=
  poolLines k - ((2 ^ 16 + tabGet l.sent k 0 - tabGet l.peerFreed k 0) % 2 ^ 16)

/-- The first frame of the output queue that may start: it holds its credits and, where sequenced, replay store room. -/
def maySend (l : PortLink) (f : RawFrame) : Bool :=
  decide (frameCost f ≤ credits l (lwPool f.lw)) &&
    (!lwSq f.lw || decide ((l.replay.map frameSize).sum + frameSize f ≤ replayStore))

/-- Puts one frame on the fibre: LSEQ for a sequenced frame, and a copy in the replay store. -/
def txFrame (f : RawFrame) (l : PortLink) : PortLink :=
  let n := (l.txLast + 1) % 2 ^ 16
  let f' := { f with lw := if lwSq f.lw then mkLw (lwKind f.lw) true (lwPool f.lw) n else f.lw }
  { l with txLast := if lwSq f.lw then n else l.txLast
           replay := if lwSq f.lw then l.replay ++ [f'] else l.replay
           sent := tabSet l.sent (lwPool f.lw) ((tabGet l.sent (lwPool f.lw) 0 + frameCost f) % 2 ^ 16)
           sentFrames := l.sentFrames ++ [f'] }

/-- Starts the frames of the output queue in order, as far as credits and the replay store allow. -/
def pump : Nat → PortLink → PortLink
  | 0, l => l
  | n + 1, l =>
    match l.outq with
    | [] => l
    | f :: rest => if maySend l f then pump n (txFrame f { l with outq := rest }) else l

/-- Starts what a port die may send; a spur that is not Attached carries no frame. -/
def pumpPort (s : State) (p : Nat) : State :=
  if spurState s (p / 8) = spurAttached then updLink s p (fun l => pump l.outq.length l) else s

/-! ### Origination (R359, R368) -/

/-- The SEQ of a stream, and the stream counted on. -/
def seqNow (l : List (StreamKey × Nat)) (k : StreamKey) : Nat := ((l.find? (fun p => p.1 == k)).map (·.2)).getD 0
def seqSet (l : List (StreamKey × Nat)) (k : StreamKey) (n : Nat) : List (StreamKey × Nat) :=
  (k, n) :: l.filter (fun p => p.1 != k)

/-- The stream of a frame that this engine originates on a port die. -/
def streamOf (h : FrameHdr) (p : Nat) : StreamKey := ⟨h.src, h.dst, h.ctx, h.cls + 16 * h.epoch, p⟩

/-- The next frame of a stream on a port die. -/
def buildFrame (s : State) (p pool : Nat) (engine : Bool) (h : FrameHdr) (payload : List Line) (srcPar : Bool) : RawFrame :=
  let hdr := mkHdr { h with seq := seqNow (linkOf s p).tx (streamOf h p) }
  let sq := !(h.cls == 9 && kernelTid h.tid && !engine)
  ⟨mkLw (if engine then 2 else 0) sq pool 0, hdr, payload, mkTrailer hdr payload srcPar⟩

/-- Queues a frame of this engine on a port die, naming a pool. The sequence number restarts with the destination's EPOCH
(R359). A spur that is not Attached carries no frame (R347). -/
def sendOn (s : State) (p pool : Nat) (engine : Bool) (h : FrameHdr) (payload : List Line) (srcPar : Bool) : State :=
  if spurState s (p / 8) ≠ spurAttached then s
  else
    let l := linkOf s p
    let key := streamOf h p
    let f := buildFrame s p pool engine h payload srcPar
    pumpPort (setLink s p { l with tx := seqSet l.tx key ((seqNow l.tx key + 1) % 2 ^ 32), outq := l.outq ++ [f] }) p

/-- Sends a frame of this engine to its destination on port die index i of the route's spur. Where no route names the
destination, nothing leaves. -/
def originate (s : State) (i : Nat) (engine : Bool) (h : FrameHdr) (payload : List Line) (srcPar : Bool) : State :=
  match findRoute s h.dst with
  | none => s
  | some r => sendOn s (8 * r.spur + i) (hopPool s r.spur r engine h.cls 4 h.dst) engine h payload srcPar

/-- The peer entry of a context for an engine (R372). -/
def peerOf (x : Ctx) (e : BitVec 24) : Option Peer := x.peers.bind (fun t => t.peers.find? (·.engine == e))

/-- An engine frame (R350): header with NLINE lines. -/
def engineHdr (s : State) (dst : BitVec 24) (ctx : BitVec 8) (epoch tid nline : Nat) : FrameHdr :=
  ⟨dst, engineId s, ctx, 0, tid, 0, epoch, false, false, false, false, nline, 0, 0, 0, 0⟩

/-- The payload line of RECOVER and the related notices (R451). -/
def noticeLine (origin : BitVec 24) (rno : Nat) (ctx : BitVec 8) (epoch : Nat) (oldest : W32) (kind : Nat) : Line :=
  BitVec.ofNat 512 (origin.toNat + 2 ^ 32 * rno + 2 ^ 48 * ctx.toNat + 2 ^ 56 * epoch + 2 ^ 64 * oldest.toNat
    + 2 ^ 96 * kind)

/-- Sends a notice to every engine of a context's peer table, once per engine (R442, R451). -/
def sendNotices (s : State) (c : BitVec 8) (origin : BitVec 24) (rno : Nat) (oldest : W32) (kind : Nat) : State :=
  match ctxOf s c with
  | none => s
  | some x =>
    let peers := (x.peers.map (·.peers)).getD []
    (peers.filter (fun p => p.engine != engineId s)).foldl (fun s p =>
      originate s 0 true (engineHdr s p.engine p.ctx p.epoch 0 1)
        [noticeLine origin rno c (epochNow s c) oldest kind] false) s

/-- A frame dropped where its spur carries none (R366): FRAME_DROPPED, with the engine it was bound for. DEDUCED, log entry 36. -/
def dropFrame (s : State) (p : Nat) (f : RawFrame) : State := logAt s 0x1206 3 p none none (2 ^ 32 * (hDst f.hdr).toNat)

/-- Lines of a received frame leave their pool: the receiver counts them freed (R353). -/
def freeLines (s : State) (p : Nat) (f : RawFrame) : State :=
  updLink s p (fun l =>
    { l with freed := tabSet l.freed (lwPool f.lw) ((tabGet l.freed (lwPool f.lw) 0 + frameCost f) % 2 ^ 16) })

end Sys2Proof.Machine
end

