-- ==== Sys2Proof/Machine/MailOps.lean ====
section
/-! DEFINITION. The mailbox block's own operations: channels and their functions, replies and journals, interrupts, wakes
(R389 to R405). -/
namespace Sys2Proof.Machine

/-! ### Channels (R390) -/

/-- Channel numbers: 0 to 63 PF, 64 + 4 (v - 1) + k for VF v, 312 + s secure. -/
def isPf (n : Nat) : Bool := decide (n < 64)
def isVf (n : Nat) : Bool := decide (64 ≤ n ∧ n < 312)
def isSecure (n : Nat) : Bool := decide (312 ≤ n ∧ n < 328)
def chanVf (n : Nat) : Nat := (n - 64) / 4 + 1
def chanK (n : Nat) : Nat := (n - 64) % 4
def secureNo (n : Nat) : Nat := n - 312

/-- Does the channel exist: secure channels only while STRAP_SEC is 1 (R395)? -/
def chanExists (s : State) (n : Nat) : Bool := isPf n || isVf n || (isSecure n && s.straps.sec)

/-- The function that negotiates for a channel (R406): 0 the PF, v VF v, 63 the secure side. -/
def chanFn (n : Nat) : Nat := if isPf n then 0 else if isVf n then chanVf n else 63

/-- The steward that serves a channel; none for the warden (R390). -/
def chanSteward (n : Nat) : Option Nat :=
  if isPf n then some (n % 4) else if isVf n then some ((chanVf n + chanK n) % 4) else none

/-- Channels a steward serves. -/
def servedBy (k : Nat) : List Nat := (List.range 312).filter (fun n => chanSteward n == some k)

/-- Is the core that serves the channel running: the boot responder in ENGSTATE 0x04 for PF channel 0 and secure channels
(R423), the steward once Nuarn runs, the warden for secure channels, also in a module that has failed (R421)? -/
def served (s : State) (n : Nat) : Bool :=
  if isSecure n then s.straps.sec && !s.module.rst && ((s.cairn.maelec.isSome && s.cairn.restart.isNone) || s.cairn.engState == 15)
  else if !s.cairn.ready then (n == 0) && s.cairn.engState == 4
  else match chanSteward n with
    | some k => let w := stewardOf s k
                !w.restarting && !w.retired
    | none => false

def wakeSteward (s : State) (k : Nat) : State :=
  { s with cairn := { s.cairn with stewards := tabSet s.cairn.stewards k { stewardOf s k with awake := true } } }

/-- A wake event for the core of a channel (R389). -/
def wakeFor (s : State) (n : Nat) : State :=
  match chanSteward n with
  | some k => wakeSteward s k
  | none => s

/-- The home steward of a context (R413). -/
def homeSteward (c : BitVec 8) : Nat := c.toNat % 4
def stewardServes (s : State) (k : Nat) : Bool :=
  s.cairn.ready && !(stewardOf s k).restarting && !(stewardOf s k).retired

/-- Does a steward serve and is its domain up (R389)? -/
def stewardAwake (s : State) (k : Nat) : Bool := stewardServes s k && (stewardOf s k).awake

/-- Raises a channel's interrupt where MBX_IRQ enables it: bit 0 empty, 1 reply, 2 timeout (R390, R394). -/
def chanIrq (s : State) (n bit : Nat) : State :=
  if bitOf (chanOf s n).irq bit then
    if isPf n then raiseVec s 0 n
    else if isVf n then raiseVec s (chanVf n) (chanK n)
    else { s with mgmtOut := s.mgmtOut ++ [.event (secureNo n) (tabFind s.mgmtTags (secureNo n))] }
  else s

/-! ### Status codes (R402) -/

def stOk : Nat := 0x0000
def stAccepted : Nat := 0x0001
def stBadCommand : Nat := 0x0101
def stBadArg : Nat := 0x0102
def stNoResource : Nat := 0x0103
def stDenied : Nat := 0x0104
def stVersionRefused : Nat := 0x0105
def stRestarted : Nat := 0x0201
def stDuplicate : Nat := 0x0202
def stFaulted : Nat := 0x0301
def stQuiesced : Nat := 0x0302
def stWaitingRepair : Nat := 0x0303
def stStookInconsistent : Nat := 0x0401
def stLossMismatch : Nat := 0x0402

/-- What a command answers: status, detail, body registers from MBX_REPLY2, data for OUT. -/
structure Ans where
  status : Nat
  detail : Nat
  body : List W32
  out : List Byte
deriving DecidableEq, Repr

def ans (status detail : Nat) : Ans := ⟨status, detail, [], []⟩
def ansBody (status detail : Nat) (body : List W32) : Ans := ⟨status, detail, body, []⟩
def w32 (n : Nat) : W32 := BitVec.ofNat 32 n

/-! ### Replies (R400, R404) -/

/-- May a waiting reply be written: the core that serves the channel is not held in reset (R415)? -/
def replying (s : State) (n : Nat) : Bool := (chanSteward n).isNone || served s n

/-- Writes the oldest waiting reply into the channel's reply registers while none is unread (R400). -/
def writeReply (s : State) (n : Nat) : State :=
  let c := chanOf s n
  if c.replyValid || !replying s n then s
  else match c.replies with
    | [] => s
    | r :: rest =>
      let words : List W32 := w32 (2 ^ 16 * r.detail + r.status) :: r.cseq :: r.body
      let regs := (words.zipIdx).foldl (fun (t : Tab W32) p => tabPut t p.2 0 p.1) []
      let regs := tabPut regs 15 0 r.last
      let out := if r.out.isEmpty then [] else memWriteBytes (memWrite [] 0 4 r.out.length) 32 r.out
      chanIrq (setChan s n { c with reply := regs, outBuf := out, rseq := r.seq, replyValid := true, replies := rest }) n 1

/-- The journal keeps the 64 most recent outcomes. -/
def journalAdd (j : List JEntry) (e : JEntry) : List JEntry := (e :: j.filter (fun x => x.cseq != e.cseq)).take 64

/-- The commands that the boot responder answers (R423), and those of Nuarn (R407). -/
def bootCodes : List Nat := [0x0101, 0x0102, 0x0901, 0x0A01, 0x0F01]
def nuarnCodes : List Nat :=
  [0x0101, 0x0102, 0x0201, 0x0202, 0x0301, 0x0302, 0x0303, 0x0401, 0x0402, 0x0403, 0x0404, 0x0501, 0x0502, 0x0601, 0x0602, 0x0603,
    0x0701, 0x0801, 0x0802, 0x0901, 0x0902, 0x0A01]

/-- Does the core that serves the machine's channels know a code? A failed module knows LOG_READ alone (R421). -/
def knownCode (s : State) (code : Nat) : Bool :=
  if s.cairn.engState = 15 then code == 0x0A01 else if s.cairn.ready then nuarnCodes.contains code else bootCodes.contains code

/-- Answers the command at the head of a channel, whose next is then dealt with; `record`: its outcome goes into the journal. -/
def answerOne (s : State) (n : Nat) (record : Bool) (a : Ans) (last : W32) : State :=
  let c := chanOf s n
  match c.queue with
  | [] => s
  | m :: rest =>
    let r : Reply := ⟨m.seq, m.cseq, a.status, a.detail, a.body, last, a.out⟩
    let j : JEntry := ⟨m.cseq, a.status, a.detail, a.body, a.out⟩
    writeReply (setChan s n { c with queue := rest, await := none, replies := c.replies ++ [r]
                                     journal := if record then journalAdd c.journal j else c.journal }) n

def flagStaged : Nat := 1
def flagMore : Nat := 2

/-- A message with another code, or without STAGED, discards a pending assembly (R401). DEDUCED, log entry 25. -/
def discardAsm (s : State) (n : Nat) (m : Msg) : State :=
  match (chanOf s n).asm with
  | none => s
  | some y =>
    if y.code = m.code ∧ bitOf m.flags 0 then s
    else logCairn (updChan s n (fun c => { c with asm := none })) 0x1404 none y.code

/-- DUPLICATE: the original body in MBX_REPLY2 to 14, the original MBX_REPLY0 in MBX_REPLY15. -/
def answerDup (s : State) (n : Nat) (j : JEntry) : State :=
  answerOne s n false ⟨stDuplicate, 0, j.body, j.out⟩ (w32 (2 ^ 16 * j.detail + j.status))

/-- The heads that need no more than a look are answered at once: one whose number is in the journal, one with a code that the
server does not know. -/
def settle : Nat → State → Nat → State
  | 0, s, _ => s
  | k + 1, s, n =>
    let c := chanOf s n
    match c.queue with
    | m :: _ =>
      if c.await.isSome ∨ !served s n then s
      else match c.journal.find? (fun j => j.cseq == m.cseq) with
        | some j => settle k (answerDup (discardAsm s n m) n j) n
        | none => if knownCode s m.code then s else settle k (answerOne (discardAsm s n m) n true (ans stBadCommand 0) 0) n
    | [] => s

def answerWith (s : State) (n : Nat) (record : Bool) (a : Ans) (last : W32) : State := settle 9 (answerOne s n record a last) n

/-- The reply to the head of a channel. DEDUCED, log entry 25. -/
def answer (s : State) (n : Nat) (a : Ans) : State := answerWith s n true a 0

/-- Answers every channel whose head waits for the given thing. -/
def answerAwaiting (s : State) (w : Await) (a : Ans) : State :=
  (s.chans.filter (fun p => p.2.await == some w)).foldl (fun s p => answer s p.1 a) s

/-! ### Doorbells -/

/-- Removes the oldest doorbell of a context from the FIFO. -/
def popBell (l : List Bell) (c : BitVec 8) : List Bell :=
  match l with
  | [] => []
  | b :: rest => if b.ctx = c then rest else b :: popBell rest c

end Sys2Proof.Machine
end

