-- ==== Sys2Proof/Machine/Reset.lean ====
section
/-! DEFINITION. Epochs and leases (R452 to R454), the abort of a context on its tiles, partition resets (R442, R443), scrubs of
slabs and granules, quiescing, and taking the engine out of service (R455, R457). -/
namespace Sys2Proof.Machine

/-! ### Epochs -/

/-- The steps that a context is in: the current instance of each unfinished submission. A log of one of its own items counts
for these steps (R440). DEDUCED, log entry 45. -/
def currentSteps (x : Ctx) : List W32 := (unfinished x).map (fun b => instStep b b.done)
/-- DEDUCED, log entry 45. -/
def ownItem (s : State) (c : BitVec 8) : State :=
  updCtx s c (fun x => { x with itemLogs := (currentSteps x).foldl (fun l st => addNew st l) x.itemLogs })

/-- Sets the EPOCH that a context's tiles and Saddle dies check against (R191, R260). -/
def spreadEpoch (s : State) (c : BitVec 8) (e : Nat) : State :=
  let upd (r : Option RoleCtx) : Option RoleCtx := r.map (fun x => if x.ctx = c then { x with epoch := e } else x)
  let s := onTiles s (ctxTiles s c) (fun _ t => { t with pri := upd t.pri, snd := upd t.snd })
  (List.range 24).foldl (fun s k => updSaddle s k (fun d => { d with epochs := tabSet d.epochs c.toNat e })) s

/-- LEASE_REVOKED (R437, R453): the lease's code and how many were held; none held, no record. -/
def leaseLog (s : State) (c : Option (BitVec 8)) (lease count : Nat) : State :=
  if count = 0 then s else logCairn s 0x1004 c (lease + 2 ^ 32 * (min count 255))

/-- TLM_CE i counts n more (R434, R511). DEDUCED, log entry 22. -/
def ceAddN (s : State) (i n : Nat) : State := { s with tlm := { s.tlm with ce := tabMod s.tlm.ce i 0 (fun k => min (k + n) (2 ^ 32 - 1)) } }
def ceAdd (s : State) (i : Nat) : State := ceAddN s i 1

/-- A frame or packet of a context's old EPOCH, discarded at a port die (R191, R367). -/
def staleAtPort (s : State) (p : Nat) (c : BitVec 8) : State := ownItem (logAt s 0x1002 3 p (some c) none 0) c

/-- Frames of a context that a port die still holds when the EPOCH advances are of the old one: discarded as STALE_EPOCH (R303), their
lines freed. -/
def stalePort (c : BitVec 8) (s : State) (p : Nat) : State :=
  let l := linkOf s p
  let of_ (f : RawFrame) : Bool := hCtx f.hdr == c
  let s := ((l.grd ++ l.urg ++ l.par).filter of_).foldl (fun s f => freeLines (staleAtPort s p c) p f) s
  let s := (l.vlines.filter of_).foldl (fun s _ => staleAtPort s p c) s
  updLink s p (fun l => { l with grd := l.grd.filter (fun f => !of_ f), urg := l.urg.filter (fun f => !of_ f)
                                 par := l.par.filter (fun f => !of_ f), vlines := l.vlines.filter (fun f => !of_ f) })

/-- The port dies that hold frames of a context. -/
def portsHolding (s : State) (c : BitVec 8) : List Nat :=
  (s.links.filter (fun q => (q.2.grd ++ q.2.urg ++ q.2.par ++ q.2.vlines).any (fun f => hCtx f.hdr == c))).map (·.1)

/-- Advances a context's EPOCH (R452): causes 1 partition reset, 2 cancel, 3 warden restart, 4 close, 5 open. Bucket slots
are revoked (R303); streams toward and from the context restart (R359). -/
def advanceEpoch (s : State) (c : BitVec 8) (cause rno : Nat) : State :=
  let old := epochNow s c
  let new := (old + 1) % 8
  let n := (s.bslots.filter (fun b => b.ctx == c)).length
  let s := { s with epochs := tabSet s.epochs c.toNat new, spaced := addNew c.toNat s.spaced
                    bslots := s.bslots.filter (fun b => b.ctx != c) }
  let s := leaseLog (spreadEpoch s c new) (some c) 3 n
  let s := { s with links := tabMap s.links (fun _ l =>
    { l with rx := l.rx.filter (fun p => !(p.1.dst == engineId s && p.1.ctx == c && p.1.cls / 16 == new)) }) }
  let s := (portsHolding s c).foldl (stalePort c) s
  logAt s 0x1003 5 0 (some c) none (old + new * 8 + 2 ^ 8 * cause + 2 ^ 16 * (if cause = 1 then rno % 2 ^ 16 else 0))

/-- May the context's EPOCH advance now (R452)?. DEDUCED, log entry 32. -/
def maySpace (s : State) (c : BitVec 8) : Bool := !s.spaced.contains c.toNat

/-! ### Tiles of a context -/

/-- Scrubs the accumulator banks and SRAM banks a role holds on a tile (R49, R59); `free`: the banks lose their owner (R453). -/
def scrubRole (sec free : Bool) (t : Tile) : Tile :=
  let tag := roleTag sec
  let t := (List.range 12).foldl (fun t b =>
    if tabGet t.sramOwn b 0 = tag then
      let t := scrubBank b t
      if free then { t with sramOwn := tabDel t.sramOwn b } else t
    else t) t
  let own := if free then 0 else tag
  let t := if t.accA.own = tag then { t with accA := { AccBank.init with own := own } } else t
  if t.accB.own = tag then { t with accB := { AccBank.init with own := own } } else t

/-- Aborts a context on a tile (R442): slots go without completions or tokens, begun unit instructions complete at their own
commands, counters, early tokens and retire-order entries are freed. -/
def abortCtx (c : BitVec 8) (t : Tile) : Tile :=
  let mine := (t.slots.filter (fun p => p.2.task.ctx == c)).map (·.1)
  let was := match t.running with
    | some k => mine.contains k
    | none => false
  let t := mine.foldl (fun t k => slotFree k (dropUnbegun k t)) t
  let t := if was then { t with running := none, stall := none, pendLoad := none } else t
  let t := { t with rx := t.rx.filter (fun r => r.ctx != c), early := t.early.filter (fun p => p.1 != c)
                    held := t.held.filter (fun h => h.ctx != c), replay := t.replay.filter (fun d => d.ctx != c) }
  rxTidy (if was then selectNext t else tryLoad t)

/-- The order state and cursors of a role start anew (R239, R225). -/
def forgetRole (sec : Bool) (t : Tile) : Tile :=
  let keep (k : Nat) : Bool := k % 2 != (if sec then 1 else 0)
  { t with ordNext := t.ordNext.filter (fun p => keep p.1), ordSent := t.ordSent.filter (fun p => keep p.1)
           ordFreed := t.ordFreed.filter (fun p => keep p.1)
           cursors := t.cursors.filter (fun p => decide (p.1 / 4 % 2 ≠ (if sec then 1 else 0))) }

/-- Begun unit instructions of a context complete before its banks are scrubbed: their entries are dropped with their
effects on scrubbed banks. -/
def dropBegun (c : BitVec 8) (t : Tile) : Tile :=
  let f (o : Option UOp) : Option UOp := o.filter (fun x => x.ctx != c)
  tryLoad { t with prod := f t.prod, port := f t.port, vec := f t.vec, cpy := f t.cpy }

/-- Step 3 of R442 on one tile. -/
def resetOnTile (c : BitVec 8) (t : Tile) : Tile :=
  match roleOfCtx t c with
  | some (sec, _) => scrubRole sec false (forgetRole sec (dropBegun c (abortCtx c t)))
  | none => t

/-! ### Swath and Saddle state of a context -/

/-- An entry returned to EMPTY with its valid bits cleared (R273). -/
def emptyEntry (b : BlkEntry) : BlkEntry := { b with st := .empty, valid := [], served := 0 }

/-- Does a block table entry belong to a context? -/
def entryOf (w : Swath) (c : BitVec 8) (e : Nat) : Bool := ((tabFind w.table e).map (fun b => b.ctx == c)).getD false

/-- The dispatcher leases of a context on its tiles (R453): slots, receive counters, early tokens, retire-order entries. -/
def tileLeases (s : State) (c : BitVec 8) : Nat :=
  ((ctxTiles s c).map (fun i =>
    let t := tileOf s i
    (t.slots.filter (fun p => p.2.task.ctx == c)).length + (t.rx.filter (fun r => r.ctx == c)).length
      + (t.early.filter (fun p => p.1 == c)).length + (t.held.filter (fun h => h.ctx == c)).length)).sum

/-- The port die leases of a context: entries not EMPTY and merge entries. -/
def portLeases (s : State) (c : BitVec 8) : Nat :=
  (s.swaths.map (fun p => (p.2.table.filter (fun b => b.2.ctx == c && b.2.st != .empty)).length
    + (p.2.merges.filter (fun m => m.reqs.any (fun r => r.ctx == c))).length)).sum

/-- The fill bindings of a context. -/
def bindsOf (s : State) (c : BitVec 8) : List Binding := (((ctxOf s c).bind (·.peers)).map (·.binds)).getD []

/-- Every fill binding of a context holds one credit (R370, R449). -/
def grantBinds (s : State) (c : BitVec 8) : State :=
  (bindsOf s c).foldl (fun s b => updLink s b.port (fun l => { l with fillCred := tabSet l.fillCred b.entry 1 })) s

/-- Fill lines that wait at a port die are dropped; those of a spur return their credits (R353). -/
def dropFills (gone : Swath → FillLine → Bool) (s : State) (p : Nat) : State :=
  let w := swathOf s p
  let n := (w.fromSpur.filter (fun f => gone w f && f.lent)).length
  let s := setSwath s p { w with fromMesh := w.fromMesh.filter (fun f => !gone w f), fromSpur := w.fromSpur.filter (fun f => !gone w f) }
  if n = 0 then s else updLink s p (fun l => { l with freed := tabSet l.freed 1 ((tabGet l.freed 1 0 + n) % 2 ^ 16) })

/-- The held fill lines of a context's entries are dropped on every port die. -/
def dropCtxFills (s : State) (c : BitVec 8) : State :=
  (s.swaths.map (·.1)).foldl (dropFills (fun w f => entryOf w c f.entry)) s

/-- Step 5 of R442 on the port dies: entries EMPTY, merge entries and held fill lines dropped, resend stores emptied. -/
def resetPorts (s : State) (c : BitVec 8) : State :=
  let s := dropCtxFills s c
  { s with
    swaths := tabMap s.swaths (fun _ w =>
      { w with table := tabMap w.table (fun _ b => if b.ctx = c then emptyEntry b else b)
               merges := w.merges.filter (fun m => !m.reqs.any (fun r => r.ctx == c))
               waiting := w.waiting.filter (fun r => r.ctx != c)
               reqs := w.reqs.filter (fun r => r.ctx != c) })
    links := tabMap s.links (fun _ l => { l with store := l.store.filter (fun h => h.ctx != c) }) }

/-- The items of a context's stream plan on one stack in a step, in plan order (R274): those of the graphs that run an
instance of the step. -/
def planItems (x : Ctx) (saddle : Nat) (step : W32) : List (Nat × Nat × Nat) :=
  ((x.subs.filter (fun b => decide ((step - b.first).toNat < b.count))).flatMap (fun b =>
    ((findGraph x b.graph).map (·.stream)).getD [])).filter (fun it =>
      (viewDecode (x.mask, x.slabs) it.1).1 == saddle)

/-- Where a walk starts again after a reset: the first of the items it has started whose entry has not been released since
(R449). -/
def walkRestart (s : State) (x : Ctx) (saddle : Nat) (w : StreamWalk) : StreamWalk :=
  let items := (planItems x saddle w.step).take (if w.line = 0 then w.pos else w.pos + 1)
  let key (it : Nat × Nat × Nat) : Nat × Nat := it.2
  let open_ (k : Nat) : Bool := match items[k]? with
    | some it => !((items.drop (k + 1)).any (fun j => key j == key it)) &&
        ((tabFind (swathOf s it.2.1).table it.2.2).map (fun b => b.st != .empty)).getD false
    | none => false
  { w with pos := ((List.range items.length).find? open_).getD w.pos, line := 0 }

/-- Step 4 of R442 on the Saddle dies: queued requests of the context are dropped, its stream walks pause where they will
start again. -/
def resetSaddles (s : State) (c : BitVec 8) : State :=
  { s with saddles := tabMap s.saddles (fun k d =>
      { d with links := tabMap d.links (fun _ l => l.filter (fun p => p.ctx != c))
               reads := d.reads.filter (fun r => r.ctx != c)
               walks := match ctxOf s c, tabFind d.walks c.toNat with
                 | some x, some w => tabSet d.walks c.toNat (walkRestart s x k w)
                 | _, _ => d.walks }) }

/-! ### Slabs and granules -/

/-- Zeroes slabs of a stack with fresh ECC (R258). -/
def zeroSlabs (s : State) (stack : Nat) (slabs : List Nat) : State :=
  slabs.foldl (fun s n =>
    let lo := 2 ^ 36 * stack + 2 ^ 27 * n
    { s with hbm := memZero s.hbm lo (2 ^ 27)
             hbmBad := s.hbmBad.filter (fun l => !(decide (lo / 64 ≤ l ∧ l < 2 ^ 21 + lo / 64))) }) s

/-- Scrubs a swath granule (key 32 * port + granule) and drops its lease (R270). -/
def freeGranule (s : State) (g : Nat) : State :=
  let p := g / 32
  let lo := 2 ^ 20 * (g % 32)
  let w := swathOf s p
  setSwath { s with leases := tabDel s.leases g } p
    { w with buf := memZero w.buf lo (2 ^ 20), bad := w.bad.filter (fun a => !(decide (lo ≤ a ∧ a < 2 ^ 20 + lo))) }

/-! ### Partition reset (R442, R443) -/

/-- The oldest unfinished step of a context (R451). -/
def oldestStep (x : Ctx) : W32 :=
  match unfinished x with
  | b :: _ => instStep b b.done
  | [] => 0

/-- Ends a stook that is Open when its partition is reset or closed (R477): Failed, unless every frame had been sent. -/
def failStook (x : Ctx) (unlessSent : Bool) : Ctx :=
  match x.stook with
  | some k =>
    if k.st = .opened ∧ !(unlessSent && k.manifestSent) then { x with stook := some { k with st := .failed } } else x
  | none => x

/-- The norm pass of an unfinished step restarts; the partials stay (R449). -/
def normRestart (n : NormSt) : NormSt := { n with body := none, started := false, sent := false, result := none }

/-- Steps 2 to 6 of R442. An engine that goes out of service sends no RECOVER and lets its stooks run on (R455, R491); after a warden
restart RECOVER waits for the spurs (R465). DEDUCED, log entry 34. -/
def runReset (s : State) (c : BitVec 8) : State :=
  match (ctxOf s c).bind (·.reset) with
  | none => s
  | some r =>
    let s := advanceEpoch s c (if r.cause = 6 then 3 else 1) r.rno
    let s := logAt s 0x0301 5 0 (some c) none (r.rno + 2 ^ 16 * r.cause)
    let s := gleanRec s c 5 ((ctxOf s c).map oldestStep |>.getD 0) 0 0 r.rno
    let s := leaseLog s (some c) 1 (tileLeases s c)
    let s := onTiles s (ctxTiles s c) (fun _ t => resetOnTile c t)
    let s := leaseLog s (some c) 4 (portLeases s c)
    let s := leaseLog (grantBinds (resetPorts (resetSaddles s c) c) c) (some c) 7 (bindsOf s c).length
    let own := r.cause = 5 ∧ r.origin = engineId s
    let s := updCtx s c (fun x =>
      let x := if own then x else failStook x true
      { x with reset := x.reset.map (fun r => { r with waitEpoch := false })
               win := { x.win with norms := x.win.norms.map normRestart, digests := [] } })
    if own ∨ r.cause = 6 then s
    else sendNotices s c r.origin r.rno (r.originStep.getD ((ctxOf s c).map oldestStep |>.getD 0)) 1

/-- Starts a partition reset of a context (R442): step 1, and the rest unless it must wait for the EPOCH spacing. A report
during a reset before REPLAY_BEGIN joins it; after REPLAY_BEGIN it aborts the replay and starts a new one (R443). `origin`
carries the engine, RNO and oldest step of a reset that began on another engine (R451); this engine's own resets draw a new RNO. -/
def partitionReset (s : State) (c : BitVec 8) (cause : Nat) (origin : Option (BitVec 24 × Nat × W32)) (rerun : Option W32) :
    State :=
  match ctxOf s c with
  | none => s
  | some x =>
    let joins := match x.reset with
      | some r => !r.begun
      | none => false
    if joins then s
    else
      let own := s.cairn.rno
      let org := (origin.map (·.1)).getD (engineId s)
      let rno := (origin.map (·.2.1)).getD own
      let s := if origin.isNone then { s with cairn := { s.cairn with rno := (own + 1) % 2 ^ 16 } } else s
      let r : Reset := ⟨rno, cause, org, true, false, [], 0, none, false, rerun, origin.map (·.2.2)⟩
      let s := setCtx s c { x with reset := some r, resetsSeen := addNew (org.toNat, rno, 1) x.resetsSeen }
      if maySpace s c then runReset s c else s

/-- Is a context between its fault and REPLAY_BEGIN: held buckets and paused stream plans wait until the replay runs (R442, R448)? -/
def beforeReplay (x : Ctx) : Bool := (x.reset.map (fun r => !r.begun)).getD false

/-- Ends a reset in REPLAY_IMPOSSIBLE (R450). -/
def replayImpossible (s : State) (c : BitVec 8) (reason : Nat) : State :=
  let s := updCtx s c (fun x => { x with reset := x.reset.map (fun r => { r with impossible := some reason, members := [] }) })
  logAt s 0x0304 5 0 (some c) none reason

/-! ### Quiescing and waiting for repair (R441, R455, R457) -/

def quiesce (s : State) (c : BitVec 8) (q : QuiesceBy) : State :=
  updCtx s c (fun x => { x with quiesced := addNew q x.quiesced })
def unquiesce (s : State) (c : BitVec 8) (q : QuiesceBy) : State :=
  updCtx s c (fun x => { x with quiesced := x.quiesced.filter (· != q) })

/-- Contexts that own a spur, or reach a peer through a route that leaves on it (R441). -/
def spurCtxs (s : State) (j : Nat) : List (BitVec 8) :=
  (s.ctxs.filter (fun p =>
    (spurOf s j).owner == some (BitVec.ofNat 8 p.1) ||
      ((p.2.peers.map (·.peers)).getD []).any (fun e =>
        match findRoute s e.engine with
        | some r => r.spur == j
        | none => false))).map (fun p => BitVec.ofNat 8 p.1)

/-! ### Automatic field tests (R461) -/

/-- The window of steps that a sheaf's contexts have run since its last passed test or the last start-up mapping (R463): where none
has been done, the step in progress. DEDUCED, log entry 38. -/
def suspectWindow (s : State) (h : Nat) : State :=
  match tabFind s.sheaves h with
  | none => s
  | some b => (b.ctx :: b.second.toList).foldl (fun s c =>
      let now := ((ctxOf s c).map oldestStep).getD 0
      let w := tabGet b.steps c.toNat (now, now)
      logCairn s 0x0502 (some c) (w.1.toNat + 2 ^ 32 * w.2.toNat)) s

/-- Quiesces a sheaf's contexts for a field test of some categories. -/
def orderTest (s : State) (h : Nat) (b : Sheaf) (cats : Nat) (host : Bool) : State :=
  let ms := if host then b.testMs else some s.cairn.ms
  let s := { s with sheaves := tabSet s.sheaves h { b with testing := some (cats, false, host), testMs := ms } }
  (b.ctx :: b.second.toList).foldl (fun s c => quiesce s c (.test h)) s

/-- An automatic test of the sheaves of a context: quiesced at once, unless a test runs; within an hour of the last automatic one only
the suspect window grows. -/
def autoTest (s : State) (c : BitVec 8) (cats : Nat) : State :=
  (sheavesOf s c).foldl (fun s p =>
    let due := match p.2.testMs with
      | some t => decide (s.cairn.ms - t ≥ 3600000)
      | none => true
    if p.2.testing.isNone && due then orderTest s p.1 p.2 cats false else suspectWindow s p.1) s

/-! ### Out of service -/

/-- A context of an engine that goes out of service becomes FAULTED whatever it was doing (R455, R491). -/
def faultCtx (s : State) (c : BitVec 8) (cause : Nat) : State :=
  match ctxOf s c with
  | none => s
  | some x =>
    let rno := s.cairn.rno
    let s := setCtx s c { x with reset := some ⟨rno, cause, engineId s, true, false, [], 0, none, false, none, none⟩ }
    let s := { s with cairn := { s.cairn with rno := (rno + 1) % 2 ^ 16 } }
    if maySpace s c then runReset s c else s

def ctxNames (s : State) : List (BitVec 8) := s.ctxs.map (fun p => BitVec.ofNat 8 p.1)

/-- Takes the engine out of service for a fault class (R438, R439, R455): OUT_OF_SERVICE logged, ENGSTATE 0x06, every context
FAULTED, OUT_OF_SERVICE frames to the peers of every context. -/
def outOfServiceAs (s : State) (cls : Nat) (how : Oos) : State :=
  if s.cairn.engState = 6 ∨ s.cairn.engState = 0xF then s
  else
    let s := logCairn s 0x0405 none cls
    let s := setEngState { s with cairn := { s.cairn with oos := some how } } 6
    let s := (ctxNames s).foldl (fun s c =>
      sendNotices s c (engineId s) s.cairn.rno ((ctxOf s c).map oldestStep |>.getD 0) 2) s
    (ctxNames s).foldl (fun s c => faultCtx s c 5) s

/-- Class 8: a new start-up mapping follows. -/
def takeOutOfService (s : State) (cls : Nat) : State := outOfServiceAs s cls (.remap cls false)

/-- Class 12, or a class that no mapping mends: the engine waits for repair, and its peers are told (R438, R457). -/
def waitForRepair (s : State) (cls : Nat) : State :=
  let s := outOfServiceAs s cls (.repair cls)
  let s := logCairn s 0x0407 none cls
  let s := (ctxNames s).foldl (fun s c =>
    sendNotices s c (engineId s) s.cairn.rno ((ctxOf s c).map oldestStep |>.getD 0) 3) s
  { s with ctxs := tabMap s.ctxs (fun _ x => { x with waiting := addNew (.peer (engineId s)) x.waiting }) }

/-- A tile's hard failure (R456): TILE_FAILED with its cause. -/
def tileFailed (s : State) (i cause : Nat) : State :=
  let t := tileOf s i
  let s := setTile s i { t with failed := true }
  logAt { s with cairn := { s.cairn with failedTiles := addNew i s.cairn.failedTiles } } 0x0401 0 i none none cause

/-- The sheaf whose rectangle, spare column included, holds a tile. -/
def sheafAt (s : State) (i : Nat) : Option (Nat × Sheaf) :=
  s.sheaves.find? (fun p => decide (p.2.x0 ≤ ixX i ∧ ixX i < p.2.x0 + p.2.w ∧ p.2.y0 ≤ ixY i ∧ ixY i < p.2.y0 + p.2.h))

/-- A tile declared hard-failed takes the path of its sheaf (R438, R458, R460): a column shift in a resilient sheaf, first in
its row and of cause 1 to 4; a spare of an unshifted row is only used up; otherwise the engine goes out of service. -/
def hardFail (s : State) (i cause : Nat) : State :=
  let s := tileFailed s i cause
  match sheafAt s i with
  | none => takeOutOfService s 8
  | some (h, b) =>
    let spare := b.resilient && ixX i == b.x0 + b.w - 1
    let shifted := (tabFind b.shifts (ixY i)).isSome
    if b.resilient && !shifted && decide (cause ≤ 4) then
      if spare then { s with sheaves := tabSet s.sheaves h { b with shifts := tabSet b.shifts (ixY i) (b.x0 + b.w - 1) } }
      else
        let s := { s with sheaves := tabSet s.sheaves h { b with shifts := tabSet b.shifts (ixY i) (ixX i) } }
        let s := logAt s 0x0404 0 i (some b.ctx) none (h + 2 ^ 8 * (ixX i) + 2 ^ 16 * (ixY i))
        -- The logical tile now stands on a healthy site.
        let s := setTile s i { tileOf s i with failed := false }
        let cs := b.ctx :: b.second.toList
        cs.foldl (fun s c => partitionReset s c 4 none none) s
    else takeOutOfService s 8

end Sys2Proof.Machine
end

