-- ==== Sys2Proof/Machine/Fabric.lean ====
section
/-! DEFINITION. The wafer fabric (R182 to R216): routes, arbitration and hops on the mesh and the Awn network, arrivals at a
tile, acknowledgements, CONTROL messages, and spare-wire repair. Coordinates are logical throughout (R458). -/
namespace Sys2Proof.Machine

/-! ### Ports and links (R182, R184, R196) -/

/-- The tile at the other end of a port N, E, S or W (0 to 3). -/
def neighbour (w i port : Nat) : Option Nat :=
  let x := ixX i
  let y := ixY i
  if port = 0 then (if y = 0 then none else some (tileIx x (y - 1)))
  else if port = 1 then (if x + 1 < w then some (tileIx (x + 1) y) else none)
  else if port = 2 then (if y + 1 < 256 then some (tileIx x (y + 1)) else none)
  else if port = 3 then (if x = 0 then none else some (tileIx (x - 1) y))
  else none

/-- The input at which a flit that left on N, E, S or W arrives. -/
def farInput (port : Nat) : Nat := if port = 0 then 2 else if port = 1 then 3 else if port = 2 then 0 else 1

/-- A link direction that carries flits: neither paused for repair nor failed (R210, R211). -/
def linkRuns (l : Tab LinkSt) (port : Nat) : Bool :=
  let x := tabGet l port .init
  x.repairing.isEmpty && !x.failed

/-- The router island of a tile has power (R216). -/
def routerUp (s : State) (i : Nat) : Bool := tileUp s i && (tileOf s i).power != .deep

/-- A router or core event of a tile, logged (R208). -/
def tileLog (s : State) (i : Nat) (core : Bool) (kind : Nat) (ctx : Option (BitVec 8)) (arg : Nat) : State :=
  putTile s i (tileEvent (envOf s i) core kind ctx arg (tileOf s i))

/-- Logs an event of a mesh or Awn item of a context. DEDUCED, log entry 45. -/
def itemLog (s : State) (i kind : Nat) (c : BitVec 8) (arg : Nat) : State :=
  ownItem (tileLog s i ((tileOf s i).power == .run) kind (some c) arg) c

/-- Bits [63:32] of a packet's header (R186), as they stand in ARG[63:32] of its events. -/
def hdrArg (p : Pkt) : Nat :=
  2 ^ 32 * (2 ^ 30 * p.rk + flagBit p.add 29 + flagBit p.tok 28 + 2 ^ 24 * p.hop + 2 ^ 21 * p.epoch + flagBit p.psn 20
    + 2 ^ 16 * p.cls + p.seq)

/-- A packet that a die sends towards the Face (5) or Edge (6) input of its tile: it waits at the die for its turn on the link. -/
def fromDie (s : State) (i inp : Nat) (p : Pkt) : State :=
  let t := tileOf s i
  setTile s i { t with meshSrc := tabMod t.meshSrc (4 * inp + p.cls / 4) [] (· ++ [p]) }

/-- An Awn message that a die sends. -/
def awnFromDie (s : State) (i inp : Nat) (m : AwnMsg) : State :=
  let t := tileOf s i
  setTile s i { t with awnSrc := tabMod t.awnSrc (3 * inp + m.pri) [] (· ++ [m]) }

/-- The acceptance of a line write, told to its source (R264). -/
def acceptAck (s : State) (i inp : Nat) (p : Pkt) : State :=
  awnFromDie s i inp ⟨p.srcX, p.srcY, p.epoch, p.ctx, 0, 1, i, false, .ack p.slot 1 true⟩

/-! ### Routes (R183, R200) -/

/-- The last port of a packet: Local, Face or Edge. -/
def endPort : PBody → Nat
  | .line => 4
  | .readData _ _ => 4
  | .swLine _ _ _ => 4
  | .readReq sp _ _ _ _ => if sp = 2 then 6 else 5
  | .write sp _ => if sp = 2 then 6 else 5
  | .landing _ _ _ _ => 6
  | .report _ => 6
  | .swReq _ => 5
  | .fill _ _ _ _ => 5
  | .transit _ _ _ _ => 5

/-- X first, then Y, then the last port. -/
def unicastPort (x y dx dy last : Nat) : Nat :=
  if x < dx then 1 else if dx < x then 3 else if y < dy then 2 else if dy < y then 0 else last

/-- Is a multicast packet that stands at an input on its run? -/
def onRun (p : Pkt) (x y inp : Nat) : Bool :=
  (p.rk == 1 && y == p.dstY && (x == p.dstX || (decide (p.dstX < x) && inp == 3))) ||
    (p.rk == 2 && x == p.dstX && (y == p.dstY || (decide (p.dstY < y) && inp == 0)))

/-- The ports on which a packet leaves a router. -/
def outPorts (p : Pkt) (x y inp : Nat) : List Nat :=
  if onRun p x y inp then (if p.span = 0 then [4] else [4, if p.rk = 1 then 1 else 2])
  else [unicastPort x y p.dstX p.dstY (endPort p.body)]

/-! ### Arbitration of one output (R197) -/

/-- Is there room on an output for a flit of a VC (R196)? A local port holds at most one flit of a VC that waits (R199). -/
def meshRoom (s : State) (i port vc : Nat) : Bool :=
  let t := tileOf s i
  if port = 4 then !t.mesh.eject.any (fun p => p.cls / 4 == vc)
  else if port < 4 then
    match neighbour (gridW s) i port with
    | some j => linkRuns t.links port && routerUp s j &&
        decide ((tabGet (tileOf s j).mesh.inq (4 * farInput port + vc) []).length < 16)
    | none => false
  else linkRuns t.links port

/-- The flit of a VC that an output would serve: round-robin over the inputs, each giving its head; a flit that leaves on
two ports waits until both are free. DEDUCED, log entry 17. -/
def meshPick (s : State) (i port vc : Nat) (ok : Nat × Pkt → Bool) : Option (Nat × Pkt) :=
  let t := tileOf s i
  let last := tabGet (tabGet t.mesh.arb port ⟨0, false, []⟩).rr vc 6
  ((List.range 7).map (fun k => (last + 1 + k) % 7)).findSome? (fun inp =>
    match tabGet t.mesh.inq (4 * inp + vc) [] with
    | p :: _ =>
      let outs := outPorts p (ixX i) (ixY i) inp
      if ok (inp, p) && outs.contains port && outs.all (fun o => meshRoom s i o vc) then some (inp, p) else none
    | [] => none)

/-- Are the vertical links of this tile transit links (R213, R214)? -/
def transitLink (s : State) (i port : Nat) : Bool :=
  let c := gridW s / 8
  let lx := ixX i % c
  s.straps.spur && (port == 0 || port == 2) && (lx == c / 2 - 1 || lx == c / 2)

/-- The flit that an output would send in this cycle, were it to leave on that port alone: the VC3 floor of the window first, then
VC0 to VC3; among those that pass `ok`. -/
def meshBest (s : State) (i port : Nat) (ok : Nat × Pkt → Bool) : Option (Nat × Pkt) :=
  let arb := tabGet (tileOf s i).mesh.arb port ⟨0, false, []⟩
  let floorOk (p : Pkt) : Bool := !transitLink s i port || p.cls == 0xC
  let any := (List.range 4).findSome? (fun vc => meshPick s i port vc ok)
  if arb.low then any
  else match meshPick s i port 3 (fun q => ok q && floorOk q.2) with
    | some r => some r
    | none => any

/-- The flit that an output sends in this cycle. A multicast flit leaves on both its ports in one cycle, so only where the other
port's arbitration gives it that cycle too (R197). -/
def meshChoice (s : State) (i port : Nat) : Option (Nat × Pkt) :=
  meshBest s i port (fun q => (outPorts q.2 (ixX i) (ixY i) q.1).all (fun o =>
    o == port || meshBest s i o (fun _ => true) == some q))

/-! ### Hops -/

/-- Parity errors that the receiver of a link counts in wire groups (R210). DEDUCED, log entry 15. -/
def countErrs (l : Tab LinkSt) (port : Nat) (bad : List Nat) : Tab LinkSt :=
  bad.eraseDups.foldl (fun l g =>
    tabMod l port .init (fun x => { x with groups := tabMod x.groups g ⟨0, []⟩ (fun w => { w with errs := w.errs + 1 }) })) l

/-- A line of the swath view read for a CPY, answered by the port die; or a line written to it and accepted. -/
def faceAccess (s : State) (port i : Nat) (p : Pkt) : State :=
  let mine (off : Nat) : Bool := tabFind s.leases (off / 2 ^ 20) == some p.ctx.toNat
  let w := swathOf s port
  match p.body with
  | .readReq _ off op idx cls =>
    if mine off then
      let a := off % 2 ^ 25
      fromDie s i 5 { p with rk := 0, add := false, tok := false, hop := 0, cls := cls, span := 0, line := 0, dstY := p.srcY
                             dstX := p.srcX, srcY := ixY i, srcX := ixX i, psn := w.bad.contains a
                             data := memLine w.buf a, body := .readData op idx }
    else s
  | .write _ off =>
    if mine off then
      let a := off % 2 ^ 25
      let w := { w with buf := memSetLine w.buf a p.data
                        bad := if p.psn then addNew a w.bad else w.bad.filter (· != a) }
      acceptAck (setSwath s port w) i 5 p
    else s
  | _ => s

/-- A transit frame's line leaves the mesh at its port die: poison on any line becomes HOPBAD, and the last line queues the
frame for its link (R358, R362). -/
def transitOut (s : State) (port : Nat) (psn : Bool) (f : Option RawFrame) : State :=
  let l := linkOf s port
  let bad := l.transitBad || psn
  match f with
  | none => setLink s port { l with transitBad := bad }
  | some f =>
    let f := if bad then { f with trailer := setHopBad f.trailer } else f
    if spurState s (port / 8) ≠ spurAttached then dropFrame (setLink s port { l with transitBad := false }) port f
    else pumpPort (setLink s port { l with transitBad := false, outq := l.outq ++ [f] }) port

/-- A packet passes a Face port to the port die, or an Edge port to the Saddle die; `par`: the receiver found bad payload parity. -/
def toDie (s : State) (i port : Nat) (p : Pkt) (par : Bool) : State :=
  if port = 5 then
    match portOf (gridW s) (ixX i) (ixY i) with
    | none => s
    | some k =>
      let w := swathOf s k
      let fresh := (ctxOf s p.ctx).isSome && p.epoch == epochNow s p.ctx
      if p.rk ≠ 3 && !fresh then ownItem (logAt s 0x1002 3 k (some p.ctx) none 0) p.ctx
      else
      match p.body with
      | .swReq r => setSwath s k { w with reqs := w.reqs ++ [r] }
      | .fill _ e n st => setSwath s k { w with fromMesh := w.fromMesh ++ [⟨e, n, p.data, p.psn, par, st, false⟩] }
      | .transit _ _ _ f => transitOut s k p.psn f
      | _ => faceAccess s k i p
  else
    match attachOf (gridW s) (ixX i) (ixY i) with
    | none => s
    | some (k, link) =>
      match p.body with
      | .report r =>
        -- The retire unit passes a report on over ring class H.
        sendRing s (ringStop k) maelecStop .h p.psn (.report r)
      | _ => updSaddle s k (fun d => { d with links := tabMod d.links link [] (· ++ [p]) })

/-- One copy of a flit leaves on one port; `bad` names the wire groups of the link that showed a parity error at the
receiver: groups 0 and 1 carry the header, 2 and 3 the routing word, 4 to 19 the payload. -/
def meshOut (s : State) (i port : Nat) (p : Pkt) (bad : List Nat) : State :=
  let t := tileOf s i
  let p := { p with psn := p.psn || bad.any (fun g => decide (g < 2 ∨ (4 ≤ g ∧ g < 20))) }
  if port = 4 then setTile s i { t with mesh := { t.mesh with eject := t.mesh.eject ++ [p] } }
  else
    let s := if bad.isEmpty then s else setTile s i { t with links := countErrs t.links port bad }
    let lost := bad.any (fun g => decide (g = 2 ∨ g = 3))
    match neighbour (gridW s) i port with
    | some j =>
      if lost then itemLog s j 0x1102 p.ctx (hdrArg p)
      else
        let p := { p with hop := (p.hop + 1) % 16 }
        let u := tileOf s j
        setTile s j { u with mesh := { u.mesh with inq := tabMod u.mesh.inq (4 * farInput port + p.cls / 4) [] (· ++ [p]) } }
    | none => if lost then itemLog s i 0x1102 p.ctx (hdrArg p)
      else toDie s i port p (bad.any (fun g => decide (4 ≤ g ∧ g < 20)))

/-- An output's arbitration state after a cycle in which it sent a flit that came in at an input, or none (R197). -/
def arbAfter (s : State) (i port : Nat) (sent : Option (Nat × Pkt)) : ArbState :=
  let a := tabGet (tileOf s i).mesh.arb port ⟨0, false, []⟩
  let counts := match sent with
    | some (_, p) => p.cls / 4 == 3 && (!transitLink s i port || p.cls == 0xC)
    | none => false
  let pos := (a.pos + 1) % 8
  ⟨pos, if pos = 0 then false else a.low || counts, match sent with
    | some (inp, p) => tabSet a.rr (p.cls / 4) inp
    | none => a.rr⟩

/-- One arbitration cycle of one router output. DEDUCED, log entry 15. -/
def routerHop (s : State) (i port : Nat) (bad : List Nat) : State :=
  let t := tileOf s i
  match meshChoice s i port with
  | none => setTile s i { t with mesh := { t.mesh with arb := tabSet t.mesh.arb port (arbAfter s i port none) } }
  | some (inp, p) =>
    let key := 4 * inp + p.cls / 4
    let outs := outPorts p (ixX i) (ixY i) inp
    let t := { t with mesh := { t.mesh with
      arb := outs.foldl (fun l o => tabSet l o (arbAfter s i o (some (inp, p)))) t.mesh.arb
      inq := tabPut t.mesh.inq key [] ((tabGet t.mesh.inq key []).drop 1) } }
    let t := if inp = 4 then pullMesh key t else t
    let run := onRun p (ixX i) (ixY i) inp
    outs.foldl (fun s o =>
      meshOut s i o (if run ∧ o ≠ 4 then { p with span := p.span - 1 } else p) (if o = port then bad else [])) (setTile s i t)

/-- The input, 5 or 6, behind the face or edge link whose die end port 7 or 8 names. DESIGN CHOICE, log entry 48. -/
def dieInput (port : Nat) : Nat := port - 2

/-- May the head of a VC at a die's end of its link go: the input has a credit (R196); a TRN packet only in a cycle that its column's
vertical link reserves for it, with none before it waiting at the input (R213). -/
def dieMay (s : State) (i inp vc : Nat) : Bool :=
  let t := tileOf s i
  match tabGet t.meshSrc (4 * inp + vc) [] with
  | [] => false
  | p :: _ =>
    let q := tabGet t.mesh.inq (4 * inp + vc) []
    decide (q.length < 16) && (p.cls != 0xC || (q.isEmpty && (outPorts p (ixX i) (ixY i) inp).all (fun o =>
      !transitLink s i o || !(tabGet t.mesh.arb o ⟨0, false, []⟩).low)))

/-- A die sends the flit of its lowest VC that may go over its link into its tile's router, which checks parity and counts it as the
receiver (R190, R210). DESIGN CHOICE, log entry 48. -/
def dieHop (s : State) (i inp : Nat) (bad : List Nat) : State :=
  let t := tileOf s i
  if !linkRuns t.dieLinks inp then s
  else match (List.range 4).find? (dieMay s i inp) with
    | none => s
    | some vc =>
      let key := 4 * inp + vc
      match tabGet t.meshSrc key [] with
      | [] => s
      | p :: rest =>
        let t := { t with meshSrc := tabPut t.meshSrc key [] rest
                          dieLinks := if bad.isEmpty then t.dieLinks else countErrs t.dieLinks inp bad }
        if bad.any (fun g => decide (g = 2 ∨ g = 3)) then itemLog (setTile s i t) i 0x1102 p.ctx (hdrArg p)
        else
          let p := { p with psn := p.psn || bad.any (fun g => decide (g < 2 ∨ (4 ≤ g ∧ g < 20))) }
          setTile s i { t with mesh := { t.mesh with inq := tabMod t.mesh.inq key [] (· ++ [p]) } }

/-- MESH_FLIT_HOP: one arbitration cycle of a router output, ports 0 to 6, or of a die's end of the face (7) or edge (8) link. -/
def meshHop (s : State) (i port : Nat) (bad : List Nat) : State :=
  if !routerUp s i then s
  else if port < 7 then routerHop s i port bad
  else dieHop s i (dieInput port) bad

/-! ### Arrival at a tile (R189 to R192) -/

def classKnown (c : Nat) : Bool := [0x0, 0x1, 0x4, 0x5, 0x8, 0x9, 0xC, 0xD].contains c

/-- A packet that R189 discards. -/
def malformedPkt (p : Pkt) : Bool :=
  !classKnown p.cls || decide (0xE ≤ p.fmt) || p.rsv != 0 || decide (0xC00 ≤ p.line)

/-- Hops from a packet's source to a tile: along the row, along the column, along the run. -/
def pathHops (p : Pkt) (x y : Nat) : Nat :=
  (p.srcX - p.dstX) + (p.dstX - p.srcX) + (p.srcY - p.dstY) + (p.dstY - p.srcY) + (x - p.dstX) + (y - p.dstY)

/-- Does a line meet a queued or started instruction whose accesses no earlier RECV of the tile guards (R41)? The context's
results are then undefined (R88). DESIGN CHOICE, log entry 8. -/
def hazard (t : Tile) (lo : Nat) : Bool :=
  let l : List Rng := [⟨lo, 64⟩]
  let isRecv (o : UOp) : Bool := match o.kind with
    | .recv _ _ _ => true
    | _ => false
  let ops := pendingOps t
  ops.any (fun o => !isRecv o && anyOverlap l (o.rds ++ o.wrs) &&
    !ops.any (fun r => isRecv r && decide (r.no < o.no) && anyOverlap l r.wrs))

/-- One more packet to acknowledge; an entry takes at most 64 (R192). -/
def owe (p : Pkt) (src : Nat) (swath : Bool) : List AckDue → List AckDue
  | [] => [⟨src, swath, p.slot, p.ctx, p.epoch, 1⟩]
  | a :: l =>
    if a.src = src ∧ a.swath = swath ∧ a.slot = p.slot ∧ a.ctx = p.ctx ∧ a.epoch = p.epoch ∧ a.n < 64 then { a with n := a.n + 1 } :: l
    else a :: owe p src swath l

/-- The poison of an arrival (R191): the mark on the line, and the report. DEDUCED, log entry 20. -/
def poisonArrival (e : Env) (p : Pkt) (lo : Nat) (t : Tile) : Tile :=
  if p.psn then ueReport e 0x0206 (some p.ctx) (tileIx p.srcX p.srcY) (sramPoison lo t) else t

/-- The line that an arrival writes: the payload, or an undefined one where a hazard of R41 is not covered. DESIGN CHOICE, log entry 8. -/
def arrivedLine (s : State) (t : Tile) (lo : Nat) (d : Line) : Line := if hazard t lo then Config.freeLine s.free else d

/-- An ordinary line: none while the router holds it for want of a counter or table entry (R65, R109). -/
def takeLine (e : Env) (p : Pkt) (d : Line) (t : Tile) : Option Tile :=
  let lo := 64 * p.line
  let written := if p.add then sramAdd e lo d.toNat t else sramPut e lo 64 d.toNat t
  let done := { poisonArrival e p lo written with acks := owe p (tileIx p.srcX p.srcY) false t.acks }
  if p.tok then tokenArrive p.ctx p.tid done else rxArrive e p.ctx p.tid done

/-- The started copy instruction of a number, if it is the tile's. -/
def copyOf (t : Tile) (no : Nat) : Option UOp := t.cpy.filter (fun o => o.no == no)
def copyGot (t : Tile) : Tile := { t with cpy := t.cpy.map (fun o => { o with left := o.left - 1 }) }

/-- Bytes of a line chosen by a mask, over an old line. -/
def mergeLine (old new : Line) (mask : BitVec 64) : Line :=
  BitVec.ofNat 512 (leNat (((toBytes 64 old.toNat).zip (toBytes 64 new.toNat)).zipIdx.map (fun p =>
    if mask.getLsbD p.2 then p.1.2 else p.1.1)))

/-- A line that answers a CPY read or a SWREAD is written, and the instruction that waits for it counts it; with none waiting
it is discarded without a bank access. A swath line is acknowledged to the swath controller (R200); words of which it carries only
some bytes are read and checked first (R56). -/
def takeAnswer (e : Env) (p : Pkt) (t : Tile) : Tile :=
  match p.body with
  | .readData no idx =>
    match (copyOf t no).map UOp.kind with
    | some (.cpy _ _ _ dst _ add _ _ _) =>
      let lo := dst + 64 * idx
      let t := if add then sramAdd e lo p.data.toNat t else sramPut e lo 64 p.data.toNat t
      copyGot (poisonArrival e p lo t)
    | _ => t
  | .swLine readers off mask =>
    match (readers.find? (fun r => r.1 == e.me)).bind (fun r => copyOf t r.2) with
    | some o =>
      match o.kind with
      | .swread _ dst _ _ _ _ _ _ _ =>
        let lo := dst + off
        let part (w : Nat) : Bool := let m := mask.extractLsb' (8 * w) 8; m != 0 && m != 0xFF
        let t := ((List.range 8).filter part).foldl (fun t w => sramTouch e (lo + 8 * w) 8 t) t
        let marks := t.poison
        let kept (w : Nat) : Bool := decide (lo / 8 ≤ w ∧ w < lo / 8 + 8) && mask.extractLsb' (8 * (w - lo / 8)) 8 != 0xFF
        let soft := t.soft.filter kept
        let t := sramPut e lo 64 (mergeLine (memLine t.sram lo) p.data mask).toNat t
        let t := { t with poison := (t.poison ++ marks.filter kept).eraseDups, soft := (t.soft ++ soft).eraseDups
                          acks := owe p (tileIx p.srcX p.srcY) true t.acks }
        copyGot (poisonArrival e p lo t)
      | _ => t
    | none => t
  | _ => t

/-- The bank that an arriving packet writes. -/
def arrivalBank (e : Env) (t : Tile) (p : Pkt) : Option Nat :=
  match p.body with
  | .line => some (bankOf (64 * p.line))
  | .readData no idx =>
    match (copyOf t no).map UOp.kind with
    | some (.cpy _ _ _ dst _ _ _ _ _) => some (bankOf (dst + 64 * idx))
    | _ => none
  | .swLine readers off _ =>
    match ((readers.find? (fun r => r.1 == e.me)).bind (fun r => copyOf t r.2)).map UOp.kind with
    | some (.swread _ dst _ _ _ _ _ _ _) => some (bankOf (dst + off))
    | _ => none
  | _ => none

/-- A packet ejected at a tile, in the order of R189, R190 and R191; none while it is held. The tile holds an EPOCH to compare for its
role contexts only: a packet of another context fails the ownership check, whoever owns the bank, and is logged as ISOLATION. DEDUCED,
log entry 48. -/
def takePacket (s : State) (i : Nat) (p : Pkt) : Option State :=
  if malformedPkt p then some (itemLog s i 0x1101 p.ctx (hdrArg p))
  else
    let off := p.hop != pathHops p (ixX i) (ixY i) % 16
    let s1 := if off then itemLog s i 0x1102 p.ctx (hdrArg p) else s
    let p := { p with psn := p.psn || off }
    let t := tileOf s1 i
    let core := t.power == .run
    match roleOfCtx t p.ctx with
    | none => some (tileLog s1 i core 0x1001 (some p.ctx) (2 ^ 32))
    | some (sec, r) =>
      if r.epoch ≠ p.epoch then some (itemLog s1 i 0x1002 p.ctx 0)
      else
        let e := envOf s1 i
        match arrivalBank e t p with
        | none => some s1
        | some b =>
          if tabGet t.sramOwn b 0 ≠ roleTag sec then some (tileLog s1 i core 0x1001 (some p.ctx) (2 ^ 32))
          else match p.body with
            | .line =>
              (takeLine e p (arrivedLine s1 t (64 * p.line) p.data) t).map (fun t' =>
                putTile (if hazard t (64 * p.line) then { s1 with free := s1.free + 1 } else s1) i t')
            | _ => some (putTile s1 i (takeAnswer e p t))

/-- The ejected packets of a tile in order: the first that is not held is handled. -/
def takeFirst (s : State) (i : Nat) (before : List Pkt) : List Pkt → State
  | [] => s
  | p :: rest =>
    let t := tileOf s i
    match takePacket (setTile s i { t with mesh := { t.mesh with eject := before ++ rest } }) i p with
    | some s' => s'
    | none => takeFirst s i (before ++ [p]) rest

/-- MESH_PACKET_ARRIVAL. -/
def meshArrival (s : State) (i : Nat) : State :=
  if routerUp s i then takeFirst s i [] (tileOf s i).mesh.eject else s

/-- ACK_SEND: the n-th owed acknowledgement leaves as one message at priority 1 (R192). -/
def ackSend (s : State) (i n : Nat) : State :=
  if !routerUp s i then s
  else
    let t := tileOf s i
    match t.acks[n]? with
    | none => s
    | some a => setTile s i (injectAwn { t with acks := t.acks.eraseIdx n }
        ⟨ixX a.src, ixY a.src, a.epoch, a.ctx, 0, 1, i, false, if a.swath then .swAck a.n else .ack a.slot a.n false⟩)

/-! ### The Awn network (R204 to R207) -/

/-- KIND of a message (R205). -/
def awnKind : AwnBody → Nat
  | .token => 1
  | .count => 2
  | .ack _ _ _ => 3
  | .swAck _ => 3
  | .complTask _ _ _ _ _ _ => 4
  | .complDetail _ _ _ => 4
  | .probe _ _ => 5
  | .answer _ _ => 5
  | .routerAnswer _ _ => 5
  | .reserved k _ => k

/-- A CONTROL body: SUB, tile index and probe tag (R206). -/
def ctlBits (sub tile tag : Nat) : Nat := 2 ^ 29 * sub + 2 ^ 13 * (tile % 2 ^ 16) + tag % 2 ^ 13

/-- Bits [32:0] of a message: TID and ARG (R205), the CONTROL body (R206), or a form of COMPLETION with DET, TASK, STATUS and INST or
TRAP, UNIT and PC (R238). -/
def awnLow (m : AwnMsg) : Nat :=
  match m.body with
  | .token => 2 ^ 13 * m.tid.toNat
  | .count => 2 ^ 13 * m.tid.toNat
  | .ack slot n _ => 2 ^ 7 * (slot % 2 ^ 6) + 2 * ((n - 1) % 2 ^ 6)
  | .swAck n => 2 * ((n - 1) % 2 ^ 6)
  | .complTask _ task faulted step _ _ => 2 ^ 12 * (task % 2 ^ 20) + flagBit faulted 10 + step.toNat % 2 ^ 10
  | .complDetail trap unit pc => 2 ^ 32 + 2 ^ 29 * (trap % 8) + 2 ^ 27 * (unit % 4) + 2 ^ 12 * (pc % 2 ^ 15)
  | .probe tile tag => ctlBits 1 tile tag
  | .answer tile tag => ctlBits 2 tile tag
  | .routerAnswer tile tag => ctlBits 3 tile tag
  | .reserved _ low => low % 2 ^ 33

/-- The 64 bits of a message (R205), and its bits [63:32] as ARG[63:32] of AWN_ERROR. -/
def awnBits (m : AwnMsg) : Nat :=
  2 ^ 56 * m.dstX + 2 ^ 48 * m.dstY + 2 ^ 44 * awnKind m.body + 2 ^ 41 * m.epoch + 2 ^ 33 * m.ctx.toNat + awnLow m
def awnArg (m : AwnMsg) : Nat := 2 ^ 32 * (awnBits m / 2 ^ 32)

/-- Is the KIND of a message, or the SUB of a CONTROL message, reserved (R205, R206)? -/
def awnReserved : AwnBody → Bool
  | .reserved _ _ => true
  | _ => false

/-- The last port of a message: the retire unit behind the Edge port, the swath controller behind the Face port, or the tile. -/
def awnEnd (m : AwnMsg) : Nat :=
  if m.toSaddle then 6 else match m.body with
    | .swAck _ => 5
    | _ => 4
def awnPort (m : AwnMsg) (x y : Nat) : Nat := unicastPort x y m.dstX m.dstY (awnEnd m)

/-- Room on an output for a message of a priority: 4 at the next input, one that waits at the local port. -/
def awnRoom (s : State) (i port pri : Nat) : Bool :=
  let t := tileOf s i
  if port = 4 then !t.awn.eject.any (fun m => m.pri == pri)
  else if port < 4 then
    match neighbour (gridW s) i port with
    | some j => linkRuns t.awnLinks port && routerUp s j &&
        decide ((tabGet (tileOf s j).awn.inq (3 * farInput port + pri) []).length < 4)
    | none => false
  else linkRuns t.awnLinks port && (match port, attachOf (gridW s) (ixX i) (ixY i) with
    | 6, some (k, _) => decide (((saddleOf s k).inbox.filter (fun m => m.pri == pri)).length < 4)
    | _, _ => true)

/-- DEDUCED, log entry 17. -/
def awnPick (s : State) (i port pri : Nat) : Option (Nat × AwnMsg) :=
  let t := tileOf s i
  let last := tabGet (tabGet t.awn.arb port ⟨0, false, []⟩).rr pri 6
  ((List.range 7).map (fun k => (last + 1 + k) % 7)).findSome? (fun inp =>
    match tabGet t.awn.inq (3 * inp + pri) [] with
    | m :: _ => if awnPort m (ixX i) (ixY i) == port && awnRoom s i port pri then some (inp, m) else none
    | [] => none)

/-- An acknowledgement of swath lines reaches the swath controller. -/
def swathAcked (s : State) (i : Nat) (m : AwnMsg) : State :=
  match m.body, portOf (gridW s) (ixX i) (ixY i) with
  | .swAck n, some k =>
    let w := swathOf s k
    setSwath s k { w with owed := tabMod w.owed m.ctx.toNat 0 (· - n) }
  | _, _ => s

/-- An Awn message moves over one link or into its tile, Saddle die or swath controller; bad parity or a reserved kind discards it. -/
def awnOut (s : State) (i port : Nat) (m : AwnMsg) (bad : Bool) : State :=
  let t := tileOf s i
  let s := if bad ∧ port ≠ 4 then setTile s i { t with awnLinks := countErrs t.awnLinks port [0] } else s
  let far := (neighbour (gridW s) i port).getD i
  if (bad && port != 4) || awnReserved m.body then itemLog s far 0x1103 m.ctx (awnArg m)
  else if port = 4 then
    let t := tileOf s i
    setTile s i { t with awn := { t.awn with eject := t.awn.eject ++ [m] } }
  else match neighbour (gridW s) i port with
    | some j =>
      let u := tileOf s j
      setTile s j { u with awn := { u.awn with inq := tabMod u.awn.inq (3 * farInput port + m.pri) [] (· ++ [m]) } }
    | none =>
      if port = 5 then swathAcked s i m
      else match attachOf (gridW s) (ixX i) (ixY i) with
        | some (k, _) => updSaddle s k (fun d => { d with inbox := d.inbox ++ [m] })
        | none => s

/-- A die sends the Awn message of its highest priority that has a credit into its tile's router (R204), which checks parity and
counts it as the receiver. DESIGN CHOICE, log entry 48. -/
def dieAwnHop (s : State) (i inp : Nat) (bad : Bool) : State :=
  let t := tileOf s i
  if !linkRuns t.dieAwn inp then s
  else
    let head (pri : Nat) : Option (AwnMsg × List AwnMsg) :=
      match tabGet t.awnSrc (3 * inp + pri) [] with
      | m :: rest => if (tabGet t.awn.inq (3 * inp + pri) []).length < 4 then some (m, rest) else none
      | [] => none
    match (List.range 3).findSome? head with
    | none => s
    | some (m, rest) =>
      let key := 3 * inp + m.pri
      let t := { t with awnSrc := tabPut t.awnSrc key [] rest
                        dieAwn := if bad then countErrs t.dieAwn inp [0] else t.dieAwn }
      if bad || awnReserved m.body then itemLog (setTile s i t) i 0x1103 m.ctx (awnArg m)
      else setTile s i { t with awn := { t.awn with inq := tabMod t.awn.inq key [] (· ++ [m]) } }

/-- AWN_HOP: one message of one output, or of a die's end of the face (7) or edge (8) link. Strict priority, but priority 2 at least
once in 8 messages while it waits. -/
def awnHop (s : State) (i port : Nat) (bad : Bool) : State :=
  if !routerUp s i then s
  else if 7 ≤ port then dieAwnHop s i (dieInput port) bad
  else
    let t := tileOf s i
    let a := tabGet t.awn.arb port ⟨0, false, []⟩
    let p2 := awnPick s i port 2
    let pick := if a.pos ≥ 7 ∧ p2.isSome then p2 else (List.range 3).findSome? (awnPick s i port)
    match pick with
    | none => s
    | some (inp, m) =>
      let pos := if m.pri = 2 then 0 else if p2.isSome then a.pos + 1 else a.pos
      let key := 3 * inp + m.pri
      let t := { t with awn := { t.awn with
        arb := tabSet t.awn.arb port ⟨pos, false, tabSet a.rr m.pri inp⟩
        inq := tabPut t.awn.inq key [] ((tabGet t.awn.inq key []).drop 1) } }
      let t := if inp = 4 then pullAwn key t else t
      awnOut (setTile s i t) i port m bad

/-- The message of a priority that waits at a tile's local port, and the tile without it. -/
def awnHead (s : State) (i pri : Nat) : Option (AwnMsg × Tile) :=
  let t := tileOf s i
  if !routerUp s i then none
  else (t.awn.eject.find? (fun m => m.pri == pri)).map (fun m =>
    (m, { t with awn := { t.awn with eject := t.awn.eject.filter (fun m => m.pri != pri) } }))

/-- Is a message of a tile's context of the present EPOCH (R205, as R191)? A message of a context that the tile does not hold is not, and
is logged as STALE_EPOCH: a message names no bank to own. DEDUCED, log entry 48. -/
def awnFresh (t : Tile) (m : AwnMsg) : Bool :=
  match roleOfCtx t m.ctx with
  | some (_, r) => r.epoch == m.epoch
  | none => false

/-- TOKEN: counted at once, held while no table entry is free (R65, R229). -/
def awnToken (s : State) (i pri : Nat) : State :=
  match awnHead s i pri with
  | some (m, t) =>
    if m.body ≠ .token then s
    else if !awnFresh t m then itemLog (setTile s i t) i 0x1002 m.ctx 0
    else match tokenArrive m.ctx m.tid t with
      | some t' => putTile s i t'
      | none => s
  | none => s

/-- COUNT: one unit in the receive counter of its key, held while no counter is free (R109). -/
def awnCount (s : State) (i pri : Nat) : State :=
  match awnHead s i pri with
  | some (m, t) =>
    if m.body ≠ .count then s
    else if !awnFresh t m then itemLog (setTile s i t) i 0x1002 m.ctx 0
    else match rxArrive (envOf s i) m.ctx m.tid t with
      | some t' => putTile s i t'
      | none => s
  | none => s

/-- ACK: packets or lines of a source slot are acknowledged (R192, R264). -/
def awnAck (s : State) (i pri : Nat) : State :=
  match awnHead s i pri with
  | some (m, t) =>
    match m.body with
    | .ack k n hbm =>
      if !awnFresh t m then itemLog (setTile s i t) i 0x1002 m.ctx 0
      else putTile s i (slotUpd t k (fun sl => if sl.task.ctx ≠ m.ctx then sl
        else if hbm then { sl with hbmOwed := sl.hbmOwed - n } else { sl with owed := sl.owed - n }))
    | _ => s
  | none => s

/-- The answer of a tile to a PROBE, to its retire unit at priority 0 (R206). -/
def probeAnswer (s : State) (i tag : Nat) (router : Bool) : State :=
  let w := gridW s
  let d := attachTile w (retireSaddle w i) 0
  setTile s i (injectAwn (tileOf s i) ⟨d.1, d.2, 0, 0, 0, 0, i, true, if router then .routerAnswer i tag else .answer i tag⟩)

/-- A retire unit sends a PROBE to a tile on Maelec's request, through its first attachment tile at priority 0 (R206). -/
def sendProbe (s : State) (i tag : Nat) : State :=
  if tileUp s i ∧ !s.cairn.probing.contains i then
    let w := gridW s
    let d := attachTile w (retireSaddle w i) 0
    let s := { s with cairn := { s.cairn with probing := s.cairn.probing ++ [i] } }
    awnFromDie s (tileIx d.1 d.2) 6 ⟨ixX i, ixY i, 0, 0, 0, 0, tileIx d.1 d.2, false, .probe i tag⟩
  else s

/-- A PROBE that has reached its tile: a running core island answers; a fallow one leaves the answer to its router; one that is dead or
silent leaves it to the router's timeout. -/
def probeReached (s : State) (i tag : Nat) (silent : Bool) (t : Tile) : State :=
  if t.power = .fallow then probeAnswer (setTile s i t) i tag true
  else if silent || t.failed then setTile s i { t with probes := t.probes ++ [tag] }
  else probeAnswer (setTile s i t) i tag false

/-- PROBE: the PROBE at the tile's local port is taken; where none has come, Maelec has one sent to the tile, unless one is under
way. DESIGN CHOICE, log entry 48. -/
def probeTile (s : State) (i tag : Nat) (silent : Bool) : State :=
  match awnHead s i 0 with
  | some (m, t) =>
    match m.body with
    | .probe _ g => probeReached s i g silent t
    | _ => sendProbe s i tag
  | none => sendProbe s i tag

/-- CORE_ANSWER_TIMEOUT: the router answers the oldest probe that the core has not. -/
def coreTimeout (s : State) (i : Nat) : State :=
  let t := tileOf s i
  match t.probes with
  | tag :: rest => if routerUp s i then probeAnswer (setTile s i { t with probes := rest }) i tag true else s
  | [] => s

/-- The answer that a message carries, with whether a router gave it. -/
def answerOf : AwnBody → Option (Nat × Nat × Bool)
  | .answer tile tag => some (tile, tag, false)
  | .routerAnswer tile tag => some (tile, tag, true)
  | _ => none

/-- ANSWER and ROUTER_ANSWER: the retire unit passes the oldest answer of its inbox to Maelec over ring class H. -/
def passAnswer (s : State) (k : Nat) (router : Bool) : State :=
  let d := saddleOf s k
  match d.inbox.findIdx? (fun m => (answerOf m.body).isSome) with
  | none => s
  | some n =>
    match (d.inbox[n]?).bind (fun m => answerOf m.body) with
    | some (tile, tag, r) =>
      if r = router then sendRing (setSaddle s k { d with inbox := d.inbox.eraseIdx n }) (ringStop k) maelecStop .h false (.answer tile tag router)
      else s
    | none => s

/-! ### Spare-wire repair (R210 to R212) -/

/-- The links of one network that a port of the repair rows names: 0 to 6 the tile's output, 7 and 8 the die-to-tile direction of the
face and edge links. -/
def linksOf (t : Tile) (awn : Bool) (port : Nat) : Tab LinkSt :=
  if port < 7 then (if awn then t.awnLinks else t.links) else (if awn then t.dieAwn else t.dieLinks)
def setLinks (t : Tile) (awn : Bool) (port : Nat) (l : Tab LinkSt) : Tile :=
  if port < 7 then (if awn then { t with awnLinks := l } else { t with links := l })
  else (if awn then { t with dieAwn := l } else { t with dieLinks := l })
def linkIx (port : Nat) : Nat := if port < 7 then port else dieInput port

/-- The port number of LINK_FAILED: N, E, S, W, face, edge. -/
def linkPortNo (port : Nat) : Nat := if port < 4 then port else linkIx port - 1

/-- LINK_SPARE: a group with 2 errors pauses its link and steers its failing wires to spares; a third failed wire fails the
link direction, on which no flit is sent from then on, and takes the engine out of service. A repair counts in TLM_CE5. The other
direction is its own link here.
DEDUCED, log entry 48. -/
def linkSpare (s : State) (i port group : Nat) (awn : Bool) (wires : BitVec 32) : State :=
  let t := tileOf s i
  let ls := linksOf t awn port
  let l := tabGet ls (linkIx port) .init
  let g := tabGet l.groups group ⟨0, []⟩
  if !routerUp s i || port == 4 || l.failed || decide (g.errs < 2) then s
  else
    let named := (List.range 32).filter (fun k => wires.getLsbD k)
    let steered := named.foldl (fun l k => if l.contains k then l else l ++ [k]) g.steered
    let far := if port < 7 then (neighbour (gridW s) i port).getD i else i
    if steered.length > 2 then
      let s := setTile s i (setLinks t awn port (tabSet ls (linkIx port) { l with failed := true }))
      let s := tileLog s far false 0x0402 none (linkPortNo port + group * 8 + flagBit awn 8)
      takeOutOfService s 8
    else
      let l := { l with repairing := addNew group l.repairing, groups := tabSet l.groups group ⟨0, steered⟩ }
      ceAdd (tileLog (setTile s i (setLinks t awn port (tabSet ls (linkIx port) l))) far false 0x1104 none
        (group + 2 ^ 8 * wires.toNat)) 5

/-- Changes one group's state on a link. -/
def onGroup (s : State) (i port group : Nat) (awn : Bool) (f : LinkSt → LinkSt) : State :=
  let t := tileOf s i
  let ls := linksOf t awn port
  if !routerUp s i || (tabFind ls (linkIx port)).isNone then s
  else setTile s i (setLinks t awn port (tabMod ls (linkIx port) .init (fun l =>
    f { l with groups := tabMod l.groups group ⟨0, []⟩ (fun g => { g with errs := 0 }) })))

/-- LINK_REPAIR_COMPLETE: the group's count restarts and its pause ends. -/
def linkRepaired (s : State) (i port group : Nat) (awn : Bool) : State :=
  onGroup s i port group awn (fun l => { l with repairing := l.repairing.filter (· != group) })

/-- PARITY_WINDOW_EXPIRY: the group's count restarts. -/
def parityWindow (s : State) (i port group : Nat) (awn : Bool) : State := onGroup s i port group awn id

/-- MESH_FLIT_HOP (R197). -/
def execMeshFlitHop (tile port : Nat) (bad : List Nat) (s : State) : Host.Outcome State Fault Refusal :=
  .next (meshHop s tile port bad)

/-- MESH_PACKET_ARRIVAL (R191). -/
def execMeshPacketArrival (tile : Nat) (s : State) : Host.Outcome State Fault Refusal :=
  .next (meshArrival s tile)

/-- ACK_SEND (R192). -/
def execAckSend (tile n : Nat) (s : State) : Host.Outcome State Fault Refusal :=
  .next (ackSend s tile n)

/-- AWN_HOP (R207). -/
def execAwnHop (tile port : Nat) (bad : Bool) (s : State) : Host.Outcome State Fault Refusal :=
  .next (awnHop s tile port bad)

/-- TOKEN (R65). -/
def execToken (tile pri : Nat) (s : State) : Host.Outcome State Fault Refusal :=
  .next (awnToken s tile pri)

/-- COUNT (R109). -/
def execCount (tile pri : Nat) (s : State) : Host.Outcome State Fault Refusal :=
  .next (awnCount s tile pri)

/-- ACK (R192). -/
def execAck (tile pri : Nat) (s : State) : Host.Outcome State Fault Refusal :=
  .next (awnAck s tile pri)

/-- PROBE (R206). -/
def execProbe (tile tag : Nat) (silent : Bool) (s : State) : Host.Outcome State Fault Refusal :=
  .next (probeTile s tile tag silent)

/-- CORE_ANSWER_TIMEOUT (R206). -/
def execCoreAnswerTimeout (tile : Nat) (s : State) : Host.Outcome State Fault Refusal :=
  .next (coreTimeout s tile)

/-- ANSWER (R206). -/
def execAnswer (saddle : Nat) (s : State) : Host.Outcome State Fault Refusal :=
  .next (passAnswer s saddle false)

/-- ROUTER_ANSWER (R206). -/
def execRouterAnswer (saddle : Nat) (s : State) : Host.Outcome State Fault Refusal :=
  .next (passAnswer s saddle true)

/-- LINK_SPARE (R210). -/
def execLinkSpare (tile port group : Nat) (awn : Bool) (wires : BitVec 32) (s : State) : Host.Outcome State Fault Refusal :=
  .next (linkSpare s tile port group awn wires)

/-- LINK_REPAIR_COMPLETE (R210). -/
def execLinkRepairComplete (tile port group : Nat) (awn : Bool) (s : State) : Host.Outcome State Fault Refusal :=
  .next (linkRepaired s tile port group awn)

/-- PARITY_WINDOW_EXPIRY (R210). -/
def execParityWindowExpiry (tile port group : Nat) (awn : Bool) (s : State) : Host.Outcome State Fault Refusal :=
  .next (parityWindow s tile port group awn)

end Sys2Proof.Machine
end

