-- ==== Sys2Proof/Machine/Saddle.lean ====
section
/-! DEFINITION. The memory path of the Saddle dies (R258 to R266), the escalation append line (R256), and the health combine port
(R257, R168 to R170). -/
namespace Sys2Proof.Machine

/-! ### Counters of corrected errors (R434, R513) -/

/-- A report over the Crest ring from a stop to Maelec (R435). -/
def ringReport (s : State) (src : Nat) (r : LogRec) : State := sendRing s src maelecStop .h false (.report r)

/-! ### Checks of a packet at a Saddle die (R260) -/

/-- What the checks find: the packet may go on at a physical address, waits for a scrub, or is discarded. -/
inductive SadChk where
  | good (x : Ctx) (phys : Nat)
  | wait
  | drop (s : State)

/-- Is a slab being scrubbed for a context? -/
def scrubPending (d : Saddle) (slab : Nat) (c : BitVec 8) : Bool :=
  d.scrubs.any (fun r => r.slabs.contains slab && r.owner == some c)

/-- The checks of a view offset: EPOCH first, then the slab's owner. DEDUCED, log entry 20. -/
def saddleCheck (s : State) (k : Nat) (c : BitVec 8) (epoch off : Nat) : SadChk :=
  let d := saddleOf s k
  let iso : SadChk := .drop (logAt s 0x1001 2 k (some c) none (2 * 2 ^ 32))
  if epoch ≠ tabGet d.epochs c.toNat 0 then .drop (ownItem (logAt s 0x1002 2 k (some c) none 0) c)
  else match ctxOf s c with
    | none => iso
    | some x =>
      match viewPhys x off with
      | none => iso
      | some a =>
        let slab := a % 2 ^ 36 / 2 ^ 27
        if a / 2 ^ 36 ≠ k then iso
        else if tabFind d.owner slab = some c then .good x a
        else if scrubPending d slab c then .wait
        else iso

def saddleHead (s : State) (k link : Nat) : Option Pkt := (tabGet (saddleOf s k).links link [])[0]?
def saddlePop (s : State) (k link : Nat) : State :=
  updSaddle s k (fun d => { d with links := tabPut d.links link [] ((tabGet d.links link []).drop 1) })

/-! ### Lines known bad (R444) -/

/-- Lines a Saddle die records per context. A 257th entry stands for the overflow that ends the context's replay. -/
def badMax : Nat := 256

/-- DEDUCED, log entry 20. -/
def markBad (s : State) (k : Nat) (c : BitVec 8) (phys : Nat) : State :=
  let l := phys / 64
  let s := { s with hbmBad := addNew l s.hbmBad }
  updSaddle s k (fun d =>
    let old := tabGet d.bad c.toNat []
    { d with bad := tabSet d.bad c.toNat (if old.length > badMax then old else addNew l old) })

def unmarkBad (s : State) (k : Nat) (c : BitVec 8) (phys : Nat) : State :=
  let l := phys / 64
  let s := { s with hbmBad := s.hbmBad.filter (· != l) }
  updSaddle s k (fun d => { d with bad := tabPut d.bad c.toNat [] ((tabGet d.bad c.toNat []).filter (· != l)) })

/-- Does a view offset lie in a line known bad? -/
def lineBad (s : State) (x : Ctx) (off : Nat) : Bool := match viewPhys x off with
  | some a => s.hbmBad.contains (a / 64)
  | none => false

/-- A line write takes effect at its acceptance (R264, R265). A poisoned line is kept as a bad one and reported. -/
def writeLine (s : State) (k : Nat) (p : Pkt) (phys : Nat) : State :=
  let s := { s with hbm := memSetLine s.hbm (phys / 64 * 64) p.data }
  if p.psn then
    ringReport (markBad s k p.ctx phys) (ringStop k)
      ⟨0x0206, 2, k, some p.ctx, none, none, tileIx p.srcX p.srcY, 0⟩
  else unmarkBad s k p.ctx phys

/-- The acceptance of a write, told to its source from the attachment tile of its link. -/
def saddleAck (s : State) (k link : Nat) (p : Pkt) : State :=
  let a := attachTile (gridW s) k link
  acceptAck s (tileIx a.1 a.2) 6 p

/-! ### Reads (R262, R263, R266) -/

/-- SADDLE_READ_REQUEST: the head of an edge link is a read; the line is taken as it stands (R265). -/
def saddleRead (s : State) (k link : Nat) : State :=
  match saddleHead s k link with
  | none => s
  | some p =>
    match p.body with
    | .readReq 2 off op idx cls =>
      match saddleCheck s k p.ctx p.epoch off with
      | .wait => s
      | .drop s' => saddlePop s' k link
      | .good _ a =>
        let r : ReadOut := ⟨link, tileIx p.srcX p.srcY, p.slot, op, idx, p.ctx, off, a, cls, p.fmt, p.tid, p.epoch, memLine s.hbm a⟩
        updSaddle (saddlePop s k link) k (fun d => { d with reads := d.reads ++ [r] })
    | _ => s

/-- What the ECC of stack k found in a line of a context, at a view offset, that any of the die's readers has read (R266): counted,
or recorded and reported. -/
def eccOutcome (s : State) (k : Nat) (c : BitVec 8) (off phys : Nat) : HbmEcc → State
  | .clean => s
  | .corrected => ceAdd (updSaddle s k (fun d => { d with corrected := d.corrected + 1 })) 0
  | .uncorrectable =>
    if s.hbmBad.contains (phys / 64) then s
    else ringReport (markBad s k c phys) (ringStop k) ⟨0x0202, 6, k, some c, none, none, off / 64 * 64, 0⟩

/-- The outcomes of the lines of a context that one of its die's own readers met, by view offset: the update unit or the stream
sequencer (R266). A line of another stack is read by another die. -/
def eccOutcomes (s : State) (k : Nat) (c : BitVec 8) (l : List (Nat × HbmEcc)) : State :=
  l.foldl (fun s p => match (ctxOf s c).bind (fun x => viewPhys x p.1) with
    | some a => if a / 2 ^ 36 = k then eccOutcome s k c p.1 a p.2 else s
    | none => s) s

/-- HBM_READ_RETURN: the n-th read under way, the first of its link, goes back on its edge link. -/
def hbmReturn (s : State) (k n : Nat) (ecc : HbmEcc) : State :=
  let d := saddleOf s k
  match d.reads[n]? with
  | none => s
  | some r =>
    if (d.reads.take n).any (fun q => q.link == r.link) then s
    else
      let known := s.hbmBad.contains (r.phys / 64)
      let s := eccOutcome (setSaddle s k { d with reads := d.reads.eraseIdx n }) k r.ctx r.off r.phys ecc
      let a := attachTile (gridW s) k r.link
      fromDie s (tileIx a.1 a.2) 6
        { rk := 0, add := false, tok := false, hop := 0, epoch := r.epoch, psn := known || ecc == .uncorrectable, cls := r.cls
          seq := 0, fmt := r.fmt, tid := r.tid, ctx := r.ctx, span := 0, slot := r.slot, rsv := 0, line := 0
          dstY := ixY r.tile, dstX := ixX r.tile, srcY := a.2, srcX := a.1, data := r.data, body := .readData r.op r.idx }

/-! ### Writes (R264, R256) -/

/-- SADDLE_WRITE: a line write that is neither an append nor a combine is accepted. -/
def saddleWriteLine (s : State) (k link : Nat) : State :=
  match saddleHead s k link with
  | none => s
  | some p =>
    match p.body with
    | .write 2 off =>
      if off = atEsc ∨ off = atCombine then s
      else match saddleCheck s k p.ctx p.epoch off with
        | .wait => s
        | .drop s' => saddlePop s' k link
        | .good _ a => saddleAck (writeLine (saddlePop s k link) k p a) k link p
    | _ => s

/-- ESCALATION_APPEND: the line goes into the next slot, held while all 1,023 are filled. -/
def escAppend (s : State) (k link : Nat) : State :=
  match saddleHead s k link with
  | none => s
  | some p =>
    match p.body with
    | .write 2 off =>
      if off ≠ atEsc then s
      else match saddleCheck s k p.ctx p.epoch off with
        | .wait => s
        | .drop s' => saddlePop s' k link
        | .good x _ =>
          let wr := viewRead s x cbEsWr 4
          let rd := viewRead s x cbEsRd 4
          if (2 ^ 32 + wr - rd) % 2 ^ 32 = 1023 then s
          else match viewPhys x (atEsc + 64 * (1 + wr % 1023)) with
            | none => s
            | some a =>
              let s := writeLine (saddlePop s k link) k p a
              let s := viewPut s x cbEsWr 4 ((wr + 1) % 2 ^ 32)
              wakeSteward (saddleAck s k link p) (homeSteward p.ctx)
    | _ => s

/-! ### Health records (R168 to R170, R257) -/

/-- The fields of a health record (R146). -/
structure HRec where
  zeros : Nat
  sats : Nat
  nonfin : Nat
  uflows : Nat
  total : Nat
  maxexp : Nat
deriving DecidableEq, Repr

def HRec.of (v : Nat) : HRec := ⟨bits v 31 0, bits v 63 32, bits v 95 64, bits v 127 96, bits v 191 128, bits v 207 192⟩
def HRec.data (r : HRec) : Nat :=
  r.zeros + 2 ^ 32 * r.sats + 2 ^ 64 * r.nonfin + 2 ^ 96 * r.uflows + 2 ^ 128 * r.total + 2 ^ 192 * r.maxexp
def HRec.empty : HRec := ⟨0, 0, 0, 0, 0, 0⟩

/-- The combination of partial records: clamped sums and a maximum. -/
def HRec.combine (a b : HRec) : HRec :=
  let c32 (x y : Nat) : Nat := min (x + y) (2 ^ 32 - 1)
  ⟨c32 a.zeros b.zeros, c32 a.sats b.sats, c32 a.nonfin b.nonfin, c32 a.uflows b.uflows,
    min (a.total + b.total) (2 ^ 64 - 1), max a.maxexp b.maxexp⟩

/-- The index of a TID in the first HW_NT entries of the directory. -/
def tidIndex (s : State) (x : Ctx) (tid : Nat) : Option Nat :=
  (List.range (viewRead s x cbHwNt 2)).find? (fun i => viewRead s x (atTids + 4 * i) 4 == tid)

def healthW (s : State) (x : Ctx) : Nat := viewRead s x cbHwW 1 + 1
def windowAt (w i : Nat) (step : W32) : Nat := atWindow + 32 * (w * i + step.toNat % w)

/-- The non-empty records of a tensor in the window. -/
def windowRecs (s : State) (x : Ctx) (i : Nat) : List HRec :=
  let w := healthW s x
  ((List.range w).map (fun j => viewRead s x (atWindow + 32 * (w * i + j)) 32)).filterMap (fun v =>
    if HRec.of v = .empty then none else some (HRec.of v))

def insertNat (n : Nat) : List Nat → List Nat
  | [] => [n]
  | x :: l => if n ≤ x then n :: x :: l else x :: insertNat n l
def sortNat (l : List Nat) : List Nat := l.foldr insertNat []

/-- Twice the median of a list: of an even number, the sum of the middle pair. -/
def median2 (l : List Nat) : Nat :=
  let q := sortNat l
  let n := q.length
  (q[(n - 1) / 2]?).getD 0 + (q[n / 2]?).getD 0

/-- The words of a layer's table entry (R174), which every view holds from its opening on (`openView`). -/
def layerFmt (s : State) (x : Ctx) (l : Nat) : Nat := viewRead s x (atLayers + 8 * l) 4
def layerCfmt (s : State) (x : Ctx) (l : Nat) : Nat := viewRead s x (atLayers + 8 * l + 4) 4 % 16
def fmtAcc (v : Nat) : Bool := bitOf v 8
/-- Is a layer at the top of its ladder (R175)? -/
def ladderTop (s : State) (x : Ctx) (l : Nat) : Bool := layerCfmt s x l == 0 && fmtAcc (layerFmt s x l)

/-- The layer of a tensor: of the bucket range that names it, else as the object knows it. DESIGN CHOICE, log entry 49. -/
def tidLayer (c : BitVec 8) (x : Ctx) (tid : Nat) : Option Nat :=
  match x.win.plan.bind (fun p => p.ranges.find? (fun r => r.tid == tid)) with
  | some r => some r.layer
  | none => (Config.tensorOf c.toNat tid).map (·.layer)

/-- The anomaly flag of a tensor's record (R170). DEDUCED, log entry 21. -/
def anomaly (s : State) (c : BitVec 8) (x : Ctx) (i tid : Nat) (r : HRec) : Bool :=
  let top := ((tidLayer c x tid).map (ladderTop s x)).getD false
  let med := median2 ((windowRecs s x i).map (·.maxexp))
  ((r.nonfin != 0 || r.sats != 0) && top) || decide (2 * r.maxexp > med + 48 ∨ med > 2 * r.maxexp + 48)

/-- The HEALTH_ANOMALY record and the field tests that it starts (R181, R461). -/
def logAnomaly (s : State) (c : BitVec 8) (x : Ctx) (tid : Nat) (step : W32) (tile : Nat) (r : HRec) : State :=
  let cause := flagBit (r.sats != 0) 0 + flagBit (r.nonfin != 0) 1
  let s := numLog s c (NumRec.data ⟨8, (tidLayer c x tid).getD 0, step, 0, 0, 0, cause, 0, tid, tile, 0, 0, 0⟩ c)
  autoTest s c 7

/-- One more record dropped. -/
def healthDrop (s : State) (x : Ctx) : State :=
  viewPut s x cbHwDrop 4 (min (viewRead s x cbHwDrop 4 + 1) (2 ^ 32 - 1))

/-- The tile that first reports a record (R181); the update unit's own records name none. -/
def noteReporter (i : Nat) (step : W32) (tile : Nat) (x : Ctx) : Ctx :=
  if x.firstRep.any (fun q => q.1 == i && q.2.1 == step) then x else { x with firstRep := x.firstRep ++ [(i, step, tile)] }

/-- Combines a record of a tensor and step into the health window (R257). The step's flags rest on the combined records
(`testHealth`). -/
def combineHealth (s : State) (c : BitVec 8) (v tid : Nat) (step : W32) (tile : Nat) : State :=
  match ctxOf s c with
  | none => s
  | some x =>
    match tidIndex s x tid with
    | none => healthDrop s x
    | some i =>
      let a := windowAt (healthW s x) i step
      let old := viewRead s x a 32
      let age := (2 ^ 32 + bits old 255 224 - step.toNat) % 2 ^ 32
      if old ≠ 0 ∧ 1 ≤ age ∧ age ≤ 2 ^ 31 then healthDrop s x
      else
        let was := if old ≠ 0 ∧ age = 0 then HRec.of old else .empty
        let s := viewPut s x a 32 ((was.combine (HRec.of v)).data + 2 ^ 224 * step.toNat)
        updCtx s c (noteReporter i step tile)

/-- Is a step the given one or the one before it? -/
def nearStep (step t : W32) : Bool := t == step || t + 1 == step

/-- Tests the combined record of a tensor for a step, once (R170). -/
def testRecord (c : BitVec 8) (step : W32) (s : State) (i : Nat) : State :=
  match ctxOf s c with
  | none => s
  | some x =>
    let tid := viewRead s x (atTids + 4 * i) 4
    let v := viewRead s x (windowAt (healthW s x) i step) 32
    let r := HRec.of v
    if v = 0 ∨ bits v 255 224 ≠ step.toNat ∨ r = .empty ∨ x.anom.contains (i, step) ∨ !anomaly s c x i tid r then s
    else
      let tile := ((x.firstRep.find? (fun q => q.1 == i && q.2.1 == step)).map (·.2.2)).getD 0xFFFF
      logAnomaly (setCtx s c { x with anom := (i, step) :: x.anom.filter (fun q => nearStep step q.2) }) c x tid step tile r

/-- The anomalies of a step that ends: the combined records of it, and those of the step before that were completed since (an
update may end after its boundary). DESIGN CHOICE, log entry 21. -/
def testHealth (s : State) (c : BitVec 8) (step : W32) : State :=
  match ctxOf s c with
  | none => s
  | some x =>
    let is := List.range (viewRead s x cbHwNt 2)
    let s := is.foldl (testRecord c step) (is.foldl (testRecord c (step - 1)) s)
    updCtx s c (fun x => { x with firstRep := x.firstRep.filter (fun q => decide ((step - q.2.1).toNat = 0 ∨ (q.2.1 - step).toNat < 2 ^ 31)) })

/-- HEALTH_COMBINE: the head of an edge link is a line for the combine port. -/
def healthPort (s : State) (k link : Nat) : State :=
  match saddleHead s k link with
  | none => s
  | some p =>
    match p.body with
    | .write 2 off =>
      if off ≠ atCombine then s
      else match saddleCheck s k p.ctx p.epoch off with
        | .wait => s
        | .drop s' => saddlePop s' k link
        | .good _ _ =>
          let d := p.data.toNat
          let s := saddleAck (saddlePop s k link) k link p
          if p.psn then
            ringReport s (ringStop k) ⟨0x0206, 2, k, some p.ctx, none, none, tileIx p.srcX p.srcY, 0⟩
          else combineHealth s p.ctx (bits d 255 0) (bits d 287 256) (BitVec.ofNat 32 (bits d 319 288)) (tileIx p.srcX p.srcY)
    | _ => s

/-! ### Scrubs (R258) -/

/-- Begins the scrub of slabs of a stack for a new owner; they lose their old one at once. -/
def beginScrub (s : State) (k : Nat) (slabs : List Nat) (owner : Option (BitVec 8)) : State :=
  if slabs.isEmpty then s
  else updSaddle s k (fun d => { d with owner := d.owner.filter (fun p => !slabs.contains p.1), scrubs := d.scrubs ++ [⟨slabs, owner⟩] })

/-- FMTREG and CFMTW at reset (R174): FLOOR 0x3, GE5 1, STREAM 0x5, AUTO 1; CFMT 0x3. -/
def fmtRegReset : Nat := 0x03000258
def cfmtReset : Nat := 3

/-- Has a context every slab of its view? -/
def viewOwned (s : State) (c : BitVec 8) (x : Ctx) : Bool :=
  x.slabMap.all (fun p => p.2.all (fun n => tabFind (saddleOf s p.1).owner n == some c))

/-- What the home Saddle die writes into a view that its context has just received whole: W at its default of 16 (R169, R254), and
the layer table at its reset values (R174). DEDUCED, log entry 50. -/
def openView (s : State) (c : BitVec 8) : State :=
  match ctxOf s c with
  | some x =>
    if viewOwned s c x then
      (List.range 65536).foldl (fun s l => viewPut s x (atLayers + 8 * l) 8 (fmtRegReset + 2 ^ 32 * cfmtReset))
        (viewPut s x cbHwW 1 15)
    else s
  | none => s

/-- SLAB_SCRUB_COMPLETE: the oldest scrub of a Saddle die ends. -/
def scrubDone (s : State) (k : Nat) : State :=
  match (saddleOf s k).scrubs with
  | [] => s
  | r :: rest =>
    let s := zeroSlabs s k r.slabs
    let s := updSaddle s k (fun d =>
      { d with scrubs := rest
               owner := match r.owner with
                 | some c => r.slabs.foldl (fun t n => tabSet t n c) d.owner
                 | none => d.owner })
    match r.owner with
    | some c => openView s c
    | none => s

/-- SADDLE_READ_REQUEST (R262). -/
def execSaddleReadRequest (saddle link : Nat) (s : State) : Host.Outcome State Fault Refusal :=
  .next (saddleRead s saddle link)

/-- HBM_READ_RETURN (R263). -/
def execHbmReadReturn (saddle n : Nat) (ecc : HbmEcc) (s : State) : Host.Outcome State Fault Refusal :=
  .next (hbmReturn s saddle n ecc)

/-- SADDLE_WRITE (R264). -/
def execSaddleWrite (saddle link : Nat) (s : State) : Host.Outcome State Fault Refusal :=
  .next (saddleWriteLine s saddle link)

/-- ESCALATION_APPEND (R256). -/
def execEscalationAppend (saddle link : Nat) (s : State) : Host.Outcome State Fault Refusal :=
  .next (escAppend s saddle link)

/-- HEALTH_COMBINE (R257). -/
def execHealthCombine (saddle link : Nat) (s : State) : Host.Outcome State Fault Refusal :=
  .next (healthPort s saddle link)

/-- SLAB_SCRUB_COMPLETE (R258). -/
def execSlabScrubComplete (saddle : Nat) (s : State) : Host.Outcome State Fault Refusal :=
  .next (scrubDone s saddle)

end Sys2Proof.Machine
end

