-- ==== Sys2Proof/Machine/Eth.lean ====
section
/-! DEFINITION. Ethernet (R373 to R377, R487): the engine transport with its go-back-N streams, transfer rings, arriving frames
with their checks, discovery, and the cages. -/
namespace Sys2Proof.Machine

/-! ### Ports (R373, R487) -/

def ethPort (s : State) (p : Nat) : EthPort := tabGet s.eth.ports p ⟨false, []⟩
def setEthPort (s : State) (p : Nat) (x : EthPort) : State := { s with eth := { s.eth with ports := tabSet s.eth.ports p x } }
def cageOf (s : State) (c : Nat) : Cage := tabGet s.eth.cages c ⟨false, false⟩
def ethCfg (s : State) (p : Nat) : Option PortCfg := s.engine.bind (fun t => t.ports[p]?)

/-- The breakout of a cage: MODE of its first port's entry, or STRAP_ETH before a table is installed. -/
def breakout (s : State) (c : Nat) : Nat := ((ethCfg s (8 * c)).map (·.mode)).getD s.straps.eth.toNat
/-- Ports that exist: 1, 2, 4 or 8 of each cage. -/
def ethExists (s : State) (p : Nat) : Bool := decide (p < 64 ∧ p % 8 < 2 ^ breakout s (p / 8))
/-- A port that may carry frames. -/
def ethRuns (s : State) (p : Nat) : Bool :=
  s.module.pgMain && ethExists s p && (ethPort s p).up && ((ethCfg s p).map (·.enable)).getD false

def ethEmit (s : State) (o : EthOut) : State := { s with eth := { s.eth with out := s.eth.out ++ [o] } }
def ethDrop (s : State) : State := { s with eth := { s.eth with dropped := s.eth.dropped + 1 } }

/-! ### Datagrams (R374) -/

def dgKind (d : Dgram) : Nat := bits d.tw.toNat 63 62
def dgXid (d : Dgram) : Nat := bits d.tw.toNat 47 32
def dgArg (d : Dgram) : Nat := bits d.tw.toNat 31 0
def mkTw (kind xid arg : Nat) : BitVec 64 := BitVec.ofNat 64 (arg % 2 ^ 32 + 2 ^ 32 * (xid % 2 ^ 16) + 2 ^ 62 * kind)

/-- The packet around a datagram that has not been given to a port yet. -/
def NetHdr.none : NetHdr := ⟨0, false, 0, 0, 0, 0, false, false⟩

/-- A datagram from its fields. -/
def mkDgram (kind xid arg : Nat) (h : FrameHdr) (p : List Line) : Dgram :=
  let hdr := mkHdr h
  ⟨NetHdr.none, mkTw kind xid arg, hdr, p, mkTrailer hdr p false⟩

/-- The datagram with its stream sequence number. -/
def stampSeq (d : Dgram) (n : Nat) : Dgram :=
  let v := d.hdr.toNat % 2 ^ 192 + 2 ^ 192 * (n % 2 ^ 32)
  let hdr := BitVec.ofNat 256 (v + 2 ^ 224 * crc32c (toBytes 28 v))
  { d with hdr := hdr, trailer := mkTrailer hdr d.payload false }

/-- A datagram that the receiver may use: checks hold, no verdict against it, nothing reserved (R149), its lines in range. -/
def dgOk (d : Dgram) : Bool :=
  decide (hFmt d.hdr < 14) && hcrcOk d.hdr && fcrcOk d.hdr d.payload d.trailer && trVerdict d.trailer == 0 && !hPsn d.hdr && !hdrRsv d.hdr &&
    bits d.tw.toNat 61 48 == 0 && hNline d.hdr == d.payload.length && decide (d.payload.length ≤ 128)

/-- The stream of a datagram that this engine sends or receives on a port. DEDUCED, log entry 22. -/
def ethKey (src dst : BitVec 24) (ctx : BitVec 8) (cls epoch port : Nat) : StreamKey := ⟨src, dst, ctx, cls + 16 * epoch, 64 + port⟩
def hdrKey (h : BitVec 256) (port : Nat) : StreamKey := ethKey (hSrc h) (hDst h) (hCtx h) (hCls h) (hEpoch h) port

def ethStream (s : State) (k : StreamKey) : EthStream :=
  (s.eth.streams.find? (fun x => x.key == k)).getD ⟨k, 0, [], [], 0, 0, false⟩
def setEthStream (s : State) (x : EthStream) : State :=
  let l := s.eth.streams
  let l' := if l.any (fun y => y.key == x.key) then l.map (fun y => if y.key == x.key then x else y) else l ++ [x]
  { s with eth := { s.eth with streams := l' } }
def streamPort (k : StreamKey) : Nat := k.port - 64

/-! ### Sending (R375) -/

def ethWindow : Nat := 512
def ethResends : Nat := 8

/-- Starts frames while the window of the stream allows. -/
def ethFill : Nat → EthStream → EthStream × List Dgram
  | 0, x => (x, [])
  | n + 1, x =>
    match x.waiting with
    | [] => (x, [])
    | f :: rest =>
      if x.held.length < ethWindow ∧ !x.broken then
        let d := stampSeq f.d x.next
        let r := ethFill n { x with waiting := rest, next := (x.next + 1) % 2 ^ 32, held := x.held ++ [{ f with seq := x.next, d := d }] }
        (r.1, d :: r.2)
      else (x, [])

/-- The UDP source port of a datagram, by which all frames of a stream take one path (R374). -/
def udpSource (d : Dgram) : Nat :=
  0xC000 + ((hSrc d.hdr).toNat % 2 ^ 14 ^^^ (hDst d.hdr).toNat % 2 ^ 14 ^^^ (hCtx d.hdr).toNat * 16 ^^^ hCls d.hdr) % 2 ^ 14

/-- The first endpoint entry of an engine ID whose port a predicate allows. -/
def endpointOf (s : State) (e : BitVec 24) (ok : Nat → Bool) : Option Endpoint :=
  s.engine.bind (fun t => t.eps.find? (fun x => x.engine == e && ok x.port))

/-- The 802.1Q tag of a port for a class: the PCP that PCPMAP gives its virtual channel, and the port's VID, 0 for priority-tagged
(R371). -/
def vlanOf (c : PortCfg) (cls : Nat) : Nat := bits c.pcpmap (3 * (cls / 4) + 2) (3 * (cls / 4)) * 2 ^ 13 + c.vlan % 2 ^ 12

/-- A datagram as it leaves on a port: to the endpoint entry of its destination, from the stream's source port to UDPPORT. -/
def netWrap (s : State) (p : Nat) (d : Dgram) : Dgram :=
  let e := endpointOf s (hDst d.hdr) (fun q => q == p)
  { d with net := ⟨(e.map (·.nhMac)).getD 0, (e.map (·.v6)).getD false, (e.map (·.ip)).getD 0,
    ((ethCfg s p).map (fun c => vlanOf c (hCls d.hdr))).getD 0, udpSource d, (s.engine.map (·.udp)).getD 0, false, false⟩ }

/-- Puts datagrams on a port, where it runs. -/
def ethOutAll (s : State) (p : Nat) (l : List Dgram) : State :=
  if ethRuns s p then l.foldl (fun s d => ethEmit s (.dgram p (udpSource d) (netWrap s p d))) s else s

/-- Does the engine take a packet as engine transport: no fragment, no IP options, and to UDPPORT (R373)? -/
def netOk (s : State) (d : Dgram) : Bool := !d.net.frag && !d.net.opts && (s.engine.map (·.udp)) == some d.net.dst

def ethPump (s : State) (k : StreamKey) : State :=
  let x := ethStream s k
  let r := ethFill x.waiting.length x
  ethOutAll (setEthStream s r.1) (streamPort k) r.2

/-- Queues frames on a stream. -/
def ethSend (s : State) (k : StreamKey) (own : XOwner) (l : List Dgram) : State :=
  let x := ethStream s k
  ethPump (setEthStream s { x with waiting := x.waiting ++ l.map (fun d => ⟨0, 0, own, d⟩) }) k

/-! ### Endpoints and transfers (R371, R376, R377) -/

/-- Bytes that one DATA frame carries beside its address line. -/
def ethBytes : Nat := 127 * 64

/-- The DATA frames of a PUT: an address line, then the data; the last one flagged, and those with bytes of a poisoned piece of 256
bytes (R350). -/
def putFrames (h : FrameHdr) (xid raddr : Nat) (data : List Byte) (bad : List Nat) : List Dgram :=
  let n := ceilDiv data.length ethBytes
  (List.range n).map (fun j =>
    let lines := BitVec.ofNat 512 ((raddr + ethBytes * j) % 2 ^ 64) :: linesOf ((data.drop (ethBytes * j)).take ethBytes)
    let psn := bad.any (fun q => decide (256 * q < ethBytes * (j + 1) ∧ ethBytes * j < 256 * (q + 1)))
    mkDgram 0 xid 0 { h with nline := lines.length, last := decide (j + 1 = n), psn := psn } lines)

/-- The header of engine transport frames of class BLK toward a context of an engine. -/
def blkHdr (s : State) (dst : BitVec 24) (ctx : BitVec 8) (epoch : Nat) (stook : Bool) (step : W32) : FrameHdr :=
  ⟨dst, engineId s, ctx, 0xD, 0, 0, epoch, false, false, stook, false, 0, 0, 0, step, 0⟩

def ringOf (x : Ctx) : Option (Nat × Nat) := x.peers.map (fun t => (t.xring, t.xcount))
def descAt (r : Nat × Nat) (n : Nat) : Nat := r.1 + 64 * (1 + n % r.2)

/-- RD passes every descriptor at the front of the ring whose STATUS has been written. -/
def advanceRd : Nat → State → BitVec 8 → State
  | 0, s, _ => s
  | n + 1, s, c =>
    match s.eth.xfers.find? (fun t => t.ctx == c), ctxOf s c with
    | some t, some x =>
      if t.ended then
        let s := match ringOf x with
          | some r => viewPut s x (r.1 + 4) 4 ((t.idx + 1) % 2 ^ 32)
          | none => s
        advanceRd n { s with eth := { s.eth with xfers := s.eth.xfers.erase t } } c
      else s
    | _, _ => s

/-- Applies a function to a transfer. -/
def modXfer (s : State) (c : BitVec 8) (idx : Nat) (f : Transfer → Transfer) : State :=
  let l := s.eth.xfers.map (fun t => if t.ctx = c ∧ t.idx = idx ∧ !t.ended then f t else t)
  { s with eth := { s.eth with xfers := l } }

/-- Writes a descriptor's STATUS and detail (0 pending, 1 done, 2 failed), and moves RD. -/
def endXfer (s : State) (c : BitVec 8) (idx status detail : Nat) : State :=
  match ctxOf s c with
  | none => s
  | some x =>
    let s := match ringOf x with
      | some r => viewPut s x (descAt r idx + 36) 4 (status + 2 ^ 16 * detail)
      | none => s
    let s := modXfer s c idx (fun t => { t with ended := true })
    advanceRd s.eth.xfers.length s c

/-- The Saddle dies read the bytes of a storage write, 256 bytes a flit, and send them to the Crest die of its port over ring class S
(R267, R376); `ecc` is what their checks find, by view offset. -/
def fetchPut (s : State) (c : BitVec 8) (x : Ctx) (off : Nat) (j : PutJob) (ecc : List (Nat × HbmEcc)) : State :=
  let mine := ecc.filter (fun p => decide (off ≤ p.1 ∧ p.1 < off + j.len))
  let s := (List.range 24).foldl (fun s k => eccOutcomes s k c mine) s
  if j.len = 0 then s else
  let s := { s with eth := { s.eth with jobs := s.eth.jobs ++ [j], nextJob := s.eth.nextJob + 1 } }
  (List.range (ceilDiv j.len 256)).foldl (fun s n =>
    let o := off + 256 * n
    let len := min 256 (j.len - 256 * n)
    match viewPhys x o with
    | some a => sendRing s (ringStop (a / 2 ^ 36)) (crestStop (j.port / 16)) .s
        ((List.range (ceilDiv len 64)).any (fun i => lineBad s x (o + 64 * i))) (.put j.no n (viewBytes s x o len))
    | none => s) s

/-- A job whose pieces have all come: its frames leave, with PSN on those that hold a poisoned piece; the ring transfer of an own
descriptor with a poisoned piece fails with detail 0x0002 (R444). -/
def finishPut (s : State) (j : PutJob) : State :=
  let s := { s with eth := { s.eth with jobs := s.eth.jobs.filter (fun q => q.no != j.no) } }
  let data := (List.range (ceilDiv j.len 256)).flatMap (fun n => ((j.got.find? (fun p => p.1 == n)).map (·.2)).getD [])
  let send (s : State) : State :=
    ethSend s (ethKey (engineId s) j.remote j.ctx 0xD j.epoch j.port) j.own
      (putFrames (blkHdr s j.remote j.ctx j.epoch false 0) j.xid j.raddr data j.bad)
  match j.own with
  | .xfer c n =>
    if !(s.eth.xfers.any (fun t => t.ctx == c && t.idx == n && !t.ended)) then s
    else if j.bad.isEmpty then send s else endXfer s c n 2 2
  | _ => send s

/-- A piece reaches the Crest die. -/
def putPiece (s : State) (no n : Nat) (data : List Byte) (psn : Bool) : State :=
  match s.eth.jobs.find? (fun j => j.no == no) with
  | none => s
  | some j =>
    let j := { j with got := j.got ++ [(n, data)], bad := if psn then j.bad ++ [n] else j.bad }
    if j.got.length = ceilDiv j.len 256 then finishPut s j
    else { s with eth := { s.eth with jobs := s.eth.jobs.map (fun q => if q.no = no then j else q) } }

/-- Starts one descriptor: a PUT's reads, a GET's request, or a stook part that waits for its delivery. DEDUCED, log entry 22. -/
def startDesc (s : State) (c : BitVec 8) (x : Ctx) (r : Nat × Nat) (n : Nat) (ecc : List (Nat × HbmEcc)) : State :=
  let v := viewRead s x (descAt r n) 64
  let raddr := byteField v 63 56
  let loff := byteField v 55 48
  let len := byteField v 47 44
  let rem := byteField v 43 40
  let op := byteField v 35 35
  let stook := bitOf v (8 * 34)
  let remote : BitVec 24 := BitVec.ofNat 24 rem
  let t : Transfer := ⟨c, n, decide (op = 2), stook, remote, raddr, loff, len, len, false, none⟩
  let s := { s with eth := { s.eth with xfers := s.eth.xfers ++ [t] } }
  let ok := (op == 1 || op == 2) && byteField v 34 34 / 2 == 0 && byteField v 33 0 == 0 && loff % 64 == 0 && len % 64 == 0 &&
    decide (64 ≤ len ∧ loff < 2 ^ 44 ∧ loff + len ≤ viewSz x)
  if !ok then endXfer s c n 2 1
  else if stook then s
  else match endpointOf s remote (fun _ => true) with
    | none => endXfer s c n 2 1
    | some e =>
      let rctx : BitVec 8 := BitVec.ofNat 8 (rem / 2 ^ 24)
      let epoch := ((peerOf x remote).map (·.epoch)).getD 0
      let h := blkHdr s remote rctx epoch false 0
      let k := ethKey (engineId s) remote rctx 0xD epoch e.port
      let s := modXfer s c n (fun t => { t with key := some k })
      if (ethStream s k).broken then endXfer s c n 2 Config.brokenDetail.toNat
      else if op = 2 then
        let line : Line := BitVec.ofNat 512 (raddr + 2 ^ 64 * loff + 2 ^ 128 * len)
        ethSend s k (.get c n) [mkDgram 2 (n % r.2) 0 { h with nline := 1, last := true } [line]]
      else
        let s := modXfer s c n (fun t => { t with left := ceilDiv len ethBytes })
        fetchPut s c x loff ⟨s.eth.nextJob, .xfer c n, remote, rctx, epoch, e.port, n % r.2, raddr, len, [], []⟩ ecc

/-- XRING_POLL: WR is read, and the new descriptors start in ring order. DEDUCED, log entry 22. -/
def xringPoll (s : State) (c : BitVec 8) (ecc : List (Nat × HbmEcc)) : State :=
  match ctxOf s c with
  | none => s
  | some x =>
    match ringOf x with
    | none => s
    | some r =>
      let wr := viewRead s x r.1 4
      let n := min ((2 ^ 32 + wr - x.xrd) % 2 ^ 32) r.2
      (List.range n).foldl (fun s j =>
        let i := (x.xrd + j) % 2 ^ 32
        startDesc (updCtx s c (fun x => { x with xrd := (i + 1) % 2 ^ 32 })) c x r i ecc) s

/-! ### Acknowledgements and resends (R375) -/

/-- A stook whose transport failed, or that a reset met, is Failed (R477). -/
def stookFails (s : State) (c : BitVec 8) (step : W32) : State :=
  updCtx s c (fun x => match x.stook with
    | some k => if k.step = step ∧ k.st = .opened then { x with stook := some { k with st := .failed } } else x
    | none => x)

/-- The seal line of a step's stook is acknowledged: a Complete stook is Sealed (R477). -/
def sealAcked (x : Ctx) (step : W32) : Ctx :=
  { x with stook := x.stook.map (fun k => if k.step = step ∧ k.st = .complete then { k with st := .sealed } else k)
           sealing := x.sealing.filter (fun k => k.step != step) }

/-- What the acknowledgement of a frame does for its sender. -/
def frameAcked (s : State) : XOwner → State
  | .peer => s
  | .get _ _ => s
  | .xfer c n =>
    let left := ((s.eth.xfers.find? (fun t => t.ctx == c && t.idx == n && !t.ended)).map (·.left)).getD 0
    let s := modXfer s c n (fun t => { t with left := t.left - 1 })
    if left = 1 then endXfer s c n 1 0 else s
  | .stook c step part =>
    updCtx s c (fun x => if 2 ≤ part then sealAcked x step else match x.stook with
      | some k =>
        if k.step ≠ step then x
        else if part = 0 then { x with stook := some { k with unacked := k.unacked - 1 } }
        else if k.st = .opened then { x with stook := some { k with st := .complete } } else x
      | none => x)

/-- Is a sequence number covered by an ACK? -/
def seqCovered (ack seq : Nat) : Bool := decide ((2 ^ 32 + ack - seq) % 2 ^ 32 < 2 ^ 31)

/-- The key of the stream that a datagram of the receiver concerns: the sender's own direction. -/
def backKey (h : BitVec 256) (port : Nat) : StreamKey := ethKey (hDst h) (hSrc h) (hCtx h) (hCls h) (hEpoch h) port

/-- ETH_ACK: every frame up to ARG is acknowledged. -/
def ethAck (s : State) (port : Nat) (d : Dgram) : State :=
  if !netOk s d then ethDrop s
  else if !dgOk d then ceAdd (ethDrop s) 9
  else if dgKind d ≠ 1 ∨ hDst d.hdr ≠ engineId s ∨ !ethRuns s port then s
  else
    let x := ethStream s (backKey d.hdr port)
    let done := x.held.filter (fun f => seqCovered (dgArg d) f.seq)
    let s := setEthStream s { x with held := x.held.filter (fun f => !seqCovered (dgArg d) f.seq) }
    ethPump (done.foldl (fun s f => frameAcked s f.own) s) x.key

/-- The receiver's ACK of a stream: the last SEQ accepted in order. -/
def sendEthAck (s : State) (x : EthStream) : State :=
  let k := x.key
  let h : FrameHdr := ⟨k.src, engineId s, k.ctx, k.cls % 16, 0, 0, k.cls / 16, false, false, false, false, 0, 0, 0, 0, 0⟩
  ethOutAll (setEthStream s { x with unacked := 0 }) (streamPort k) [mkDgram 1 0 (2 ^ 32 + x.expect - 1) h []]

/-- ETH_ACK_TIMER of the n-th stream. -/
def ethAckTimer (s : State) (n : Nat) : State :=
  match s.eth.streams[n]? with
  | some x => if x.unacked = 0 then s else sendEthAck s x
  | none => s

/-- A broken stream: every open transfer on it fails, and so does a stook. -/
def breakStream (s : State) (x : EthStream) : State :=
  let open_ := s.eth.xfers.filter (fun t => !t.ended && t.key == some x.key)
  let stooks := ((x.held ++ x.waiting).filterMap (fun f => match f.own with
    | .stook c st _ => some (c, st)
    | _ => none)).eraseDups
  let arg := match stooks, x.held with
    | (_, st) :: _, _ => st.toNat
    | [], f :: _ => ((f.d.payload[0]?).getD 0).toNat % 2 ^ 32
    | [], [] => 0
  let s := setEthStream s { x with broken := true, held := [], waiting := [] }
  let s := logAt s 0x1401 8 (streamPort x.key) none none arg
  let s := open_.foldl (fun s t => endXfer s t.ctx t.idx 2 Config.brokenDetail.toNat) s
  stooks.foldl (fun s p => stookFails s p.1 p.2) s

/-- ETH_RESEND_TIMEOUT of the n-th stream: go-back-N from its oldest frame; after 8 resends it breaks. -/
def ethResend (s : State) (n : Nat) : State :=
  match s.eth.streams[n]? with
  | none => s
  | some x =>
    match x.held with
    | [] => s
    | f :: _ =>
      if f.resends ≥ ethResends then breakStream s x
      else ethOutAll (setEthStream s { x with held := x.held.map (fun f => { f with resends := f.resends + 1 }) })
        (streamPort x.key) (x.held.map (·.d))

/-! ### Arriving frames (R359, R377) -/

/-- The SEQ check of a sequenced datagram; none where it is dropped. An ACK leaves with every 16th frame accepted. DEDUCED, log entry 22. -/
def ethSeq (s : State) (port : Nat) (d : Dgram) : Option State × State :=
  let x := ethStream s (hdrKey d.hdr port)
  if hSeq d.hdr = x.expect then
    let x := { x with expect := (x.expect + 1) % 2 ^ 32, unacked := x.unacked + 1 }
    let s := setEthStream s x
    let s := if x.unacked ≥ 16 then sendEthAck s x else s
    (some s, s)
  else
    let s := setEthStream s { x with unacked := max 1 x.unacked }
    (none, s)

/-- The first check of R377 that an access to a run of bytes fails, in its order. -/
def ethCheck (s : State) (h : BitVec 256) (off n : Nat) : Option Nat :=
  match ctxOf s (hCtx h) with
  | none => some 1
  | some x =>
    if (peerOf x (hSrc h)).isNone then some 2
    else if hEpoch h ≠ epochNow s (hCtx h) then some 3
    else if off < freeArea ∨ viewSz x < off + n then some 4
    else
      let owned := (List.range (ceilDiv n 64)).all (fun i =>
        match viewPhys x (off + 64 * i) with
        | some a => tabFind (saddleOf s (a / 2 ^ 36)).owner (a % 2 ^ 36 / 2 ^ 27) == some (hCtx h)
        | none => false)
      if owned then none else some 5

/-- REJECT with its reason, and the isolation event. -/
def ethReject (s : State) (port : Nat) (d : Dgram) (reason : Nat) : State :=
  let h : FrameHdr := ⟨hSrc d.hdr, engineId s, hCtx d.hdr, hCls d.hdr, 0, 0, hEpoch d.hdr, false, false, false, false, 0, 0, 0, 0, 0⟩
  let s := ethOutAll s port [mkDgram 3 (dgXid d) (Config.rejectReason reason).toNat h []]
  logAt s 0x1001 8 port (some (hCtx d.hdr)) none (4 * 2 ^ 32)

/-- Arriving data goes over ring class I to its Saddle die, 256 bytes a flit. -/
def ethStore (s : State) (port : Nat) (c : BitVec 8) (x : Ctx) (off epoch : Nat) (data : List Byte) : State :=
  (List.range (ceilDiv data.length 256)).foldl (fun s j =>
    match viewPhys x (off + 256 * j) with
    | some a => sendRing s (crestStop (port / 16)) (ringStop (a / 2 ^ 36)) .i false
        (.hbmWrite c (off + 256 * j) ((data.drop (256 * j)).take 256) epoch)
    | none => s) s

/-- Counts arrived bytes toward the GET of an XID. -/
def getProgress (s : State) (d : Dgram) (n : Nat) : State :=
  match ctxOf s (hCtx d.hdr) with
  | none => s
  | some x =>
    let size := ((ringOf x).map (·.2)).getD 1
    match s.eth.xfers.find? (fun t => t.get && !t.ended && t.ctx == hCtx d.hdr && t.remote == hSrc d.hdr && t.idx % size == dgXid d) with
    | none => s
    | some t =>
      if t.left ≤ n then endXfer s t.ctx t.idx 1 0
      else modXfer s t.ctx t.idx (fun y => { y with left := y.left - n })

/-- The checks every arriving sequenced frame passes before its own effect. -/
def ethArrive (s : State) (port kind : Nat) (d : Dgram) (f : State → State) : State :=
  if !netOk s d then ethDrop s
  else if !dgOk d then ceAdd (ethDrop s) 9
  else if dgKind d ≠ kind then s
  else if hDst d.hdr ≠ engineId s ∨ !ethRuns s port then ethDrop s
  else match ethSeq s port d with
    | (none, s) => s
    | (some s, _) => f s

/-- ETH_DATA: an address line and data, written into the view or rejected. -/
def ethData (s : State) (port : Nat) (d : Dgram) : State :=
  ethArrive s port 0 d (fun s =>
    let off := ((d.payload[0]?).getD 0).toNat % 2 ^ 64
    let data := payloadBytes (d.payload.drop 1)
    match ethCheck s d.hdr off data.length with
    | some r => ethReject s port d r
    | none =>
      match ctxOf s (hCtx d.hdr) with
      | some x => getProgress (ethStore s port (hCtx d.hdr) x off (hEpoch d.hdr) data) d data.length
      | none => s)

/-- GETREQ: the bytes asked for are PUT to the requester under its XID. -/
def ethGetreq (s : State) (port : Nat) (d : Dgram) (ecc : List (Nat × HbmEcc)) : State :=
  ethArrive s port 2 d (fun s =>
    let v := ((d.payload[0]?).getD 0).toNat
    let off := v % 2 ^ 64
    let back := bits v 127 64
    let len := bits v 159 128
    match ethCheck s d.hdr off len with
    | some r => ethReject s port d r
    | none =>
      match ctxOf s (hCtx d.hdr) with
      | none => s
      | some x =>
        match peerOf x (hSrc d.hdr) with
        | none => s
        | some q =>
          fetchPut s (hCtx d.hdr) x off ⟨s.eth.nextJob, .peer, hSrc d.hdr, q.ctx, q.epoch, port, dgXid d, back, len, [], []⟩ ecc)

/-- REJECT: the open descriptor of its XID on the stream that it answers fails with the reason in its detail. A PUT for a peer's own
GETREQ has no descriptor here. DEDUCED, log entry 22. -/
def ethRejected (s : State) (port : Nat) (d : Dgram) : State :=
  if !netOk s d then ethDrop s
  else if !dgOk d then ceAdd (ethDrop s) 9
  else if dgKind d ≠ 3 ∨ hDst d.hdr ≠ engineId s ∨ !ethRuns s port then s
  else
    let size (t : Transfer) : Nat := (((ctxOf s t.ctx).bind ringOf).map (·.2)).getD 1
    match s.eth.xfers.find? (fun t => !t.ended && !t.stook && t.key == some (backKey d.hdr port) && t.idx % size t == dgXid d) with
    | none => s
    | some t =>
      let l := s.eth.streams.map (fun x => { x with waiting := x.waiting.filter (fun f => f.own != .xfer t.ctx t.idx && f.own != .get t.ctx t.idx) })
      let s := { s with eth := { s.eth with streams := l } }
      endXfer s t.ctx t.idx 2 (dgArg d % 2 ^ 16)

/-! ### Discovery (R373) and cages (R487) -/

/-- The TLVs that the engine knows, by their types in IEEE 802.1AB: chassis ID, port ID, TTL, port description, system name.
PRESUMED, log entry 11. -/
def lldpTypes : List Nat := [1, 2, 3, 4, 5]

/-- The TLVs of an LLDP body: 7 bits of type, 9 of length, and the value, up to the end TLV. PRESUMED, log entry 11. -/
def lldpParse : Nat → List Byte → List (Nat × List Byte)
  | n + 1, a :: b :: l =>
    let len := a.toNat % 2 * 256 + b.toNat
    if a.toNat / 2 = 0 then [] else (a.toNat / 2, l.take len) :: lldpParse n (l.drop len)
  | _, _ => []

/-- A TLV as bytes. -/
def lldpBytes (t : Nat × List Byte) : List Byte :=
  BitVec.ofNat 8 (2 * t.1 + t.2.length / 256 % 2) :: BitVec.ofNat 8 t.2.length :: t.2

/-- LLDP_TRANSMIT: the five TLVs of R373. -/
def lldpSend (s : State) (p : Nat) : State :=
  if ethRuns s p then ethEmit s (.lldp p (lldpTypes.map (fun t => (t, Config.lldpTlv t p)))) else s
/-- LLDP_RECEIVE: the neighbour's known TLVs are kept; others are ignored. -/
def lldpGot (s : State) (p : Nat) (tlvs : List Byte) : State :=
  if s.module.pgMain && (ethPort s p).up then
    setEthPort s p { ethPort s p with lldp := ((lldpParse tlvs.length tlvs).filter (fun t => lldpTypes.contains t.1)).flatMap lldpBytes }
  else s

/-- Is an address the port's own? -/
def ownAddr (s : State) (p : Nat) (v6 : Bool) (a : BitVec 128) : Bool :=
  match ethCfg s p with
  | some c => ethRuns s p && (if v6 then c.v6 && c.ip6 == a else c.v4 && c.ip4.toNat == a.toNat)
  | none => false

/-- NEIGHBOUR_REQUEST: answered for the port's own address with its MAC address. -/
def neighbourAsk (s : State) (p : Nat) (v6 : Bool) (a : BitVec 128) (data : List Byte) : State :=
  if ownAddr s p v6 a then ethEmit s (.neighbour p (Config.baseMac + BitVec.ofNat 48 p) data) else s

/-- ICMP_ECHO: answered for the port's own address; a packet for another is never forwarded. -/
def echoAsk (s : State) (p : Nat) (v6 : Bool) (a : BitVec 128) (data : List Byte) : State :=
  if ownAddr s p v6 a then ethEmit s (.echo p data) else ethDrop s

/-- ETH_LINK_CHANGE: a port of a cage with a module in full power may come up. -/
def ethLink (s : State) (p : Nat) (up : Bool) : State :=
  let c := cageOf s (p / 8)
  if (ethPort s p).up = up ∨ (up ∧ !(s.module.pgMain && ethExists s p && c.present && c.powered)) then s
  else setEvt (setEthPort s p { ethPort s p with up := up }) evtEth

/-- The ports of a cage go down. -/
def cageDown (s : State) (c : Nat) : State :=
  (List.range 8).foldl (fun s n => setEthPort s (8 * c + n) { ethPort s (8 * c + n) with up := false }) s

/-- OSFP_INSERT: a module of a higher power class stays in low power, its ports down. -/
def osfpIn (s : State) (c : Nat) (high : Bool) : State :=
  let s := { s with eth := { s.eth with cages := tabSet s.eth.cages c ⟨true, !high⟩ } }
  let s := cageDown s c
  if high then setEvt s evtEth else s

/-- OSFP_REMOVE. -/
def osfpOut (s : State) (c : Nat) : State :=
  let was := (List.range 8).any (fun n => (ethPort s (8 * c + n)).up)
  let s := cageDown { s with eth := { s.eth with cages := tabSet s.eth.cages c ⟨false, false⟩ } } c
  if was then setEvt s evtEth else s

/-- ETH_DATA (R377). -/
def execEthData (port : Nat) (d : Dgram) (s : State) : Host.Outcome State Fault Refusal :=
  .next (ethData s port d)

/-- ETH_ACK (R375). -/
def execEthAck (port : Nat) (d : Dgram) (s : State) : Host.Outcome State Fault Refusal :=
  .next (ethAck s port d)

/-- GETREQ (R377). -/
def execGetreq (port : Nat) (d : WithEcc Dgram) (s : State) : Host.Outcome State Fault Refusal :=
  .next (ethGetreq s port d.val d.ecc)

/-- REJECT (R377). -/
def execReject (port : Nat) (d : Dgram) (s : State) : Host.Outcome State Fault Refusal :=
  .next (ethRejected s port d)

/-- ETH_ACK_TIMER (R375). -/
def execEthAckTimer (stream : Nat) (s : State) : Host.Outcome State Fault Refusal :=
  .next (ethAckTimer s stream)

/-- ETH_RESEND_TIMEOUT (R375). -/
def execEthResendTimeout (stream : Nat) (s : State) : Host.Outcome State Fault Refusal :=
  .next (ethResend s stream)

/-- XRING_POLL (R376). -/
def execXringPoll (ctx : WithEcc (BitVec 8)) (s : State) : Host.Outcome State Fault Refusal :=
  .next (xringPoll s ctx.val ctx.ecc)

/-- LLDP_TRANSMIT (R373). -/
def execLldpTransmit (port : Nat) (s : State) : Host.Outcome State Fault Refusal :=
  .next (lldpSend s port)

/-- LLDP_RECEIVE (R373). -/
def execLldpReceive (port : Nat) (tlvs : List Byte) (s : State) : Host.Outcome State Fault Refusal :=
  .next (lldpGot s port tlvs)

/-- NEIGHBOUR_REQUEST (R373). -/
def execNeighbourRequest (port : Nat) (v6 : Bool) (target : BitVec 128) (data : List Byte) (s : State) : Host.Outcome State Fault Refusal :=
  .next (neighbourAsk s port v6 target data)

/-- ICMP_ECHO (R373). -/
def execIcmpEcho (port : Nat) (v6 : Bool) (target : BitVec 128) (data : List Byte) (s : State) : Host.Outcome State Fault Refusal :=
  .next (echoAsk s port v6 target data)

/-- ETH_LINK_CHANGE (R373). -/
def execEthLinkChange (port : Nat) (up : Bool) (s : State) : Host.Outcome State Fault Refusal :=
  .next (ethLink s port up)

/-- OSFP_INSERT (R487). -/
def execOsfpInsert (cage : Nat) (highPower : Bool) (s : State) : Host.Outcome State Fault Refusal :=
  .next (osfpIn s cage highPower)

/-- OSFP_REMOVE (R487). -/
def execOsfpRemove (cage : Nat) (s : State) : Host.Outcome State Fault Refusal :=
  .next (osfpOut s cage)

end Sys2Proof.Machine
end

