-- ==== Sys2Proof/Machine/Stook.lean ====
section
/-! DEFINITION. Stooks (R467 to R477, R481): cadence, opening, emission of the sections, manifest and seal line, the parts that
descriptors deliver, and the comparison of losses. -/
namespace Sys2Proof.Machine

/-! ### The object (R473) -/

def up (n m : Nat) : Nat := ceilDiv n m * m
def mib : Nat := 2 ^ 20

/-- The buckets this rank owns, in increasing number. -/
def ownedBuckets (pl : Plan) : List (Nat × PlanBucket) :=
  (pl.buckets.zipIdx.filter (fun p => p.1.owner == pl.myRank)).map (fun p => (p.2, p.1))
def bucketRanges (pl : Plan) (b : PlanBucket) : List PlanRange := (pl.ranges.drop b.range0).take b.nrange
/-- The state bytes of a bucket in section 4. -/
def bucketState (pl : Plan) (b : PlanBucket) : Nat := ((bucketRanges pl b).map (fun r => 12 * r.nelem)).sum

/-- The length of one exponent set (R322), and where a bucket's table begins in it. -/
def expSetLen (pl : Plan) : Nat := up (pl.buckets.map (·.nblk)).sum 64
def expAt (pl : Plan) (b : Nat) : Nat := ((pl.buckets.take b).map (·.nblk)).sum
/-- The view offset of the exponent table of a bucket at a step. -/
def expOffset (pl : Plan) (b : Nat) (step : W32) : Nat := pl.expOff + (step.toNat % 2) * expSetLen pl + expAt pl b

/-- Object offset and length of each section. -/
def stookSecs (pl : Plan) (k : Stook) : List (Nat × Nat) :=
  let l0 := up (64 + 16 * k.nhs) 64
  let l2 := up (64 + 4 * k.hwNt) 64 + k.hwW * k.hwNt * 32
  let l3 := expSetLen pl
  let l4 := ((ownedBuckets pl).map (fun p => bucketState pl p.2)).sum
  let o2 := 3 * mib
  let o3 := up (o2 + l2) mib
  [(mib, l0), (2 * mib, 524288), (o2, l2), (o3, l3), (up (o3 + l3) mib, l4)]
def secOff (pl : Plan) (k : Stook) (n : Nat) : Nat := (((stookSecs pl k)[n]?).getD (0, 0)).1

/-- The order-free digest of a section (R475). -/
def secDigest (body : Mem) (off len : Nat) : Nat :=
  (((List.range (ceilDiv len 4096)).map (fun j =>
    let a := off + 4096 * j
    crc64 (toBytes 8 a ++ memBytes body a (min 4096 (len - 4096 * j))))).sum) % 2 ^ 64

/-- The manifest (R474). -/
def manifest (s : State) (pl : Plan) (k : Stook) : List Byte :=
  let secs := stookSecs pl k
  let head := toBytes 4 0xA7E50E01 ++ toBytes 2 1 ++ toBytes 2 0 ++ toBytes 4 k.step.toNat ++ toBytes 4 (engineId s).toNat ++
    toBytes 2 pl.myRank ++ toBytes 2 k.nhs ++ toBytes 4 (ownedBuckets pl).length ++ toBytes 8 s.shadow.serial.toNat ++
    toBytes 8 k.seed.toNat ++ toBytes 8 k.dataPos.toNat ++ toBytes 16 0 ++ toBytes 32 pl.digest.toNat ++ List.replicate 160 0
  let sect := secs.flatMap (fun p => toBytes 8 p.1 ++ toBytes 8 p.2 ++ toBytes 8 (secDigest k.body p.1 p.2) ++ toBytes 8 0)
  let body := head ++ sect ++ List.replicate 96 0 ++ List.replicate 3552 0
  body ++ sha256 body

/-- The seal line (R477). -/
def sealBytes (step : W32) (loss : List Byte) : List Byte :=
  let b := toBytes 4 0xA7E50E02 ++ toBytes 4 step.toNat ++ loss
  b ++ toBytes 8 (crc64 b) ++ List.replicate 44 0

/-! ### Cadence (R469) -/

/-- The ordinal of a stook step under the cadence in force. -/
def stookOrd (x : Ctx) (step : W32) : Option Nat :=
  match x.cad with
  | none => none
  | some c =>
    let d := (step - c.first).toNat
    if c.k ≠ 0 ∧ d % c.k = 0 ∧ (step - c.from_).toNat < 2 ^ 31 then some (d / c.k) else none

/-- Does the first bucket of a stook step have to wait for the stook before (R470)? -/
def stookHolds (x : Ctx) (step : W32) : Bool :=
  match stookOrd x step, x.stook with
  | some _, some k => k.step != step && k.st == .opened
  | _, _ => false

/-- Those of a context's stooks that may still be sealed: the present one and earlier ones. -/
def stooksOf (x : Ctx) : List Stook := x.stook.toList ++ x.sealing

/-- The earlier stooks once the present one gives way: one that is Complete waits for its seal. -/
def sealingNow (x : Ctx) : List Stook := x.sealing ++ (x.stook.toList.filter (fun k => k.st == .complete)).map (fun k => { k with body := [] })

/-- Opens the stook of a step at its first bucket. -/
def openStook (s : State) (c : BitVec 8) (step : W32) : State :=
  match ctxOf s c with
  | none => s
  | some x =>
    match stookOrd x step, x.cad with
    | some n, some cd =>
      if (x.stook.map (fun k => k.step == step)).getD false then s
      else setCtx s c { x with sealing := sealingNow x, stook := some ⟨step, cd.base + BitVec.ofNat 64 (2 ^ 44 * n), cd.ep, .opened, [], false, false, healthW s x,
        viewRead s x cbHwNt 2, [], 0, false, false, x.seed, 0, 0⟩ }
    | _, _ => s

/-! ### Emission (R470, R471, R268) -/

/-- The Crest side through which a Saddle die's traffic leaves: its own, or the next clockwise with an endpoint entry. -/
def stookSide (s : State) (ep : BitVec 24) (side : Nat) : Option Nat :=
  ((List.range 4).map (fun j => (side + j) % 4)).find? (fun d => (endpointOf s ep (fun p => decide (p / 16 = d))).isSome)

/-- Emits bytes of a section of the open stook of a step from a Saddle die: pieces of 256 bytes over ring class S.
DESIGN CHOICE, log entry 23. -/
def emitStook (s : State) (k : Nat) (c : BitVec 8) (step : W32) (sect off : Nat) (data : List Byte) : State :=
  match (ctxOf s c).bind (·.stook) with
  | none => s
  | some st =>
    if st.step ≠ step ∨ st.st ≠ .opened then s
    else match stookSide s st.ep (k / 6) with
      | none => stookFails s c step
      | some d =>
        let n := ceilDiv data.length 256
        let s := updCtx s c (fun x => { x with stook := some { st with body := memWriteBytes st.body off data, unacked := st.unacked + n } })
        (List.range n).foldl (fun s j =>
          sendRing s (ringStop k) (crestStop d) .s false (.stook c step sect (off + 256 * j) ((data.drop (256 * j)).take 256))) s

/-- One PUT of a stook from a Crest side: an address line and its bytes. -/
def stookPut (s : State) (c : BitVec 8) (step : W32) (part side off : Nat) (data : List Byte) : State :=
  match (ctxOf s c).bind (fun x => ((stooksOf x).find? (fun st => st.step == step)).map (fun st => (x, st))) with
  | none => s
  | some (x, st) =>
    match endpointOf s st.ep (fun p => decide (p / 16 = side)) with
      | none => stookFails s c step
      | some e =>
        let epoch := ((peerOf x st.ep).map (·.epoch)).getD 0
        let key := ethKey (engineId s) st.ep c 0xD epoch e.port
        if (ethStream s key).broken then stookFails s c step
        else
          let a := (st.base.toNat + off) % 2 ^ 64
          ethSend s key (.stook c step part) (putFrames (blkHdr s st.ep c epoch true step) 0 a data [])

/-- Section 0 leaves once the boundary part of the step is held. -/
def emitBoundary (s : State) (c : BitVec 8) : State :=
  match ctxOf s c with
  | none => s
  | some x =>
    match x.stook with
    | none => s
    | some st =>
      match x.parts.find? (fun p => !p.isSeal && p.step == st.step) with
      | none => s
      | some p =>
        if st.boundary ∨ st.st ≠ .opened then s
        else
          let s := setCtx s c { x with
            parts := x.parts.map (fun q => if q = p then { q with written := true } else q)
            stook := some { st with boundary := true, dataPos := BitVec.ofNat 64 (leNat (p.data.take 8)), nhs := leNat ((p.data.drop 8).take 2) } }
          emitStook s (homeSaddle x) c st.step 0 mib p.data

/-- Have all buckets that this rank owns a version of at least a step? -/
def publishedAll (x : Ctx) (pl : Plan) (step : W32) : Bool :=
  (ownedBuckets pl).all (fun p => match tabFind x.win.versions p.1 with
    | some v => decide ((v - step).toNat < 2 ^ 31)
    | none => false)

/-- Section 2 as it stands: W and the directory, then the window records. -/
def healthSection (s : State) (x : Ctx) (w nt : Nat) : List Byte :=
  let head := toBytes 2 (w - 1) ++ toBytes 2 nt ++ List.replicate 60 0 ++ viewBytes s x atTids (4 * nt)
  head ++ List.replicate (up head.length 64 - head.length) 0 ++ viewBytes s x atWindow (w * nt * 32)

/-- Sections 1 to 3 leave once, after the last owned bucket is published and the step boundary has passed. DESIGN CHOICE, log entry 23. -/
def emitParts (s : State) (c : BitVec 8) : State :=
  match ctxOf s c with
  | none => s
  | some x =>
    match x.stook, x.win.plan with
    | some st, some pl =>
      let passed := (x.boundaryDone.map (fun b => decide ((b - st.step).toNat < 2 ^ 31))).getD false
      if st.parts ∨ st.st ≠ .opened ∨ !passed ∨ !publishedAll x pl st.step then s
      else
        let h := homeSaddle x
        let s := setCtx s c { x with stook := some { st with parts := true } }
        let s := emitStook s h c st.step 1 (2 * mib) (viewBytes s x atLayers 524288)
        let s := emitStook s h c st.step 2 (secOff pl st 2) (healthSection s x st.hwW st.hwNt)
        emitStook s h c st.step 3 (secOff pl st 3) (viewBytes s x (pl.expOff + ((st.step + 1).toNat % 2) * expSetLen pl) (expSetLen pl))
    | _, _ => s

/-- STOOK_MANIFEST_PUT: every section has been emitted and acknowledged. DESIGN CHOICE, log entry 23. -/
def manifestPut (s : State) (c : BitVec 8) : State :=
  match ctxOf s c with
  | none => s
  | some x =>
    match x.stook, x.win.plan with
    | some st, some pl =>
      let all := (ownedBuckets pl).all (fun p => st.emitted.contains p.1)
      if st.st ≠ .opened ∨ st.manifestSent ∨ !all ∨ !st.parts ∨ !st.boundary ∨ st.unacked ≠ 0 then s
      else match stookSide s st.ep (homeSaddle x / 6) with
        | none => stookFails s c st.step
        | some d =>
          let s := setCtx s c { x with stook := some { st with manifestSent := true } }
          stookPut s c st.step 1 d 0 (manifest s pl st)
    | _, _ => s

/-- The seal part held for a step. -/
def sealOf (x : Ctx) (step : W32) : Option StookPart := x.parts.find? (fun p => p.isSeal && p.step == step)

/-- May the seal line of a stook be PUT: it is Complete, and its seal part is held? -/
def sealDue (x : Ctx) (k : Stook) : Bool := k.st == .complete && !k.sealSent && (sealOf x k.step).isSome

/-- STOOK_SEAL_PUT: the seal line of a stook that is due leaves, of the present one first. -/
def sealPut (s : State) (c : BitVec 8) : State :=
  match ctxOf s c with
  | none => s
  | some x =>
    match (stooksOf x).find? (sealDue x) with
    | none => s
    | some st =>
      match sealOf x st.step, stookSide s st.ep (homeSaddle x / 6) with
      | some p, some d =>
        let mark (k : Stook) : Stook := if k.step = st.step then { k with sealSent := true } else k
        let s := setCtx s c { x with
          parts := x.parts.map (fun q => if q = p then { q with written := true } else q)
          stook := x.stook.map mark, sealing := x.sealing.map mark }
        stookPut s c st.step 2 d 0x1000 (sealBytes st.step (p.data.take 4))
      | _, _ => s

/-! ### Parts (R476) and the comparison of losses (R481) -/

/-- The rules that a boundary structure keeps. -/
def boundaryOk (b : List Byte) : Bool :=
  let nhs := leNat ((b.drop 8).take 2)
  let ent (i : Nat) : List Byte := (b.drop (64 + 16 * i)).take 16
  decide (nhs ≤ 256) && b.length == up (64 + 16 * nhs) 64 && ((b.drop 10).take 54).all (· == 0) &&
    (List.range nhs).all (fun i => (((ent i).drop 2).take 6).all (· == 0)) &&
    (((List.range nhs).map (fun i => leNat ((ent i).take 2))).eraseDups.length == nhs)

/-- Is a stook part's descriptor and structure valid? -/
def partOk (t : Transfer) (b : List Byte) : Bool :=
  !t.get && decide (t.raddr < 2 ^ 40) &&
    (if bits t.raddr 39 32 = 1 then boundaryOk b
     else bits t.raddr 39 32 == 2 && t.len == 64 && (b.drop 4).all (· == 0))

/-- The answer of STOOK_VERIFY (R410): sealed and posted loss. -/
def verifyAns (want : BitVec 32) (loss : Nat) : Ans :=
  if want.toNat = loss then ansBody stOk 0 [want, w32 loss] else ansBody stLossMismatch 0 [want, w32 loss]

/-- Answers a STOOK_VERIFY that waits, once the seal part of the restored step is held. -/
def verifyTry (s : State) (c : BitVec 8) : State :=
  if !s.chans.any (fun p => p.2.await == some (.verify c)) then s
  else match ctxOf s c with
    | none => s
    | some x =>
      match x.restored with
      | some (step, some want) =>
        match sealOf x step with
        | none => s
        | some p =>
          let loss := leNat (p.data.take 4)
          let s := answerAwaiting s (.verify c) (verifyAns want loss)
          if want.toNat = loss then s
          else autoTest (logCairn s 0x0504 (some c) (want.toNat + 2 ^ 32 * loss)) c 0x3F
      | _ => s

/-- STOOK_PART: the oldest descriptor with STOOK set delivers its structure to the home Saddle die. -/
def stookPart (s : State) (c : BitVec 8) : State :=
  match s.eth.xfers.find? (fun t => t.ctx == c && t.stook && !t.ended), ctxOf s c with
  | some t, some x =>
    let b := viewBytes s x t.loff t.len
    if !partOk t b then endXfer s c t.idx 2 3
    else
      let isSeal := bits t.raddr 39 32 == 2
      let step : W32 := BitVec.ofNat 32 t.raddr
      let old := x.parts.find? (fun p => p.isSeal == isSeal && p.step == step)
      let rest := x.parts.filter (fun p => !(p.isSeal == isSeal && p.step == step))
      let parts := match old with
        | some p => if p.written then x.parts else rest ++ [⟨isSeal, step, b, false⟩]
        | none => x.parts ++ [⟨isSeal, step, b, false⟩]
      let s := endXfer (setCtx s c { x with parts := parts }) c t.idx 1 0
      verifyTry (emitBoundary s c) c
  | _, _ => s

/-- STOOK_PART (R476). -/
def execStookPart (ctx : BitVec 8) (s : State) : Host.Outcome State Fault Refusal :=
  .next (stookPart s ctx)

/-- STOOK_MANIFEST_PUT (R477). -/
def execStookManifestPut (ctx : BitVec 8) (s : State) : Host.Outcome State Fault Refusal :=
  .next (manifestPut s ctx)

/-- STOOK_SEAL_PUT (R477). -/
def execStookSealPut (ctx : BitVec 8) (s : State) : Host.Outcome State Fault Refusal :=
  .next (sealPut s ctx)

end Sys2Proof.Machine
end

