-- ==== Sys2Proof/Machine/Ring.lean ====
section
/-! DEFINITION. The Crest ring (R267 to R269): flits move one segment at a time and are delivered to Maelec, a Saddle die or a Crest
die. -/
namespace Sys2Proof.Machine

/-- The Saddle die at a ring stop. -/
def stopSaddle (p : Nat) : Option Nat := if p % 7 = 3 then none else some (6 * (p / 7) + (if p % 7 < 3 then p % 7 else p % 7 - 1))

/-- Bytes from the ring, written under R260 and R264 from a view offset on, within one slab. CR_RD makes room for records.
DEDUCED, log entry 18. -/
def ringWrite (s : State) (k : Nat) (c : BitVec 8) (off epoch : Nat) (data : List Byte) (psn : Bool) : State :=
  match saddleCheck s k c epoch off with
  | .wait => s
  | .drop s' => s'
  | .good x _ =>
    let s := viewWrite s x off data
    let lines := (List.range ((off + data.length + 63) / 64 - off / 64)).filterMap (fun i => viewPhys x (64 * (off / 64 + i)))
    let s := lines.foldl (fun s l => if psn then markBad s k c l else unmarkBad s k c l) s
    if off < 16 then drainRecs s c x.heldRecs else s

/-- A flit at its destination. DEDUCED, log entry 18. -/
def deliver (s : State) (f : Flit) : State :=
  match f.body with
  | .report r => { s with reports := s.reports ++ [r] }
  | .answer tile _ router => { s with cairn := { s.cairn with probeSeen := s.cairn.probeSeen ++ [(tile, router)] } }
  | .hbmWrite c off data epoch =>
    match stopSaddle f.dst with
    | some k => ringWrite s k c off epoch data f.psn
    | none => s
  | .put job n data => putPiece s job n data f.psn
  | .stook c step _ off data => if f.psn then stookFails s c step else stookPut s c step 0 (f.dst / 7) off data

/-- A write to a slab that is still being scrubbed for its context waits at its stop. -/
def flitWaits (s : State) (f : Flit) : Bool :=
  match f.body with
  | .hbmWrite c off _ epoch =>
    (match stopSaddle f.dst with
     | some k => (match saddleCheck s k c epoch off with
        | .wait => true
        | _ => false)
     | none => false)
  | _ => false

def sameFlow (a b : Flit) : Bool := a.src == b.src && a.dst == b.dst && a.cls == b.cls

/-- Does a flit carry a write of the host? Those take effect in the order in which the host made them, in whatever die (R383). -/
def hostWrite (f : Flit) : Bool := f.src == crestStop 2 && f.cls == .h && (match f.body with
  | .hbmWrite .. => true
  | _ => false)

/-- Payload bytes of a flit. -/
def flitBytes : FlitBody → Nat
  | .hbmWrite _ _ d _ => d.length
  | .stook _ _ _ _ d => d.length
  | .put _ _ d => d.length
  | _ => 64

/-! ### Shares of a segment (R267) -/

/-- A class's share of 9 turns, and what a class has left of a round. -/
def ringShares : Nat × Nat × Nat := (1, 4, 4)
def shareOf (v : Nat × Nat × Nat) : RingClass → Nat
  | .h => v.1
  | .i => v.2.1
  | .s => v.2.2
def takeShare (v : Nat × Nat × Nat) : RingClass → Nat × Nat × Nat
  | .h => (v.1 - 1, v.2.1, v.2.2)
  | .i => (v.1, v.2.1 - 1, v.2.2)
  | .s => (v.1, v.2.1, v.2.2 - 1)

/-- The segment that a flit crosses next. -/
def segKey (f : Flit) : Nat := 2 * f.at_ + (if f.cw then 1 else 0)

/-- The classes that wait at a segment. -/
def waitingAt (s : State) (seg : Nat) : List RingClass := [.h, .i, .s].filter (fun c => s.ring.any (fun g => g.cls == c && segKey g == seg && g.at_ != g.dst))

/-- What the classes have left of a segment's round, which begins anew once none that waits has a turn left: a class that does not wait
leaves its turns to the others. DEDUCED, log entry 18. -/
def roundNow (s : State) (seg : Nat) : Nat × Nat × Nat :=
  let v := tabGet s.ringArb seg ringShares
  if (waitingAt s seg).any (fun c => shareOf v c != 0) then v else ringShares

/-- RING_FLIT: the n-th flit crosses its next segment in its class's turn, or repeats it after a CRC failure, at most 3 times; no flit
passes an earlier one of its flow, and no write of the host takes effect before an earlier one. -/
def ringFlit (s : State) (n : Nat) (crcOk : Bool) : State :=
  match s.ring[n]? with
  | none => s
  | some f =>
    let arrived := f.at_ = f.dst
    let seg := segKey f
    let round := roundNow s seg
    if (s.ring.take n).any (fun g => sameFlow g f && g.at_ == f.at_) ∨ (!arrived ∧ shareOf round f.cls = 0) then s
    else
      let s := if arrived then s else { s with ringArb := tabSet s.ringArb seg (takeShare round f.cls) }
      let next := if arrived then f.at_ else if f.cw then (f.at_ + 1) % 28 else (f.at_ + 27) % 28
      if !crcOk ∧ !arrived ∧ f.tries < 3 then
        ceAdd { s with ring := s.ring.set n { f with tries := f.tries + 1 } } 4
      else
        let f := { f with at_ := next, tries := 0, psn := f.psn || (!crcOk && !arrived) }
        let after := (s.ring.take n).any (fun g => sameFlow g f || (hostWrite g && hostWrite f))
        if next = f.dst ∧ !flitWaits s f ∧ !after then deliver { s with ring := s.ring.eraseIdx n } f
        else { s with ring := s.ring.set n f }

/-- RING_FLIT (R268). -/
def execRingFlit (n : Nat) (crcOk : Bool) (s : State) : Host.Outcome State Fault Refusal :=
  .next (ringFlit s n crcOk)

end Sys2Proof.Machine
end

