-- ==== Sys2Proof/Machine/Plan.lean ====
section
/-! DEFINITION. What a bucket plan fixes (R288 to R301, R309): chunks, contributions, paths to the owner, expected inputs, the
format and the exponents of an attempt, order indices, and exponents of a bucket (R165, R322). -/
namespace Sys2Proof.Machine

/-! ### Chunks and attempts (R290, R309) -/

def chunkCount (b : PlanBucket) : Nat := ceilDiv b.nblk 32
def chunkBlocks (b : PlanBucket) (c : Nat) : Nat := min 32 (b.nblk - 32 * c)

/-- The wire format of attempt a: one rung up per attempt, no further than W32. -/
def attFmt (pl : Plan) (a : Nat) : Nat := min 0xC (pl.wfmt0 + a)
def wireW (fmt : Nat) : Nat := if fmt = 0xA then 16 else if fmt = 0xB then 24 else 32
/-- The exponent of a block in attempt a. -/
def attExp (b0 a : Nat) : Nat := min 255 (b0 + 8 * a)

/-! ### Order (R304) -/

def orderIx (pl : Plan) (step : W32) (b : Nat) : Nat := (step - pl.firstStep).toNat * pl.buckets.length + b
def committed (w : WinnowCtx) (i : Nat) : Bool := decide (i < w.front) || w.ahead.contains i
/-- May frames of the bucket of an order index leave? -/
def windowOpen (pl : Plan) (w : WinnowCtx) (i : Nat) : Bool := decide (i < pl.window) || committed w (i - pl.window)

/-- The frontier moves over indices committed in a row. -/
def frontMove : Nat → WinnowCtx → WinnowCtx
  | 0, w => w
  | n + 1, w => if w.ahead.contains w.front then frontMove n { w with front := w.front + 1, ahead := w.ahead.filter (· != w.front) } else w
def commitIx (w : WinnowCtx) (i : Nat) : WinnowCtx :=
  if committed w i then w else frontMove (w.ahead.length + 1) { w with ahead := i :: w.ahead }

/-! ### Contributions (R301) -/

/-- A rank's contribution to a chunk. -/
inductive Contrib where
  | none
  | plain
  | paired (partner : Nat) (backup : Bool)
deriving DecidableEq, Repr

def bucketCovs (pl : Plan) (b : PlanBucket) : List PlanCov := (pl.covs.drop b.cov0).take b.ncov
def contrib (pl : Plan) (b : PlanBucket) (r c : Nat) : Contrib :=
  if b.ncov = 0 then .plain
  else match (bucketCovs pl b).find? (fun v => v.rank == r && decide (v.first ≤ 32 * c ∧ 32 * c < v.first + v.nblk)) with
    | none => .none
    | some v => if v.partner = 0xFFFF then .plain else .paired v.partner v.backup

/-- The ranks that may contribute to a bucket. -/
def bucketRanks (pl : Plan) (b : PlanBucket) : List Nat :=
  if b.ncov = 0 then List.range pl.ranks.length else (bucketCovs pl b).map (·.rank)

/-- The pairs that cover a chunk, as (primary, backup). -/
def chunkPairs (pl : Plan) (b : PlanBucket) (c : Nat) : List (Nat × Nat) :=
  (bucketRanks pl b).filterMap (fun r => match contrib pl b r c with
    | .paired p false => some (r, p)
    | _ => none)

/-! ### Paths (R300) -/

def rankParent (pl : Plan) (r : Nat) : Nat := ((pl.ranks[r]?).map (·.parent)).getD r
/-- A rank and its ancestors up to the root. -/
def ancestors (pl : Plan) : Nat → Nat → List Nat
  | 0, r => [r]
  | n + 1, r => if rankParent pl r = r then [r] else r :: ancestors pl n (rankParent pl r)

/-- The next rank on the way of chunk c from rank r to owner o. -/
def pathNext (pl : Plan) (o c r : Nat) : Option Nat :=
  let n := pl.ranks.length
  if r = o then none
  else if pl.sched = 0 then some (if c % 2 = 0 then (r + 1) % n else (r + n - 1) % n)
  else if pl.sched = 1 then
    let X := pl.tx + 1
    let Y := n / X
    let x := r % X
    let y := r / X
    if x ≠ o % X then some (y * X + (if c % 2 = 0 then (x + 1) % X else (x + X - 1) % X))
    else some ((if c / 2 % 2 = 0 then (y + 1) % Y else (y + Y - 1) % Y) * X + x)
  else
    let up := ancestors pl n o
    match up.findIdx? (· == r) with
    | some (i + 1) => up[i]?
    | _ => some (rankParent pl r)

/-- The ranks that follow r on the way to o. -/
def pathFrom (pl : Plan) (o c : Nat) : Nat → Nat → List Nat
  | 0, _ => []
  | n + 1, r => match pathNext pl o c r with
    | some q => q :: pathFrom pl o c n q
    | none => []

/-- Does rank r send a partial of the chunk: is there a summed contribution on it or before it? -/
def sendsPartial (pl : Plan) (b : PlanBucket) (c r : Nat) : Bool :=
  r != b.owner && (bucketRanks pl b).any (fun q => contrib pl b q c == .plain &&
    (q == r || (pathFrom pl b.owner c pl.ranks.length q).contains r))

/-- The ranks whose partials reach rank r. -/
def partialSources (pl : Plan) (b : PlanBucket) (c r : Nat) : List Nat :=
  (List.range pl.ranks.length).filter (fun q => pathNext pl b.owner c q == some r && sendsPartial pl b c q)

/-- The summed inputs that rank r awaits for a chunk, by sending rank; its own contribution counts under its own number. -/
def expected (pl : Plan) (b : PlanBucket) (c r : Nat) : List Nat :=
  (if contrib pl b r c = .plain then [r] else []) ++ partialSources pl b c r

/-- Does a rank send anything for a bucket? -/
def sendsAny (pl : Plan) (b : PlanBucket) (r : Nat) : Bool :=
  (List.range (chunkCount b)).any (fun c => sendsPartial pl b c r || (match contrib pl b r c with
    | .paired _ _ => true
    | _ => false))

def rankEngine (pl : Plan) (r : Nat) : BitVec 24 := ((pl.ranks[r]?).map (·.engine)).getD 0
def engineRank (pl : Plan) (e : BitVec 24) : Option Nat := pl.ranks.findIdx? (fun r => r.engine == e)

/-! ### Tiles (R299) -/

/-- Tile t of port die p, in the order of R299. -/
def reductionTile (w p c : Nat) : Nat :=
  let a := portTile w p
  let t := c / 8 % 4
  tileIx (a.1 + t % 2) (a.2 + t / 2)

/-! ### Exponents (R165, R322) -/

/-- ⌈log2 n⌉. -/
def clog2 (n : Nat) : Nat := if n ≤ 1 then 0 else Nat.log2 (n - 1) + 1

def initExp (b : PlanBucket) : Nat := if b.b0set then b.b0 else 127 + clog2 b.ncon + 2

/-- The exponent of a block at the next step: from its committed BMAX, the change of s_l of its layer, and its present one. -/
def nextExp (b : PlanBucket) (bmax now : Nat) (delta : Int) : Nat :=
  let z : Int := if bmax = 0 then (now : Int) + delta else (bmax : Int) + (clog2 b.ncon : Int) + 2 + delta
  (min 255 (max 0 z)).toNat

/-- The range of a bucket that holds a block. -/
def blockRange (pl : Plan) (b : PlanBucket) (blk : Nat) : Option PlanRange :=
  (bucketRanges pl b).find? (fun r => decide (r.blk0 ≤ blk ∧ blk < r.blk0 + ceilDiv r.nelem 32))

end Sys2Proof.Machine
end

