-- ==== Sys2Proof/Machine/Tasks.lean ====
section
/-! DEFINITION. Task graphs at run time (R217 to R246): the walk of the task lists, loading by the dispatcher, retirement of
completions, completion records, submissions and cancels. -/
namespace Sys2Proof.Machine

/-! ### Task lists and loading (R225 to R231) -/

/-- The task list of a tile and queue in a graph: the tasks placed there, in increasing task index. -/
def tasksOn (g : Graph) (tile q : Nat) : List (Nat × GTask) :=
  ((g.tasks.zipIdx).filter (fun p => p.1.tile == tile && p.1.queue == q)).map (fun p => (p.2, p.1))

/-- A position in the walk: submission, instance, place in the list, task. -/
structure Head where
  sub : Submission
  inst : Nat
  pos : Nat
  graph : Graph
  idx : Nat
  task : GTask
deriving DecidableEq, Repr

/-- The head of a list, walking from the cursor over the submissions (R225). -/
def walkSubs (x : Ctx) (cur : Cursor) (tile q : Nat) : List Submission → Option Head
  | [] => none
  | b :: rest =>
    match findGraph x b.graph with
    | none => walkSubs x cur tile q rest
    | some g =>
      let l := tasksOn g tile q
      let at_ := if b.no = cur.sub then (cur.inst, cur.pos) else (0, 0)
      let at_ := if at_.2 ≥ l.length then (at_.1 + 1, 0) else at_
      match l[at_.2]? with
      | none => walkSubs x cur tile q rest
      | some p => if at_.1 < b.count then some ⟨b, at_.1, at_.2, g, p.1, p.2⟩ else walkSubs x cur tile q rest

/-- Submissions of a context on a sheaf that the tiles may load from. -/
def loadable (x : Ctx) (sheaf : Nat) (from_ : Nat) : List Submission :=
  x.subs.filter (fun b => b.sheaf == sheaf && b.onTiles && !b.cancelling && !b.finished && decide (from_ ≤ b.no))

def cursorKey (sec : Bool) (q : Nat) : Nat := 4 * (if sec then 1 else 0) + q

/-- Have the tiles of a sheaf begun an instance for a role: has one loaded a task of it, or gone beyond it?. DEDUCED, log entry 46. -/
def begunInst (s : State) (h : Sheaf) (sec : Bool) (no inst : Nat) : Bool :=
  (sheafTiles h).any (fun i => (List.range 4).any (fun q => match tabFind (tileOf s i).cursors (cursorKey sec q) with
    | some u => decide (no < u.sub) || (u.sub == no && (decide (inst < u.inst) || (u.inst == inst && decide (0 < u.pos))))
    | none => false))

/-- May a list entry of this instance be loaded: no reset in progress, and for a context that is held only an instance that has begun
(R441, R442, R462)?. DEDUCED, log entry 46. -/
def mayLoadInst (s : State) (x : Ctx) (sheaf : Sheaf) (sec : Bool) (h : Head) : Bool :=
  x.reset.isNone && ((x.quiesced.isEmpty && x.waiting.isEmpty) || begunInst s sheaf sec h.sub.no h.inst)

/-- Step of the next instance, for DELTA edges (R221, R226). -/
def edgeStep (step : W32) (e : GEdge) : W32 := if e.delta then step + 1 else step

/-- What the dispatcher loads for a task of an instance (R63, R226 to R228). `only`: the tasks to which TOKEN edges may go,
as (submission, instance, task), during a replay. -/
def taskDesc (c : BitVec 8) (sec : Bool) (h : Head) (only : Option (List (Nat × Nat × Nat))) (tokens : Nat) : TaskDesc :=
  let step := instStep h.sub h.inst
  let args := if h.task.stepArg then h.task.args.take 7 ++ [step] else h.task.args
  let edges := h.task.edges.filter (fun e => !e.data && (match only with
    | none => true
    | some l => l.contains (h.sub.no, (if e.delta then h.inst + 1 else h.inst), e.target)))
  { graph := h.graph.handle, task := h.idx, subNo := h.sub.no, step := step, ctx := c, sec := sec, queue := h.task.queue
    tid := stepTid h.task.tid step, entry := h.task.entry, args := args, bases := h.task.bases, wins := h.task.wins
    tokens := tokens, wdog := h.graph.wdog, prom := h.graph.prom, ordered := bitOf h.graph.ordq h.task.queue
    edges := edges.filterMap (fun e => (h.graph.tasks[e.target]?).map (fun u => ⟨u.tile, stepTid u.tid (edgeStep step e), e.pri⟩))
    silent := false, repass := false }

/-- TOKEN edges of the graph that target a task, with the given DELTA (R228). -/
def deltaEdges (g : Graph) (idx : Nat) (delta : Bool) : Nat :=
  ((g.tasks.flatMap (·.edges)).filter (fun e => e.target == idx && !e.data && e.delta == delta)).length

/-- The counter's initial value (R228). -/
def startTokens (h : Head) : Nat := if h.inst = 0 then h.task.tokens - deltaEdges h.graph h.idx true else h.task.tokens

/-- The sheaf and context of a role on a tile. -/
def roleSheaf (s : State) (i : Nat) (sec : Bool) : Option ((Nat × Sheaf) × BitVec 8 × Ctx) :=
  match s.sheaves.find? (fun p => (sheafTiles p.2).contains i), roleOf (tileOf s i) sec with
  | some p, some r => (ctxOf s r.ctx).map (fun x => (p, r.ctx, x))
  | _, _ => none

/-- The entry at the head of a queue's list for a role: a replayed or re-dispatched task first, else the walk's head. -/
inductive Entry where
  | extra (d : TaskDesc)
  | head (h : Head)
deriving DecidableEq, Repr

def queueHead (s : State) (i : Nat) (q : Nat) (sec : Bool) : Option Entry :=
  let t := tileOf s i
  match t.replay.find? (fun d => d.queue == q && d.sec == sec) with
  | some d => some (.extra d)
  | none =>
    match roleSheaf s i sec with
    | none => none
    | some (sh, _, x) =>
      let cur := tabGet t.cursors (cursorKey sec q) ⟨0, 0, 0⟩
      match walkSubs x cur i q (loadable x sh.1 cur.sub) with
      | none => none
      | some h => if mayLoadInst s x sh.2 sec h then some (.head h) else none

/-- The order in which lists are tried (R230). -/
def loadOrder : List (Bool × Nat) :=
  [(false, 1), (false, 0), (false, 3), (false, 2), (true, 1), (true, 0), (true, 3), (true, 2)]

/-- Removes the first entry equal to `d`. -/
def dropOne {α : Type} [DecidableEq α] (d : α) : List α → List α
  | [] => []
  | x :: l => if x = d then l else x :: dropOne d l

/-- The format in which a task that is loaded now writes one of its anchors: the compute format of the block's layer, of a gradient
anchor that of its gradient operands (R24, R331); as the replay section has it for a layer outside the table. DEDUCED, log entry 51. -/
def anchorFmt (s : State) (x : Ctx) (a : GAnchor) : Nat :=
  if !x.layers.contains a.layer then a.fmt
  else
    let cf := layerCfmt s x a.layer
    if a.grad && cf == 3 && bitOf (layerFmt s x a.layer) 9 then 4 else cf

/-- Notes what a task's records will say when it retires. -/
def noteLoad (s : State) (c : BitVec 8) (graph subNo : Nat) (step : W32) (task : Nat) : State :=
  updCtx s c (fun x =>
    match findGraph x graph, findSub x subNo with
    | some g, some b =>
      let key := (subNo, (step - b.first).toNat, task)
      let fmts := ((g.tasks[task]?).map (fun t => t.anchors.map (anchorFmt s x))).getD []
      { x with loads := ⟨key, x.lastLayerTab, fmts⟩ :: x.loads.filter (fun n => n.key != key) }
    | _, _ => x)

/-- DISPATCHER_LOAD on one tile: the first list whose head is prefetched (bit of `pre`: role * 4 + queue), may be loaded and
finds a slot (R62, R230, R231). -/
def dispatcherLoad (s : State) (i : Nat) (pre : BitVec 8) : State :=
  if !tileUp s i || (tileOf s i).power != .run then s
  else
    let t := tileOf s i
    let pick := loadOrder.findSome? (fun p =>
      if bitOf pre.toNat (cursorKey p.1 p.2) && slotAvail t p.2 p.1 then
        (queueHead s i p.2 p.1).map (fun e => (p.1, p.2, e))
      else none)
    match pick with
    | none => s
    | some (_, _, .extra d) =>
      noteLoad (putTile s i (loadTask d { t with replay := dropOne d t.replay })) d.ctx d.graph d.subNo d.step d.task
    | some (sec, q, .head h) =>
      match roleOf t sec with
      | none => s
      | some r =>
        let t := { t with cursors := tabSet t.cursors (cursorKey sec q) ⟨h.sub.no, h.inst, h.pos + 1⟩ }
        let d := taskDesc r.ctx sec h none (startTokens h)
        noteLoad (putTile s i (loadTask d t)) d.ctx d.graph d.subNo d.step d.task

/-! ### Retirement (R239 to R241, R246, R445, R446) -/

/-- The ordinal of an instance's step within its submission. -/
def instOf (b : Submission) (step : W32) : Nat := (step - b.first).toNat

def retiredIn (b : Submission) (k : Nat) : List Nat := tabGet b.retired k []

/-- Marks the first glean record of a step (R446), keeping marks only of steps that still matter. -/
def markGlean (x : Ctx) (step : W32) : Ctx :=
  if x.gleanMarks.any (fun p => p.1 == step) then x else { x with gleanMarks := x.gleanMarks ++ [(step, x.gsn)] }

/-- Would n new records overwrite one of an instance that is not older than the oldest unfinished one by more than one step? -/
def gleanFull (x : Ctx) (n : Nat) : Bool :=
  let old := oldestStep x
  x.gleanMarks.any (fun p => decide ((old - p.1).toNat ≤ 1 ∨ (p.1 - old).toNat < 2 ^ 31) && decide (8388608 + p.2 < x.gsn + n))

/-- The records that the retirement of a task writes: TASK, and one ANCHOR for each anchor write (R445). -/
def recsOf (x : Ctx) (graph task : Nat) : Nat :=
  1 + (((findGraph x graph).bind (fun g => g.tasks[task]?)).map (fun t => t.anchors.length)).getD 0

/-- The ANCHOR records of a retired task (R445), in the formats noted at its load. -/
def anchorRecs (s : State) (c : BitVec 8) (step : W32) (fmts : List Nat) (g : GTask) : State :=
  (g.anchors.zipIdx).foldl (fun s a => gleanRec s c 2 step
    (a.1.micro % 2 ^ 12 + flagBit a.1.grad 12 + 2 ^ 13 * (a.1.len / 4096)) 0
    (a.1.off % 2 ^ 44 + 2 ^ 44 * ((fmts[a.2]?).getD a.1.fmt) + 2 ^ 48 * a.1.layer)) s

/-- Removes a task from the members of a replay; the last one ends the replay (R450). -/
def replayRetire (s : State) (c : BitVec 8) (m : Nat × Nat × Nat) : State :=
  match (ctxOf s c).bind (·.reset) with
  | none => s
  | some r =>
    if r.begun ∧ r.members.contains m then
      let l := r.members.filter (· != m)
      let s := updCtx s c (fun x => { x with reset := some { r with members := l, replayed := r.replayed + 1 } })
      if l.isEmpty then
        let s := logAt s 0x0303 5 0 (some c) none (r.rno + 2 ^ 16 * (r.replayed + 1))
        updCtx s c (fun x => { x with reset := none, quiesced := x.quiesced.filter (fun q => match q with
          | .spur j => spurState s j != spurAttached
          | _ => true) })
      else s
    else s

/-- The trap detail of a completion record (R241). -/
def faultDetail (trap unit pc : Nat) : Nat := trap % 8 + (unit % 4) * 8 + (pc % 2 ^ 15) * 32

/-- A completion as a retire unit takes it: the sending tile, graph, task, submission, step, trap with unit and PC of a fault, and
whether the task ran again while its instance went on (R311, R177). -/
structure Retiring where
  tile : Nat
  graph : Nat
  task : Nat
  subNo : Nat
  step : W32
  fault : Option (Nat × Nat × Nat)
  again : Bool
deriving DecidableEq, Repr

/-- Has a (task, instance) retired already, or is its submission gone? -/
def retiredAlready (x : Ctx) (r : Retiring) : Bool :=
  match findSub x r.subNo with
  | some b => (retiredIn b (instOf b r.step)).contains r.task || decide (instOf b r.step < b.done)
  | none => true

/-- The glean records of a retirement: TASK at the first one, ANCHOR for each anchor write of a task that has not faulted; of a
task that ran again the ANCHOR records alone, which supersede the older ones (R277, R445). -/
def retireRecs (s : State) (c : BitVec 8) (x : Ctx) (r : Retiring) (k : Nat) : State :=
  let note := x.loads.find? (fun n => n.key == (r.subNo, k, r.task))
  let s := setCtx s c { markGlean x r.step with loads := x.loads.filter (fun n => n.key != (r.subNo, k, r.task)) }
  let s := if r.again then s
    else gleanRec s c 1 r.step r.subNo ((note.map (·.ltv)).getD x.lastLayerTab)
      (r.graph + 2 ^ 16 * r.task + 2 ^ 36 * (if r.fault.isSome then 1 else 0) + 2 ^ 38 * r.tile)
  match (findGraph x r.graph).bind (fun g => g.tasks[r.task]?) with
  | some g => if r.fault.isNone then anchorRecs s c r.step ((note.map (·.fmts)).getD []) g else s
  | none => s

/-- The TASK_FAULT record of a fault (R241), which Nuarn then handles. -/
def recordFault (s : State) (c : BitVec 8) (r : Retiring) : State :=
  match r.fault with
  | some (tr, u, pc) =>
    let s := complRec s c 1 r.graph r.subNo r.step r.task (faultDetail tr u pc) false
    updCtx s c (fun x => { x with faults := x.faults ++ [⟨r.subNo, r.step, r.graph, r.task, tr⟩] })
  | none => s

/-- Retires one completion (R240, R241). A completion of a (task, instance) already retired is dropped (R246). A task that ran again
does not retire; its fault is recorded all the same (R311). -/
def retire (s : State) (c : BitVec 8) (r : Retiring) : State :=
  match ctxOf s c with
  | none => s
  | some x =>
    let k := ((findSub x r.subNo).map (fun b => instOf b r.step)).getD 0
    if r.again then recordFault (retireRecs s c x r k) c r
    else
      let s := if retiredAlready x r then s
        else
          let s := updCtx (retireRecs s c x r k) c (fun x =>
            updSub x r.subNo (fun b => { b with retired := tabMod b.retired k [] (· ++ [r.task]) }))
          recordFault s c r
      replayRetire s c (r.subNo, k, r.task)

/-- Is a message a completion, or the second form of one? -/
def isCompl : AwnBody → Bool
  | .complTask .. => true
  | .complDetail .. => true
  | _ => false

/-- The oldest completion of a retire unit's inbox that need not wait under R446: those of a context that waits stay behind it. -/
def nextCompl (s : State) (d : Saddle) : Option Nat :=
  let waits (m : AwnMsg) : Bool := m.epoch == epochNow s m.ctx && (match ctxOf s m.ctx, m.body with
    | some x, .complTask g t _ _ _ _ => gleanFull x (recsOf x g t)
    | _, _ => false)
  ((d.inbox.zipIdx).find? (fun p => isCompl p.1.body && !((d.inbox.take (p.2 + 1)).any (fun m => m.ctx == p.1.ctx && waits m)))).map (·.2)

/-- COMPLETION at a retire unit: the oldest message of its inbox that may retire, checked against the EPOCH as R191 checks it. The two
forms of a fault completion retire together (R238). While a completion waits, its context's later ones wait behind it at the die,
whose room then holds the rest in their retire-order buffers and slots (R446). DEDUCED, log entry 51. -/
def completionArrives (s : State) (k : Nat) : State :=
  let d := saddleOf s k
  match (nextCompl s d).bind (fun n => (d.inbox[n]?).map (fun m => (n, m))) with
  | none => s
  | some (n, m) =>
    let rest := d.inbox.eraseIdx n
    let pop := setSaddle s k { d with inbox := rest }
    if (ctxOf s m.ctx).isNone ∨ m.epoch ≠ epochNow s m.ctx then
      let s := match m.body with
        | .complDetail .. => setSaddle s k { d with inbox := rest, faultTasks := d.faultTasks.filter (·.src != m.src) }
        | _ => pop
      ownItem (logAt s 0x1002 2 k (some m.ctx) none 0) m.ctx
    else
      match m.body with
      | .complTask g t faulted step sub again =>
        if faulted then setSaddle s k { d with inbox := rest, faultTasks := d.faultTasks ++ [m] }
        else retire pop m.ctx ⟨m.src, g, t, sub, step, none, again⟩
      | .complDetail tr u pc =>
        match d.faultTasks.find? (·.src == m.src) with
        | some f =>
          match f.body with
          | .complTask g t _ step sub again =>
            retire (setSaddle s k { d with inbox := rest, faultTasks := dropOne f d.faultTasks }) f.ctx ⟨f.src, g, t, sub, step, some (tr, u, pc), again⟩
          | _ => pop
        | none => pop
      | _ => s

/-- The submission whose current instance has every task retired (R241), oldest first. -/
def doneSub (x : Ctx) : Option Submission :=
  (unfinished x).find? (fun b =>
    match findGraph x b.graph with
    | some g => decide (b.done < b.count) && decide ((retiredIn b b.done).length = g.tasks.length)
    | none => false)

/-- May a bucket of an instance of a finished submission still be attempted again: is some bucket of its last step not committed? -/
def stillOpen (x : Ctx) (b : Submission) : Bool :=
  match x.win.plan with
  | some pl => (List.range pl.buckets.length).any (fun i => !committed x.win (orderIx pl (instStep b (b.count - 1)) i))
  | none => false

/-- A submission that has ended leaves the queue; it is remembered while a bucket of it may be attempted again (R311). -/
def endSub (x : Ctx) (b : Submission) : Ctx :=
  { x with subs := x.subs.filter (fun y => y.no != b.no)
           past := (x.past ++ [b]).filter (stillOpen x) }

/-- INSTANCE_DONE of the oldest complete instance, and SUBMISSION_DONE after a last one. A submission that is being cancelled ends by
its CANCELLED record instead (R242). -/
def instanceDone (s : State) (c : BitVec 8) : State :=
  match ctxOf s c with
  | none => s
  | some x =>
    match doneSub x with
    | none => s
    | some b =>
      let step := instStep b b.done
      let s := complRec s c 2 b.graph b.no step 0 0 b.notify
      let last := b.done + 1 = b.count ∧ !b.cancelling
      let s := { s with sheaves := tabMap s.sheaves (fun k h =>
        if k = b.sheaf then { h with steps := tabMod h.steps c.toNat (step, step) (fun w => (w.1, step)) } else h) }
      let s := updCtx s c (fun x => updSub { x with gleanMarks := x.gleanMarks.filter (fun p => decide ((step - p.1).toNat ≤ 1 ∨ (p.1 - step).toNat < 2 ^ 31)) }
        b.no (fun b => { b with done := b.done + 1, retired := tabDel b.retired b.done, finished := decide last }))
      let s := if last then complRec s c 3 b.graph b.no step 0 0 b.notify else s
      if last then updCtx s c (fun x => endSub x b) else s

/-! ### Submissions (R223, R224, R413) -/

/-- The oldest accepted submission that the tiles do not have yet is loaded onto them. -/
def loadSubmission (s : State) (c : BitVec 8) : State :=
  updCtx s c (fun x =>
    match x.subs.find? (fun b => !b.onTiles && !b.cancelling && stewardAwake s (homeSteward c)) with
    | some b => updSub x b.no (fun b => { b with onTiles := true })
    | none => x)

/-! ### Cancel (R242, R243) -/

/-- Steps 1 to 4 of R242 on one tile. -/
def cancelOnTile (e : Env) (c : BitVec 8) (nos : List Nat) (t : Tile) : Tile :=
  let mine := t.slots.filter (fun p => p.2.task.ctx == c && nos.contains p.2.task.subNo)
  let idle := (mine.filter (fun p => p.2.st == .waiting || p.2.st == .ready)).map (·.1)
  let run := (mine.filter (fun p => p.2.st == .running)).map (·.1)
  let t := { t with replay := t.replay.filter (fun d => !(d.ctx == c && nos.contains d.subNo)) }
  let t := idle.foldl (fun t k => cancelSlot e k t) t
  run.foldl (fun t k => slotUpd t k (fun sl => { sl with cancelled := true })) t

/-- Does a partition reset of the context still wait for its steps 2 to 6? -/
def resetWaits (x : Ctx) : Bool := (x.reset.map (·.waitEpoch)).getD false

/-- Begins the cancel of some unfinished submissions of a context; during a reset no replay follows (R443). Before step 6 of the reset
nothing is done on the tiles, which the reset clears itself. -/
def beginCancel (s : State) (c : BitVec 8) (nos : List Nat) : State :=
  let waits := ((ctxOf s c).map resetWaits).getD false
  let s := updCtx s c (fun x =>
    { x with subs := x.subs.map (fun b => if nos.contains b.no then { b with cancelling := true } else b)
             reset := x.reset.map (fun r => { r with noReplay := true, members := [] }) })
  if waits then s
  else onTiles s (ctxTiles s c) (fun i t => cancelOnTile (envOf s i) c nos t)

/-- Is a completion of the context still on its way to a retire unit? -/
def complInFlight (s : State) (c : BitVec 8) : Bool :=
  let isC (m : AwnMsg) : Bool := m.ctx == c && m.toSaddle && isCompl m.body
  s.tiles.any (fun p => p.2.awn.inq.any (fun q => q.2.any isC) || p.2.awnSrc.any (fun q => q.2.any isC) || p.2.awn.eject.any isC) ||
    s.saddles.any (fun p => p.2.inbox.any isC || p.2.faultTasks.any isC)

/-- Has every tile finished its steps, so that every completion of the cancelled work has been sent and retired? -/
def cancelSettled (s : State) (c : BitVec 8) (x : Ctx) : Bool :=
  let nos := (x.subs.filter (·.cancelling)).map (·.no)
  (ctxTiles s c).all (fun i =>
    let t := tileOf s i
    t.slots.all (fun p => !(p.2.task.ctx == c && nos.contains p.2.task.subNo)) &&
      t.held.all (fun h => !(h.ctx == c && nos.contains h.subNo))) && !complInFlight s c

/-- Frees a context's receive counters and early tokens on the sheaves of cancelled submissions (R242). -/
def freeKeys (s : State) (c : BitVec 8) (l : List Submission) : State :=
  onTiles s (((sheavesOf s c).filter (fun p => l.any (fun b => b.sheaf == p.1))).flatMap (fun p => sheafTiles p.2)) (fun _ t =>
    rxTidy { t with rx := t.rx.filter (fun r => r.ctx != c), early := t.early.filter (fun p => p.1 != c) })

/-- The CANCELLED records, in increasing submission number. -/
def cancelRecs (s : State) (c : BitVec 8) (l : List Submission) : State :=
  l.foldl (fun s b =>
    let s := complRec s c 4 b.graph b.no (instStep b b.done) 0 0 b.notify
    updCtx s c (fun x => { x with subs := x.subs.filter (fun y => y.no != b.no)
                                  loads := x.loads.filter (fun n => n.key.1 != b.no) })) s

/-- Completes a cancel whose tiles have settled: EPOCH, keys, records. A reset that the cancel met ends without a replay;
a context with no work left no longer waits for a spur's repair (R441). -/
def completeCancel (s : State) (c : BitVec 8) : State :=
  match ctxOf s c with
  | none => s
  | some x =>
    let l := x.subs.filter (·.cancelling)
    if l.isEmpty || resetWaits x || !cancelSettled s c x || !maySpace s c then s
    else
      let s := leaseLog (advanceEpoch s c 2 0) (some c) 1 (tileLeases s c)
      let s := leaseLog (freeKeys s c l) (some c) 10 l.length
      let s := cancelRecs s c l
      updCtx s c (fun x =>
        { x with reset := if (x.reset.map (fun r => r.noReplay && r.impossible.isNone && !r.waitEpoch)).getD false then none else x.reset
                 waiting := if (unfinished x).isEmpty then x.waiting.filter (· == .peer (engineId s)) else x.waiting })

/-- DISPATCHER_LOAD (R230). -/
def execDispatcherLoad (tile : Nat) (prefetched : BitVec 8) (s : State) : Host.Outcome State Fault Refusal :=
  .next (dispatcherLoad s tile prefetched)

/-- COMPLETION (R240). -/
def execCompletion (saddle : Nat) (s : State) : Host.Outcome State Fault Refusal :=
  .next (completionArrives s saddle)

/-- INSTANCE_DONE (R241). -/
def execInstanceDone (ctx : BitVec 8) (s : State) : Host.Outcome State Fault Refusal :=
  .next (instanceDone s ctx)

/-- SUBMISSION_LOAD (R413). -/
def execSubmissionLoad (ctx : BitVec 8) (s : State) : Host.Outcome State Fault Refusal :=
  .next (loadSubmission s ctx)

end Sys2Proof.Machine
end

