-- ==== Sys2Proof/Machine/Update.lean ====
section
/-! DEFINITION. The update beside memory (R279 to R287): landing of chunk sums, norm partials, the norm barrier, the schedule ring,
the optimisers, emission of streaming copies, and publication (R322, R323). -/
namespace Sys2Proof.Machine

/-! ### FP32 and FP64 helpers (R282, R283) -/

def f32div (a b : Nat) : Nat :=
  match f32 a, f32 b with
  | .nan, _ => nan32
  | _, .nan => nan32
  | .inf _, .inf _ => nan32
  | .inf s, .fin y => rne32 (.inf (s != y.neg))
  | .fin x, .inf s => rne32 (.fin ⟨x.neg != s, 0, 0⟩)
  | .fin x, .fin y =>
    if y.m = 0 then (if x.m = 0 then nan32 else rne32 (.inf (x.neg != y.neg))) else rne32 (.fin (dyDiv x y))

def f32sqrt (a : Nat) : Nat :=
  match f32 a with
  | .nan => nan32
  | .inf s => if s then nan32 else a
  | .fin x => if x.m = 0 then a else if x.neg then nan32 else rne32 (.fin (dySqrt x))

def f32neg (a : Nat) : Nat := a ^^^ 2 ^ 31
def one32 : Nat := 0x3F800000
def f32sub (a b : Nat) : Nat := f32add 0 a (f32neg b)
/-- sign(c): ±1, 0 for a zero. -/
def f32sign (a : Nat) : Nat :=
  match f32 a with
  | .nan => nan32
  | .inf s => if s then 2 ^ 31 + one32 else one32
  | .fin x => if x.m = 0 then 0 else if x.neg then 2 ^ 31 + one32 else one32

/-- β^t in FP64 by square and multiply from the most significant bit of t, each product rounded. -/
def powF (b : FVal) (t : Nat) : FVal :=
  ((List.range (Nat.log2 t + 1)).reverse).foldl (fun acc i =>
    let sq := d64mul acc acc
    if bitOf t i then d64mul sq b else sq) (fvInt 1)

/-- c := rne(rne64(1 − β^t), FP32). -/
def biasCorr (b t : Nat) : Nat := rne32 (d64add (fvInt 1) (powF (f32 b) t).neg)

/-! ### The clip limit and the norm (R255, R282, R319) -/

def clipLatch (x : Ctx) (step : W32) : Option ClipLatch := x.clip.find? (fun l => l.step == step)

/-- Fixes CLIPC for a step at its first use. -/
def latchClip (s : State) (c : BitVec 8) (step : W32) : State :=
  match ctxOf s c with
  | none => s
  | some x =>
    if (clipLatch x step).isSome then s
    else setCtx s c { x with clip := ⟨step, w32 (viewRead s x cbClipC 4), none, []⟩ :: x.clip.take 7 }

def clipOf (s : State) (c : BitVec 8) (step : W32) : Nat :=
  (((ctxOf s c).bind (fun x => clipLatch x step)).map (fun l => l.clipc.toNat)).getD 0

/-- Applies a function to the norm pass of a step. -/
def updNorm (x : Ctx) (step : W32) (f : NormSt → NormSt) : Ctx :=
  let n := (x.win.norms.find? (fun n => n.step == step)).getD ⟨step, [], none, false, false, none⟩
  { x with win := { x.win with norms := f n :: x.win.norms.filter (fun n => n.step != step) } }
def normOf (x : Ctx) (step : W32) : Option NormSt := x.win.norms.find? (fun n => n.step == step)

/-! ### Gradient scale exponents (R171 to R173) -/

def fmtSexp (v : Nat) : Int := sextN (bits v 23 16) 8
def fmtAuto (v : Nat) : Bool := bitOf v 3
def polOf (x : Ctx) (l : Nat) : LayerPol := tabGet x.layerPol l .init

/-- What the policy does to s_l of a layer at a boundary: the change, whether a change was refused at the end of the range, and
whether a host write decided. -/
structure ScaleChange where
  delta : Int
  clamp : Bool
  host : Bool
deriving DecidableEq, Repr

def scaleChange (s : State) (x : Ctx) (l : Nat) (v : Option VRec) : ScaleChange :=
  let now := fmtSexp (layerFmt s x l)
  let p := polOf x l
  match p.hostSexp with
  | some h => ⟨sextN h 8 - now, false, true⟩
  | none =>
    if !fmtAuto (layerFmt s x l) then ⟨0, false, false⟩
    else match v with
      | none => ⟨0, false, false⟩
      | some r =>
        if r.ovf then (if now = -64 then ⟨0, true, false⟩ else ⟨-1, false, false⟩)
        else if r.under ∧ r.head ≥ 2 ∧ p.sinceScale ≥ 16 then (if now = 63 then ⟨0, true, false⟩ else ⟨1, false, false⟩)
        else ⟨0, false, false⟩

/-- The combined verdict of a layer in a step, where the pass has given it. -/
def verdictOf (x : Ctx) (step : W32) (l : Nat) : Option VRec := ((normOf x step).bind (·.result)).bind (fun r => r.2[l]?)

/-- Has the boundary after a step been passed? -/
def boundaryPassed (x : Ctx) (step : W32) : Bool := (x.boundaryDone.map (fun b => decide ((b - step).toNat < 2 ^ 31))).getD false

/-- The change of s_l made at the boundary after a step. -/
def deltaAfter (x : Ctx) (step : W32) (l : Nat) : Int := ((((polOf x l).deltas.find? (fun d => d.1 == step)).map (·.2)).getD 0)

/-- s_l at a step: as it stands, without the changes made at the boundaries after that step (R171, R282). -/
def sexpAt (s : State) (x : Ctx) (step : W32) (l : Nat) : Int :=
  fmtSexp (layerFmt s x l) -
    (((polOf x l).deltas.filter (fun d => decide ((d.1 - step).toNat < 2 ^ 31))).map (·.2)).foldl (· + ·) 0

/-! ### Landing (R281, R307) -/

def itemIs (k : Nat) (c : BitVec 8) (step : W32) (b : Nat) (u : UpdItem) : Bool :=
  u.saddle == k && u.ctx == c && u.step == step && u.bucket == b
def findItem (s : State) (k : Nat) (c : BitVec 8) (step : W32) (b : Nat) : Option UpdItem := s.upd.find? (itemIs k c step b)
def setItem (s : State) (u : UpdItem) : State :=
  let is := itemIs u.saddle u.ctx u.step u.bucket
  if s.upd.any is then { s with upd := s.upd.map (fun v => if is v then u else v) } else { s with upd := s.upd ++ [u] }
def dropItem (s : State) (u : UpdItem) : State := { s with upd := s.upd.filter (fun v => !itemIs u.saddle u.ctx u.step u.bucket v) }

/-- Bytes of a block of mantissas off the spurs: W24 is held as W32 (R164). -/
def blockBytes (fmt : Nat) : Nat := if fmt = 0xA then 64 else 128
def landingSize : Nat := 32 * 2 ^ 20
/-- Bytes of Landing that a die's items take: the chunks that have not gone to the landing areas. -/
def landingUsed (s : State) (k : Nat) : Nat :=
  ((s.upd.filter (fun u => u.saddle == k)).map (fun u => ((u.chunks.filter (fun p => !u.spilled.contains p.1)).map (fun p =>
    64 + blockBytes u.fmt / 32 * p.2.2.length)).sum)).sum

/-- The lines of a chunk on the mesh: the side line and the mantissas (R290, R164). -/
def chunkLines (fmt : Nat) (side : Line) (mant : List Int) : List Line :=
  let b := if fmt = 0xA then 2 else 4
  side :: linesOf (mant.flatMap (fun q => toBytes b (toField q (8 * b))))
/-- The mantissas in the lines of a chunk. -/
def chunkMant (fmt : Nat) (blocks : Nat) (l : List Line) : List Int :=
  let w := if fmt = 0xA then 16 else 32
  let v := leNat (payloadBytes l)
  (List.range (32 * blocks)).map (fun i => sextN (elemAt v w i) w)

/-- Is a packet a line of a chunk's final sum? -/
def landingOf (p : Pkt) : Option (BitVec 8 × W32 × Nat × Nat) :=
  match p.body with
  | .landing st b c _ => some (p.ctx, st, b, c)
  | _ => none
def landingLast (p : Pkt) : Bool := match p.body with
  | .landing _ _ _ l => l
  | _ => false

/-- The first edge link whose head begins a chunk sum that has come whole: link and key. -/
def landingReady (d : Saddle) : Option (Nat × (BitVec 8 × W32 × Nat × Nat)) :=
  d.links.findSome? (fun q => match q.2 with
    | p :: _ => (match landingOf p with
        | some k => if q.2.any (fun r => landingOf r == some k && landingLast r) then some (q.1, k) else none
        | none => none)
    | [] => none)

/-- A landing that finds Landing full is written to the landing areas of its ranges. DEDUCED, log entry 20. -/
def spillChunk (s : State) (x : Ctx) (pl : Plan) (b : PlanBucket) (fmt c : Nat) (mant : List Int) : State :=
  (List.range (chunkBlocks b c)).foldl (fun s i =>
    match blockRange pl b (32 * c + i) with
    | some r =>
      let n := blockBytes fmt / 32
      viewWrite s x (r.land + blockBytes fmt * (32 * c + i - r.blk0))
        (((mant.drop (32 * i)).take 32).flatMap (fun q => toBytes n (toField q (8 * n))))
    | none => s) s

/-- The slot of a tag. -/
def slotIs (c : BitVec 8) (step : W32) (b : Nat) (u : BSlot) : Bool := u.ctx == c && u.step == step && u.bucket == b
def findSlot (s : State) (c : BitVec 8) (step : W32) (b : Nat) : Option BSlot := s.bslots.find? (slotIs c step b)
def setSlot (s : State) (u : BSlot) : State :=
  let is := slotIs u.ctx u.step u.bucket
  if s.bslots.any is then { s with bslots := s.bslots.map (fun v => if is v then u else v) } else { s with bslots := s.bslots ++ [u] }
def dropSlot (s : State) (c : BitVec 8) (step : W32) (b : Nat) : State := { s with bslots := s.bslots.filter (fun v => !slotIs c step b v) }

/-- The chunk is taken into Landing; the slot is Free once every chunk has been (R307). -/
def landChunk (s : State) (k : Nat) (x : Ctx) (pl : Plan) (b : PlanBucket) (u : BSlot) (c fmt : Nat) (lines : List Line) : State :=
  let mant := chunkMant fmt (chunkBlocks b c) (lines.drop 1)
  let fits : Bool := decide (landingUsed s k + 64 * lines.length ≤ landingSize)
  let s := if fits then s else spillChunk s x pl b fmt c mant
  let it := (findItem s k u.ctx u.step u.bucket).getD ⟨k, u.ctx, u.step, u.bucket, u.att, fmt, .landing, [], []⟩
  let it := { it with chunks := tabSet it.chunks c ((lines[0]?).getD 0, if fits then mant else [])
                      spilled := if fits then it.spilled else addNew c it.spilled }
  let s := setItem s (if it.chunks.length = chunkCount b then { it with st := .landed } else it)
  let u := { u with landed := addNew c u.landed }
  if u.landed.length = chunkCount b then dropSlot s u.ctx u.step u.bucket else setSlot s u

/-- BUCKET_LANDING: a chunk sum that has come whole at an edge link. Poison on it is an uncorrectable error, and the chunk is not
taken. DEDUCED, log entry 20. -/
def bucketLanding (s : State) (k : Nat) : State :=
  let d := saddleOf s k
  match landingReady d with
  | none => s
  | some (link, key) =>
    let q := tabGet d.links link []
    let mine := q.filter (fun p => landingOf p == some key)
    let s := setSaddle s k { d with links := tabSet d.links link (q.filter (fun p => landingOf p != some key)) }
    let c := key.1
    match mine, ctxOf s c with
    | p :: _, some x =>
      if p.epoch ≠ tabGet d.epochs c.toNat 0 then ownItem (logAt s 0x1002 2 k (some c) none 0) c
      else if mine.any (·.psn) then
        ringReport s (ringStop k) ⟨0x0206, 2, k, some c, none, none, tileIx p.srcX p.srcY, 0⟩
      else
        let b := key.2.2.1
        match x.win.plan, findSlot s c key.2.1 b with
        | some pl, some u =>
          match pl.buckets[b]? with
          | some e => if u.st = .committed then landChunk s k x pl e u key.2.2.2 p.fmt (mine.map (·.data)) else s
          | none => s
        | _, _ => s
    | _, _ => s

/-! ### Elements of a landed bucket (R282) -/

/-- The exponents of the blocks of a bucket in the committed attempt. -/
def bucketExps (s : State) (x : Ctx) (pl : Plan) (b : Nat) (e : PlanBucket) (step : W32) (att : Nat) : List Nat :=
  (viewBytes s x (expOffset pl b step) e.nblk).map (fun y => attExp y.toNat att)

/-- Where a spilled mantissa lies: view offset and bytes. -/
def landAt (fmt : Nat) (r : PlanRange) (blk i : Nat) : Nat × Nat :=
  let n := blockBytes fmt / 32
  (r.land + blockBytes fmt * (blk - r.blk0) + n * i, n)

/-- The mantissa of element i of a block of a range: from Landing, or from the range's landing area. -/
def itemMant (s : State) (x : Ctx) (u : UpdItem) (r : PlanRange) (blk i : Nat) : Int :=
  if u.spilled.contains (blk / 32) then
    let a := landAt u.fmt r blk i
    sextN (viewRead s x a.1 a.2) (8 * a.2)
  else (((tabGet u.chunks (blk / 32) (0, [])).2)[32 * (blk % 32) + i]?).getD 0
def itemSide (u : UpdItem) (c : Nat) : Nat := (tabGet u.chunks c (0, [])).1.toNat

/-- g_u of element j of a range, exactly. -/
def gradVal (s : State) (x : Ctx) (pl : Plan) (u : UpdItem) (exps : List Nat) (r : PlanRange) (j : Nat) : FVal :=
  let blk := r.blk0 + j / 32
  fvScale (wVal (wireW (attFmt pl u.att)) ((exps[blk]?).getD 0) (itemMant s x u r blk (j % 32))) (-(sexpAt s x u.step r.layer))

/-- The squared-norm partial of a bucket: FP64, each square and each sum rounded. -/
def normPartial (s : State) (x : Ctx) (pl : Plan) (e : PlanBucket) (u : UpdItem) : Nat :=
  let exps := bucketExps s x pl u.bucket e u.step u.att
  let sum := (bucketRanges pl e).foldl (fun acc r =>
    (List.range r.nelem).foldl (fun acc j =>
      let g := gradVal s x pl u exps r j
      d64add acc (d64mul g g)) acc) FVal.zero
  roundF fmtFP64 .rne sum

/-! ### The optimisers (R279, R283) -/

structure OptGroup where
  opt : Nat
  emit : Nat
  nesterov : Bool
  lr : Nat
  b1 : Nat
  b2 : Nat
  wd : Nat
  eps : Nat
  base : W32
deriving DecidableEq, Repr

def optGroup (s : State) (x : Ctx) (g : Nat) : OptGroup :=
  let v := viewRead s x (atGroups + 64 * g) 64
  ⟨byteField v 0 0, byteField v 1 1 % 4, bitOf v 10, byteField v 15 12, byteField v 19 16, byteField v 23 20, byteField v 27 24,
    byteField v 31 28, BitVec.ofNat 32 (byteField v 35 32)⟩

/-- What is formed once per bucket. -/
structure OptConst where
  eta : Nat
  a1 : Nat
  a2 : Nat
  c1 : Nat
  c2 : Nat
deriving DecidableEq, Repr

def optConst (g : OptGroup) (step : W32) (rho : Nat) : OptConst :=
  let t := (step - g.base).toNat + 1
  ⟨f32mul 0 g.lr rho, f32sub one32 g.b1, f32sub one32 g.b2, biasCorr g.b1 t, biasCorr g.b2 t⟩

/-- One element: new w, m and v from the old ones and g. -/
def optElem (G : OptGroup) (K : OptConst) (w m v g : Nat) : Nat × Nat × Nat :=
  let fma := f32fma 0
  let mul := f32mul 0
  let out (d m v : Nat) : Nat × Nat × Nat := (fma (f32neg K.eta) d w, m, v)
  let adam (m v : Nat) : Nat := f32div (f32div m K.c1) (f32add 0 (f32sqrt (f32div v K.c2)) G.eps)
  match G.opt with
  | 1 => out (fma G.wd w g) m v
  | 2 =>
    let m' := fma G.b1 m g
    out (fma G.wd w (if G.nesterov then fma G.b1 m' g else m')) m' v
  | 3 =>
    let g := fma G.wd w g
    let m' := fma K.a1 g (mul G.b1 m)
    let v' := fma K.a2 (mul g g) (mul G.b2 v)
    out (adam m' v') m' v'
  | 4 =>
    let m' := fma K.a1 g (mul G.b1 m)
    let v' := fma K.a2 (mul g g) (mul G.b2 v)
    out (fma G.wd w (adam m' v')) m' v'
  | 5 =>
    let c := fma K.a1 g (mul G.b1 m)
    let m' := fma K.a2 g (mul G.b2 m)
    out (fma G.wd w (f32sign c)) m' v
  | _ => (w, m, v)

def usesM (opt : Nat) : Bool := decide (2 ≤ opt ∧ opt ≤ 5)
def usesV (opt : Nat) : Bool := opt == 3 || opt == 4

/-! ### Emission of a streaming copy (R284) -/

def streamFmt (s : State) (x : Ctx) (l : Nat) : Nat := bits (layerFmt s x l) 7 4

/-- The health record of elements narrowed into a format with a scale (R146): 2^k units. DEDUCED, log entry 21. -/
def emitHealth (F : Fmt) (k : Int) (ws : List Nat) : HRec :=
  ws.foldl (fun r b =>
    match f32 b with
    | .nan => { r with total := r.total + 1, nonfin := r.nonfin + 1 }
    | .inf _ => { r with total := r.total + 1, nonfin := r.nonfin + 1 }
    | .fin d =>
      if d.m = 0 then { r with total := r.total + 1, zeros := r.zeros + 1 }
      else
        let y : Dy := { d with e := d.e - k }
        let e := max r.maxexp (dyLog d + 32768).toNat
        if dyAbove { y with neg := false } F.maxM F.maxE then { r with total := r.total + 1, sats := r.sats + 1, maxexp := e }
        else if (decodeF F (roundF F .rne (.fin y))).isZero then { r with total := r.total + 1, uflows := r.uflows + 1, maxexp := e }
        else { r with total := r.total + 1, maxexp := e }) HRec.empty

/-- Writes one block of a range's streaming copy; `ws` are its elements as FP32. The block's health record. -/
def emitBlock (s : State) (c : BitVec 8) (x : Ctx) (r : PlanRange) (rm : Nat) (step : W32) (blk : Nat) (ws : List Nat) : State × HRec :=
  let seed := (tabGet (saddleOf s (homeSaddle x)).seeds c.toNat x.seed).toNat
  let draw (i : Nat) : Nat := pkg seed 0xFF00 step.toNat r.tid ((r.elem0 + 32 * blk + i) % 2 ^ 44)
  if streamFmt s x r.layer = 5 then
    let vals := ws.map f32 ++ List.replicate (32 - ws.length) FVal.zero
    let o := mxNarrow fmtE4M3 8 rm draw vals
    let g := r.strm + 2112 * (blk / 64)
    let s := viewWrite s x (g + 32 * (blk % 64)) (o.2.map (fun e => BitVec.ofNat 8 e))
    (viewPut s x (g + 2048 + blk % 64) 1 o.1, emitHealth fmtE4M3 ((o.1 : Int) - 127) ws)
  else
    let es := ws.mapIdx (fun i w => rmRound fmtBF16 rm (draw i) (f32 w))
    (viewWrite s x (r.strm + 64 * blk) (es.flatMap (toBytes 2)), emitHealth fmtBF16 0 ws)

/-- Emits the streaming copy of a range from its master weights. -/
def emitRange (s : State) (c : BitVec 8) (x : Ctx) (r : PlanRange) (rm : Nat) (step : W32) : State × HRec :=
  (List.range (ceilDiv r.nelem 32)).foldl (fun a blk =>
    let n := min 32 (r.nelem - 32 * blk)
    let ws := (List.range n).map (fun i => viewRead a.1 x (r.master + 4 * (32 * blk + i)) 4)
    let o := emitBlock a.1 c x r rm step blk ws
    (o.1, a.2.combine o.2)) (s, HRec.empty)

/-! ### Publication (R322, R323) -/

/-- Sets the version of an owned bucket: a BUCKET glean record, and the stook's late parts. -/
def setVersion (s : State) (c : BitVec 8) (b : Nat) (step : W32) : State :=
  let s := updCtx s c (fun x =>
    { x with win := { x.win with versions := tabSet x.win.versions b step
                                 pubs := x.win.pubs.filter (fun p => !(p.bucket == b && p.step == step)) } })
  emitParts (gleanRec s c 4 step 0 0 b) c

/-- Sets the version once every other rank has acknowledged the exponent table. -/
def pubDone (s : State) (c : BitVec 8) (b : Nat) (step : W32) : State :=
  match ctxOf s c with
  | none => s
  | some x =>
    match x.win.plan, x.win.pubs.find? (fun p => p.bucket == b && p.step == step) with
    | some pl, some p =>
      if p.sent && (List.range pl.ranks.length).all (fun r => r == pl.myRank || p.acks.contains r) then setVersion s c b step else s
    | _, _ => s

/-- Lines of an exponent table that one PAR frame carries. -/
def expFrameLines : Nat := 256

/-- Sends the exponent table of a bucket for a step to another rank as PAR frames (R323). Their STEP, and that of the EXPT_ACK, is the
step that the table is for. DESIGN CHOICE, log entry 49. -/
def sendExps (s : State) (x : Ctx) (pl : Plan) (b : Nat) (step : W32) (data : List Byte) (r : Nat) : State :=
  let e := rankEngine pl r
  match peerOf x e with
  | none => s
  | some q =>
    let lines := linesOf data
    let n := ceilDiv lines.length expFrameLines
    (List.range n).foldl (fun s j =>
      let l := (lines.drop (expFrameLines * j)).take expFrameLines
      originate s 0 false ⟨e, engineId s, q.ctx, 5, winnowTid, 0, q.epoch, false, decide (j + 1 = n), false, false, l.length, b, 0, step, 0⟩
        l false) s

/-- The other ranks that have not acknowledged a publication are sent the table. -/
def sendTables (s : State) (c : BitVec 8) (b : Nat) (step : W32) : State :=
  match ctxOf s c with
  | none => s
  | some x =>
    match x.win.plan, x.win.pubs.find? (fun p => p.bucket == b && p.step == step) with
    | some pl, some p =>
      match pl.buckets[b]? with
      | none => s
      | some e =>
        let data := viewBytes s x (expOffset pl b (step + 1)) e.nblk
        ((List.range pl.ranks.length).filter (fun r => r != pl.myRank && !p.acks.contains r)).foldl (fun s r =>
          sendExps s x pl b (step + 1) data r) s
    | _, _ => s

/-- Does the norm all-reduce of a step run (R319)? -/
def normRuns (s : State) (x : Ctx) (pl : Plan) (step : W32) : Bool :=
  ((clipLatch x step).map (fun l => l.clipc != 0)).getD false || (List.range pl.nlayv).any (fun l => fmtAuto (layerFmt s x l))

/-- Are the verdicts known on which the changes at the boundary after a step rest? -/
def verdictsIn (s : State) (x : Ctx) (pl : Plan) (step : W32) : Bool :=
  boundaryPassed x step || !normRuns s x pl step || ((normOf x step).bind (·.result)).isSome

/-- The exponents of the next step, derived from the committed BMAX, go into this rank's set and to every other rank, once the boundary
after the step has made its change of s_l, a host write's among them (R165, R322, R323). A block that lies in no range has no elements,
and takes the layer 0. DESIGN CHOICE, log entry 49. -/
def publishNow (s : State) (c : BitVec 8) (b : Nat) (step : W32) : State :=
  match ctxOf s c with
  | none => s
  | some x =>
    match x.win.plan.bind (fun pl => (pl.buckets[b]?).map (fun e => (pl, e))) with
    | none => s
    | some (pl, e) =>
      if !boundaryPassed x step then s
      else
        let now := viewBytes s x (expOffset pl b step) e.nblk
        let bm := tabFind x.win.bmax (2 * b + step.toNat % 2)
        let exps := now.mapIdx (fun i y =>
          let l := ((blockRange pl e i).map (·.layer)).getD 0
          match bm with
          | some m => BitVec.ofNat 8 (nextExp e ((m[i]?).getD 0).toNat y.toNat (deltaAfter x step l))
          | none => BitVec.ofNat 8 (initExp e))
        let s := viewWrite s x (expOffset pl b (step + 1)) exps
        let s := updCtx s c (fun x => { x with win := { x.win with
          pubs := x.win.pubs.map (fun p => if p.bucket = b ∧ p.step = step then { p with sent := true } else p) } })
        pubDone (sendTables s c b step) c b step

/-- Publishes a bucket after its update. -/
def publish (s : State) (c : BitVec 8) (b : Nat) (step : W32) : State :=
  publishNow (updCtx s c (fun x => { x with win := { x.win with pubs := x.win.pubs ++ [⟨b, step, false, []⟩] } })) c b step

/-- The publications of a step that wait for its boundary. DEDUCED, log entry 37. -/
def publishWaiting (s : State) (c : BitVec 8) (step : W32) : State :=
  (((ctxOf s c).map (·.win.pubs)).getD []).foldl (fun s p => if p.step = step ∧ !p.sent then publishNow s c p.bucket step else s) s

/-! ### The update of one bucket -/

/-- Elements that a saturated commit left at the limit count as SATS of their tensor (R166). -/
def satCount (s : State) (x : Ctx) (pl : Plan) (u : UpdItem) (r : PlanRange) : Nat :=
  let w := wireW (attFmt pl u.att)
  ((List.range r.nelem).filter (fun j =>
    let blk := r.blk0 + j / 32
    bitOf (itemSide u (blk / 32)) (256 + blk % 32) && (itemMant s x u r blk (j % 32)).natAbs == 2 ^ (w - 1) - 1)).length

/-- The groups of 16 elements of a range of which a line that the update reads is bad: master weights, moments, spilled sums. -/
def badGroups (s : State) (x : Ctx) (u : UpdItem) (G : OptGroup) (r : PlanRange) : List Nat :=
  (List.range (ceilDiv r.nelem 16)).filter (fun q =>
    lineBad s x (r.master + 64 * q) || (usesM G.opt && lineBad s x (r.mom1 + 64 * q)) || (usesV G.opt && lineBad s x (r.mom2 + 64 * q)) ||
      (let blk := r.blk0 + q / 2
       u.spilled.contains (blk / 32) && lineBad s x (landAt u.fmt r blk (16 * (q % 2))).1))

/-- The lines that the update of a group writes: of its state, and of its streaming copy. -/
def groupLines (sf : Nat) (G : OptGroup) (r : PlanRange) (q : Nat) : List Nat :=
  let blk := q / 2
  [r.master + 64 * q] ++ ((if usesM G.opt then [r.mom1 + 64 * q] else []) ++ (if usesV G.opt then [r.mom2 + 64 * q] else []) ++
    (if sf = 5 then [r.strm + 2112 * (blk / 64) + 32 * (blk % 64), r.strm + 2112 * (blk / 64) + 2048] else [r.strm + 64 * blk]))

/-- What is computed from a bad line is poisoned in its turn: the lines that it is written to are bad (R264, R266). DEDUCED, log entry 21. -/
def poisonGroups (s : State) (k : Nat) (c : BitVec 8) (x : Ctx) (sf : Nat) (G : OptGroup) (r : PlanRange) (qs : List Nat) : State :=
  (qs.flatMap (groupLines sf G r)).foldl (fun s o => match viewPhys x o with
    | some a => markBad s k c a
    | none => s) s

/-- Applies the optimiser to one range, emits its streaming copy and its health record, and on a stook step its state.
DEDUCED, log entry 21. -/
def updateRange (s : State) (k : Nat) (c : BitVec 8) (x : Ctx) (pl : Plan) (u : UpdItem) (exps : List Nat) (rho clip : Nat)
    (stookAt : Option Nat) (r : PlanRange) : State :=
  let G := optGroup s x r.group
  let K := optConst G u.step rho
  let bad := badGroups s x u G r
  let sats := satCount s x pl u r
  let s := (List.range r.nelem).foldl (fun s j =>
    let g := rne32 (fvMul (gradVal s x pl u exps r j) (f32 clip))
    let rd (o : Nat) : Nat := viewRead s x (o + 4 * j) 4
    let n := optElem G K (rd r.master) (if usesM G.opt then rd r.mom1 else 0) (if usesV G.opt then rd r.mom2 else 0) g
    let s := viewPut s x (r.master + 4 * j) 4 n.1
    let s := if usesM G.opt then viewPut s x (r.mom1 + 4 * j) 4 n.2.1 else s
    if usesV G.opt then viewPut s x (r.mom2 + 4 * j) 4 n.2.2 else s) s
  let o := emitRange s c x r G.emit u.step
  let h := { o.2 with sats := min (2 ^ 32 - 1) (o.2.sats + sats) }
  let s := combineHealth (poisonGroups o.1 k c x (streamFmt o.1 x r.layer) G r bad) c h.data r.tid u.step 0xFFFF
  match stookAt with
  | none => s
  | some off =>
    let arr (b : Bool) (o : Nat) : List Byte := if b then viewBytes s x o (4 * r.nelem) else List.replicate (4 * r.nelem) 0
    emitStook s k c u.step 4 off (viewBytes s x r.master (4 * r.nelem) ++ arr (usesM G.opt) r.mom1 ++ arr (usesV G.opt) r.mom2)

/-- Where the state of a bucket begins in the stook of a step, while that stook is open. -/
def stookState (x : Ctx) (pl : Plan) (b : Nat) (step : W32) : Option Nat :=
  match x.stook with
  | some st =>
    if st.step = step ∧ st.st = .opened then
      some (secOff pl st 4 + (((ownedBuckets pl).filter (fun p => decide (p.1 < b))).map (fun p => bucketState pl p.2)).sum)
    else none
  | none => none

/-- Applies the optimiser to every range of a bucket in order. -/
def updateRanges (s : State) (k : Nat) (c : BitVec 8) (x : Ctx) (pl : Plan) (e : PlanBucket) (u : UpdItem) (rho clip : Nat) : State :=
  let exps := bucketExps s x pl u.bucket e u.step u.att
  let at_ := stookState x pl u.bucket u.step
  let s := ((bucketRanges pl e).foldl (fun (a : State × Nat) r =>
    (updateRange a.1 k c x pl u exps rho clip (at_.map (· + a.2)) r, a.2 + 12 * r.nelem)) (s, 0)).1
  if at_.isSome then updCtx s c (fun x => { x with stook := x.stook.map (fun t => { t with emitted := addNew u.bucket t.emitted }) }) else s

/-- The state of a bucket as it stands, sent to an open stook when the bucket's values do not change. -/
def emitUnchanged (s : State) (k : Nat) (c : BitVec 8) (x : Ctx) (pl : Plan) (e : PlanBucket) (u : UpdItem) : State :=
  match stookState x pl u.bucket u.step with
  | none => s
  | some at_ =>
    let s := ((bucketRanges pl e).foldl (fun (a : State × Nat) r =>
      let G := optGroup s x r.group
      let arr (b : Bool) (o : Nat) : List Byte := if b then viewBytes s x o (4 * r.nelem) else List.replicate (4 * r.nelem) 0
      (emitStook a.1 k c u.step 4 (at_ + a.2) (viewBytes s x r.master (4 * r.nelem) ++ arr (usesM G.opt) r.mom1 ++ arr (usesV G.opt) r.mom2),
        a.2 + 12 * r.nelem)) (s, 0)).1
    updCtx s c (fun x => { x with stook := x.stook.map (fun t => { t with emitted := addNew u.bucket t.emitted }) })

/-- The schedule multiplier that a Saddle die fixes for a step; none while the entry names another step (R280). -/
def schedNow (s : State) (x : Ctx) (step : W32) : Option (BitVec 32) :=
  let v := viewRead s x (atSched + 8 * (step.toNat % 1024)) 8
  if v / 2 ^ 32 = step.toNat then some (w32 v) else none
def schedOf (x : Ctx) (k : Nat) (step : W32) : Option SchedLatch := x.sched.find? (fun l => l.saddle == k && l.step == step)
def setSched (x : Ctx) (l : SchedLatch) : Ctx :=
  { x with sched := l :: (x.sched.filter (fun m => !(m.saddle == l.saddle && m.step == l.step))).take 95 }

/-- Reads the schedule entry at the first bucket of a step; a missing one is logged once. -/
def latchSched (s : State) (k : Nat) (c : BitVec 8) (step : W32) : State :=
  match ctxOf s c with
  | none => s
  | some x =>
    match schedOf x k step with
    | some _ => s
    | none =>
      let rho := schedNow s x step
      let s := setCtx s c (setSched x ⟨k, step, rho⟩)
      if rho.isSome then s else logAt s 0x1405 2 k (some c) (some step) step.toNat

/-- The factor of a step as a Saddle die's unit has it: 1 without clipping; none while it is awaited. -/
def factorAt (x : Ctx) (k : Nat) (step : W32) : Option (Nat × Bool) :=
  match clipLatch x step with
  | none => none
  | some l => if l.clipc = 0 then some (one32, true)
      else if l.units.contains k then l.factor.map (fun f => (f.1.toNat, f.2)) else none

/-- Applies, emits and publishes a bucket that has passed the barrier. -/
def applyBucket (s : State) (k : Nat) (c : BitVec 8) (pl : Plan) (e : PlanBucket) (u : UpdItem) (f : Nat × Bool) : State :=
  let s := openStook s c u.step
  match ctxOf s c with
  | none => s
  | some x =>
    if !f.2 then publish (emitBoundary (emitUnchanged (dropItem s u) k c x pl e u) c) c u.bucket u.step
    else
      let s := latchSched s k c u.step
      match ((ctxOf s c).bind (fun x => schedOf x k u.step)).bind (·.rho) with
      | none => setItem s { u with st := .sched }
      | some rho => publish (emitBoundary (updateRanges (dropItem s u) k c x pl e u rho.toNat f.1) c) c u.bucket u.step

/-- Has the bucket been updated at the step before, so that this step's update may begin (R285, R325): its version says so, or its
publication of that step is under way? A plan's first step has none before it. -/
def olderDone (x : Ctx) (pl : Plan) (u : UpdItem) : Bool :=
  u.step == pl.firstStep || x.win.pubs.any (fun p => p.bucket == u.bucket && p.step == u.step - 1) ||
    (match tabFind x.win.versions u.bucket with
     | some v => decide ((v - (u.step - 1)).toNat < 2 ^ 31)
     | none => false)

/-- Bytes that wait in the Ring staging region of a Saddle die, whose room is 8 MiB (R261, R286). -/
def ringStaged (s : State) (k : Nat) : Nat :=
  ((s.ring.filter (fun f => f.src == ringStop k && f.at_ == ringStop k)).map (fun f => flitBytes f.body)).sum
def ringRegion : Nat := 8 * 2 ^ 20

/-- Does a stook step's pass stall: is the Ring region full? The pass of one bucket is one step of the model. DEDUCED, log entry 20. -/
def passStalls (s : State) (x : Ctx) (k : Nat) (step : W32) : Bool :=
  (stookOrd x step).isSome && decide (ringRegion ≤ ringStaged s k)

/-- BUCKET_UPDATE: the unit begins a landed bucket, or one released from the barrier; `ecc` is what the checks find in the lines that it
reads, by view offset (R266). -/
def bucketUpdate (s : State) (k : Nat) (c : BitVec 8) (step : W32) (b : Nat) (ecc : List (Nat × HbmEcc)) : State :=
  match findItem s k c step b, ctxOf s c with
  | some u, some x =>
    match x.win.plan with
    | none => s
    | some pl =>
      match pl.buckets[b]? with
      | none => s
      | some e =>
        if beforeReplay x ∨ !olderDone x pl u ∨ stookHolds x step ∨ passStalls s x k step then s
        else match u.st with
          | .landed =>
            let s := latchClip (eccOutcomes s k c ecc) c step
            let clip := clipOf s c step
            let p := if clip = 0 then 0 else normPartial s x pl e u
            let s := updCtx s c (fun x => updNorm x step (fun n => { n with partials := tabSet n.partials b p }))
            match (ctxOf s c).bind (fun x => factorAt x k step) with
            | some f => applyBucket s k c pl e u f
            | none => setItem s { u with st := .barrier }
          | .released =>
            (match factorAt x k step with
             | some f => applyBucket (eccOutcomes s k c ecc) k c pl e u f
             | none => s)
          | _ => s
  | _, _ => s

/-- SCHED_RETRY_TIMER and the doorbell 0xFFFFFFFE (R280, R414): buckets that wait for an entry read it again. -/
def schedRetry (s : State) (k : Nat) (c : BitVec 8) : State :=
  match ctxOf s c with
  | none => s
  | some x =>
    let found := (x.sched.filter (fun l => l.saddle == k && l.rho.isNone)).filterMap (fun l => (schedNow s x l.step).map (fun r => (l.step, r)))
    found.foldl (fun s f =>
      let s := updCtx s c (fun x => setSched x ⟨k, f.1, some f.2⟩)
      { s with upd := s.upd.map (fun u =>
          if u.saddle = k ∧ u.ctx = c ∧ u.step = f.1 ∧ u.st = .sched then { u with st := .released } else u) }) s

def schedRetryAll (s : State) (k : Nat) : State := (ctxNames s).foldl (fun s c => schedRetry s k c) s

/-- CLIP_FACTOR: the factor reaches a unit, which releases its held buckets of the step (R321). -/
def clipArrives (s : State) (k : Nat) (c : BitVec 8) (step : W32) : State :=
  match ctxOf s c with
  | none => s
  | some x =>
    match clipLatch x step with
    | none => s
    | some l =>
      if l.factor.isNone ∨ l.units.contains k then s
      else
        let s := setCtx s c { x with clip := x.clip.map (fun m => if m.step = step then { m with units := k :: m.units } else m) }
        { s with upd := s.upd.map (fun u =>
            if u.saddle = k ∧ u.ctx = c ∧ u.step = step ∧ u.st = .barrier then { u with st := .released } else u) }

/-- BUCKET_LANDING (R281). -/
def execBucketLanding (saddle : Nat) (s : State) : Host.Outcome State Fault Refusal :=
  .next (bucketLanding s saddle)

/-- BUCKET_UPDATE (R281). -/
def execBucketUpdate (saddle : Nat) (ctx : BitVec 8) (step : W32) (bucket : WithEcc Nat) (s : State) :
    Host.Outcome State Fault Refusal :=
  .next (bucketUpdate s saddle ctx step bucket.val bucket.ecc)

/-- SCHED_RETRY_TIMER (R280). -/
def execSchedRetryTimer (saddle : Nat) (s : State) : Host.Outcome State Fault Refusal :=
  .next (schedRetryAll s saddle)

/-- CLIP_FACTOR (R321). -/
def execClipFactor (saddle : Nat) (ctx : BitVec 8) (step : W32) (s : State) : Host.Outcome State Fault Refusal :=
  .next (clipArrives s saddle ctx step)

end Sys2Proof.Machine
end

