-- ==== Sys2Proof/Machine/Winnow.lean ====
section
/-! DEFINITION. Winnow (R288 to R318): inputs of chunks and their verdicts, pairs, attempts, commits, the frames that leave for the
next rank with their resend stores, and the control frames. -/
namespace Sys2Proof.Machine

/-! ### Side lines (R290, R291) -/

def sideBmax (v k : Nat) : Nat := elemAt v 8 k
def sideEsc (v : Nat) : Nat := bits v 287 256
def sideNf (v : Nat) : Nat := bits v 319 288
def sideNcon (v : Nat) : Nat := bits v 335 320
def mkSide (bmax : List Nat) (esc nf ncon : Nat) : Nat := ofElems 8 bmax + 2 ^ 256 * esc + 2 ^ 288 * nf + 2 ^ 320 * (ncon % 2 ^ 16)
/-- Field by field: maximum, OR, OR, sum. -/
def sideCombine (a b : Nat) : Nat :=
  mkSide ((List.range 32).map (fun k => max (sideBmax a k) (sideBmax b k))) (sideEsc a ||| sideEsc b) (sideNf a ||| sideNf b)
    (sideNcon a + sideNcon b)

/-! ### Chunks (R302, R316) -/

/-- Adds or subtracts mantissas lane by lane: the sum, and the blocks that saturated. -/
def mantAdd (w : Nat) (sub : Bool) (sum mant : List Int) : List Int × Nat :=
  let sum := if sum.isEmpty then mant.map (fun _ => 0) else sum
  let r := (sum.zip mant).map (fun p => wAdd w sub p.1 p.2)
  (r.map (·.1), ((List.range 32).filter (fun k => ((r.drop (32 * k)).take 32).any (·.2))).foldl (fun a k => a + 2 ^ k) 0)

/-- The input is in the sum. -/
def chunkAdd (w : Nat) (ch : Chunk) (i : ChunkIn) : Chunk :=
  let r := mantAdd w false ch.sum i.mant
  { ch with sum := r.1, esc := ch.esc ||| r.2, inputs := ch.inputs ++ [{ i with added := true, sat := r.2 }] }

/-- The sum of the inputs that are in it, formed anew. -/
def chunkRebuild (w : Nat) (ch : Chunk) : Chunk :=
  ch.inputs.foldl (fun c i => if i.added then chunkAdd w c i else { c with inputs := c.inputs ++ [i] })
    { ch with inputs := [], sum := [], esc := 0 }

def inputIs (src : Nat) (pair : Bool) (i : ChunkIn) : Bool := i.src == src && i.pair == pair
def findInput (ch : Chunk) (src : Nat) (pair : Bool) : Option ChunkIn := ch.inputs.find? (inputIs src pair)

/-- Takes an input out of the sum: subtracted exactly, or the sum rebuilt where its addition had saturated. -/
def chunkSub (w : Nat) (ch : Chunk) (i : ChunkIn) : Chunk :=
  if !i.added then ch
  else
    let out := ch.inputs.map (fun j => if inputIs i.src i.pair j then { j with added := false } else j)
    if i.sat ≠ 0 then chunkRebuild w { ch with inputs := out }
    else
      let r := mantAdd w true ch.sum i.mant
      { ch with inputs := out, sum := r.1, esc := ch.esc ||| r.2 }

def dropInput (ch : Chunk) (src : Nat) (pair : Bool) : Chunk := { ch with inputs := ch.inputs.filter (fun i => !inputIs src pair i) }
def setVerdict (ch : Chunk) (src : Nat) (pair : Bool) : Chunk :=
  { ch with inputs := ch.inputs.map (fun i => if inputIs src pair i then { i with verdict := some true } else i) }

/-- The side line of the sum: those of its verified inputs, with the blocks its additions saturated. -/
def chunkSide (ch : Chunk) : Nat :=
  let v := (ch.inputs.filter (fun i => i.added && i.verdict == some true)).foldl (fun a i => sideCombine a i.side.toNat) 0
  mkSide ((List.range 32).map (sideBmax v)) (sideEsc v ||| ch.esc) (sideNf v) (sideNcon v)

/-- Is every summed input that a rank awaits held with a good verdict? -/
def chunkFull (pl : Plan) (b : PlanBucket) (r c : Nat) (ch : Chunk) : Bool :=
  (expected pl b c r).all (fun q => match findInput ch q false with
    | some i => i.verdict == some true
    | none => false)

def chunkOf (u : BSlot) (c : Nat) : Chunk := tabGet u.chunks c .init
def setChunk (u : BSlot) (c : Nat) (ch : Chunk) : BSlot := { u with chunks := tabSet u.chunks c ch }

/-! ### Frames to other ranks (R292, R299, R318) -/

/-- The route to an engine, where the spur it leaves on is the context's (R367). -/
def ctxRoute (s : State) (c : BitVec 8) (e : BitVec 24) : Option Route :=
  (findRoute s e).filter (fun r => (spurOf s r.spur).owner == some c && spurState s r.spur == spurAttached)

/-- A control record (R318). DEDUCED, log entry 24. -/
def ctrlLine (kind att src body : Nat) : Line := BitVec.ofNat 512 (kind + 2 ^ 128 * att + 2 ^ 160 * src + 2 ^ 192 * body)
def ctlKind (l : Line) : Nat := byteField l.toNat 0 0
def ctlAtt (l : Line) : Nat := bits l.toNat 133 128
def ctlSrc (l : Line) : Nat := bits l.toNat 175 160
def ctlBody (l : Line) : Nat := l.toNat / 2 ^ 192

/-- Sends control lines to a rank on port die index 0. -/
def ctrlFrame (s : State) (c : BitVec 8) (dst : Nat) (step : W32) (b chunk tid : Nat) (lines : List Line) : State :=
  match ctxOf s c with
  | none => s
  | some x =>
    match x.win.plan with
    | none => s
    | some pl =>
      let e := rankEngine pl dst
      match peerOf x e, ctxRoute s c e with
      | some q, some _ =>
        originate s 0 false ⟨e, engineId s, q.ctx, 0, tid, 0, q.epoch, false, false, false, false, lines.length, b, chunk, step, 0⟩ lines false
      | _, _ => s

def myRankOf (s : State) (c : BitVec 8) : Nat := (((ctxOf s c).bind (·.win.plan)).map (·.myRank)).getD 0
/-- A control record to a rank. -/
def sendCtrl (s : State) (c : BitVec 8) (dst kind : Nat) (step : W32) (b chunk tid att body : Nat) : State :=
  ctrlFrame s c dst step b chunk tid [ctrlLine kind att (myRankOf s c) body]
/-- A control record to every other rank. -/
def sendAll (s : State) (c : BitVec 8) (pl : Plan) (kind : Nat) (step : W32) (b att body : Nat) : State :=
  ((List.range pl.ranks.length).filter (· != pl.myRank)).foldl (fun s r => sendCtrl s c r kind step b 0 winnowTid att body) s

/-- The kernel TID of a data frame: one for partials, the next for pair copies. DEDUCED, log entry 24. -/
def frameTid (pair : Bool) : Nat := if pair then winnowTid + 1 else winnowTid

/-- Mantissas as they lie in a peer frame, and the chunk's lines (R164, R290). -/
def wireLines (fmt : Nat) (side : Nat) (mant : List Int) : List Line :=
  let w := wireW fmt
  BitVec.ofNat 512 side :: linesOf (mant.flatMap (fun q => toBytes (w / 8) (toField q w)))
def wireMant (fmt blocks : Nat) (l : List Line) : List Int :=
  let w := wireW fmt
  let v := leNat (payloadBytes l)
  (List.range (32 * blocks)).map (fun i => sextN (elemAt v w i) w)
def wireCount (fmt blocks : Nat) : Nat := 1 + ceilDiv (blocks * 4 * wireW fmt) 64

/-- Bytes of a resend store (R317). -/
def storeUsed (l : PortLink) (c : BitVec 8) : Nat := ((l.store.filter (fun h => h.ctx == c)).map (fun h => frameSize h.f)).sum

/-- Sends a chunk to a rank on the spur of the next rank of its path, which a pair copy passes in transit (R301); none while the route,
the window or the resend store does not let it leave. DEDUCED, log entry 24. -/
def sendChunk (s : State) (c : BitVec 8) (x : Ctx) (pl : Plan) (u : BSlot) (chunk next dst : Nat) (pair : Bool) (side : Nat) (mant : List Int) :
    Option State :=
  let e := rankEngine pl dst
  match peerOf x e, ctxRoute s c (rankEngine pl next) with
  | some q, some r =>
    let p := 8 * r.spur + chunk % 8
    let fmt := attFmt pl u.att
    let lines := wireLines fmt side mant
    let h : FrameHdr := ⟨e, engineId s, q.ctx, 9, frameTid pair, fmt, q.epoch, false, true, false, sideEsc side != 0, lines.length,
      u.bucket, 2 ^ 18 * u.att + chunk, u.step, 0⟩
    let pool := hopPool s r.spur r false 9 4 e
    let f := buildFrame s p pool false h lines false
    if windowOpen pl x.win (orderIx pl u.step u.bucket) && decide (storeUsed (linkOf s p) c + frameSize f ≤ 2 ^ 20 * pl.rsg) then
      let s := sendOn s p pool false h lines false
      some (updLink s p (fun l => { l with store := l.store ++ [⟨c, u.step, u.bucket, chunk, u.att, f⟩] }))
    else none
  | _, _ => none

/-! ### Commit (R307, R312, R315) -/

/-- The conversion tasks of a bucket with their graphs' tasks. -/
def convTasks (x : Ctx) (pl : Plan) (e : PlanBucket) : List (Graph × Nat × GTask) :=
  ((pl.convs.drop e.conv0).take e.nconv).filterMap (fun v =>
    (findGraph x v.graph).bind (fun g => (g.tasks[v.task]?).map (fun t => (g, v.task, t))))

/-- What a rank does on COMMIT: the CTID tokens, posted from a reduction tile, the frontier, and the bucket's frames in the
resend stores. DEDUCED, log entry 24. -/
def commitHere (s : State) (c : BitVec 8) (pl : Plan) (b : Nat) (e : PlanBucket) (step : W32) (tile : Nat) : State :=
  match ctxOf s c with
  | none => s
  | some x =>
    let s := (convTasks x pl e).foldl (fun s v =>
      let t := v.2.2.tile
      setTile s tile (injectAwn (tileOf s tile)
        ⟨ixX t, ixY t, epochNow s c, c, stepTid (BitVec.ofNat 20 e.ctid) step, 1, tile, false, .token⟩)) s
    let s := updCtx s c (fun x => { x with win := commitIx x.win (orderIx pl step b) })
    let s := { s with links := tabMap s.links (fun _ l =>
      { l with store := l.store.filter (fun h => !(h.ctx == c && h.step == step && h.bucket == b)) }) }
    if e.owner = pl.myRank then s else dropSlot s c step b

/-- The collect tile of a chunk on the owner. -/
def collectTile (s : State) (e : PlanBucket) (c : Nat) : Nat := reductionTile (gridW s) (8 * e.cspur + c % 8) c

/-- The tile that holds a rank's data of a chunk (R299): the collect tile on the owner, elsewhere a tile of the port die of the
outgoing hop; that of port die p where no route serves. -/
def chunkTile (s : State) (pl : Plan) (e : PlanBucket) (p c : Nat) : Nat :=
  if e.owner = pl.myRank then collectTile s e c
  else match (pathNext pl e.owner c pl.myRank).bind (fun q => findRoute s (rankEngine pl q)) with
    | some r => reductionTile (gridW s) (8 * r.spur + c % 8) c
    | none => reductionTile (gridW s) p c

/-- A chunk's final sum leaves its collect tile for the landing Saddle die as GRD packets (R307). -/
def sendFinal (s : State) (c : BitVec 8) (pl : Plan) (e : PlanBucket) (u : BSlot) (chunk : Nat) : State :=
  let ch := chunkOf u chunk
  let i := collectTile s e chunk
  let fmt := attFmt pl u.att
  let lines := chunkLines fmt (BitVec.ofNat 512 (chunkSide ch)) ch.sum
  let a := attachTile (gridW s) e.lsaddle (chunk % 8)
  setTile s i ((lines.zipIdx).foldl (fun t l => inject t
    { rk := 0, add := false, tok := false, hop := 0, epoch := epochNow s c, psn := false, cls := 9, seq := 0, fmt := fmt
      tid := BitVec.ofNat 20 winnowTid, ctx := c, span := 0, slot := 0, rsv := 0, line := 0, dstY := a.2, dstX := a.1, srcY := ixY i
      srcX := ixX i, data := l.1, body := .landing u.step u.bucket chunk (decide (l.2 + 1 = lines.length)) }) (tileOf s i))

/-- PAIR_MISSING for every pair whose second copy never came, and the digests kept for late ones. -/
def closePairs (s : State) (c : BitVec 8) (u : BSlot) (e : PlanBucket) : State :=
  let recs := u.chunks.flatMap (fun p => p.2.pairs.map (fun r => (p.1, r)))
  let s := recs.foldl (fun s r =>
    if r.2.second then s
    else
      let miss := if r.2.firstRank = r.2.primary then r.2.backup else r.2.primary
      logAt s 0x1303 0 (collectTile s e r.1) (some c) (some u.step) (u.bucket + 2 ^ 16 * miss)) s
  updCtx s c (fun x => { x with win := { x.win with
    digests := x.win.digests.filter (fun d => !(d.bucket == u.bucket && d.step == u.step - 1)) ++
      recs.map (fun r => ⟨u.bucket, u.step, r.1, r.2.primary, r.2.firstRank, r.2.digest, r.2.second⟩) } })

/-- The committed BMAX of a bucket. -/
def slotBmax (e : PlanBucket) (u : BSlot) : List Byte :=
  (List.range e.nblk).map (fun i => BitVec.ofNat 8 (sideBmax (chunkSide (chunkOf u (i / 32))) (i % 32)))

/-- The owner commits a bucket. -/
def commitBucket (s : State) (c : BitVec 8) (pl : Plan) (e : PlanBucket) (u : BSlot) : State :=
  let s := setSlot s { u with st := .committed }
  let s := updCtx s c (fun x => { x with win := { x.win with bmax := tabSet x.win.bmax (2 * u.bucket + u.step.toNat % 2) (slotBmax e u) } })
  let s := closePairs s c u e
  let s := sendAll s c pl 2 u.step u.bucket u.att (attFmt pl u.att)
  let s := commitHere s c pl u.bucket e u.step (collectTile s e 0)
  (List.range (chunkCount e)).foldl (fun s i => sendFinal s c pl e u i) s

/-! ### Attempts (R309 to R311) -/

/-- The submission whose instance of a graph runs a step: an unfinished one, or one that has ended and may be attempted again (R311). -/
def runsStep (x : Ctx) (graph : Nat) (step : W32) : Option Submission :=
  (unfinished x ++ x.past).find? (fun b => b.graph == graph && decide ((step - b.first).toNat < b.count))

/-- A rank's part in a new attempt: the bucket's conversion tasks run again with s6 holding the attempt, and OVER is marked for
every layer of its ranges. -/
def redispatch (s : State) (c : BitVec 8) (pl : Plan) (e : PlanBucket) (step : W32) (a : Nat) : State :=
  match ctxOf s c with
  | none => s
  | some x =>
    let s := updCtx s c (fun x => { x with win := { x.win with
      overs := ((bucketRanges pl e).map (fun r => (step, r.layer))).foldl (fun l p => addNew p l) x.win.overs } })
    (convTasks x pl e).foldl (fun s v =>
      match runsStep x v.1.handle step, roleOfCtx (tileOf s v.2.2.tile) c with
      | some b, some (sec, _) =>
        let d := taskDesc c sec ⟨b, (step - b.first).toNat, 0, v.1, v.2.1, v.2.2⟩ (some []) 0
        let d := { d with silent := true, ordered := false, edges := [], args := d.args.set 6 (w32 a) }
        let t := tileOf s v.2.2.tile
        setTile s v.2.2.tile { t with replay := t.replay ++ [d] }
      | _, _ => s) s

/-- The combined ESCMAP of a bucket's chunks, as block numbers. -/
def escBlocks (e : PlanBucket) (u : BSlot) : List Nat :=
  (List.range e.nblk).filter (fun i => bitOf (sideEsc (chunkSide (chunkOf u (i / 32)))) (i % 32))

/-- The owner opens the next attempt. DEDUCED, log entry 24. -/
def openAttempt (s : State) (c : BitVec 8) (pl : Plan) (e : PlanBucket) (u : BSlot) : State :=
  let a := u.att + 1
  let s := sendAll s c pl 1 u.step u.bucket a 0
  let s := numLog s c (NumRec.data ⟨6, 0, u.step, 2, attFmt pl u.att, attFmt pl a, 4, 0, 0, 0xFFFF, u.bucket, 0, 0⟩ c)
  let s := setSlot s { u with att := a, st := .opened, chunks := [], landed := [] }
  redispatch s c pl e u.step a

/-! ### Progress of a slot (R307, R308) -/

/-- Has every pair of a chunk a verified copy; is every one resolved? -/
def pairsHave (pl : Plan) (e : PlanBucket) (c : Nat) (ch : Chunk) (ok : PairSt → Bool) : Bool :=
  (chunkPairs pl e c).all (fun p => match ch.pairs.find? (fun r => r.primary == p.1) with
    | some r => ok r.st
    | none => false)

/-- The owner's slot moves on as far as its chunks allow. -/
def ownerProgress (s : State) (c : BitVec 8) (x : Ctx) (pl : Plan) (e : PlanBucket) (u : BSlot) : State :=
  let cs := List.range (chunkCount e)
  let done := cs.all (fun i => chunkFull pl e pl.myRank i (chunkOf u i) && pairsHave pl e i (chunkOf u i) (· != .awaiting))
  if u.st = .opened ∧ done then
    let esc := escBlocks e u
    let exps := bucketExps s x pl u.bucket e u.step u.att
    let top := attFmt pl u.att = 0xC ∧ esc.all (fun i => (exps[i]?).getD 0 == 255)
    if esc ≠ [] ∧ !top then openAttempt s c pl e u
    else
      let s := if esc = [] then s
        else numLog s c (NumRec.data ⟨7, 0, u.step, 2, 0xC, 0xC, 4, 0, 0, 0xFFFF, u.bucket, 0, 0⟩ c)
      let u := { u with st := .resolving }
      if cs.all (fun i => pairsHave pl e i (chunkOf u i) (· == .resolved)) then commitBucket s c pl e u else setSlot s u
  else if u.st = .resolving ∧ cs.all (fun i => pairsHave pl e i (chunkOf u i) (· == .resolved)) then commitBucket s c pl e u
  else setSlot s u

/-- One chunk of a rank that is not the owner: its partial and its pair copy leave once they may. -/
def chunkLeave (s : State) (c : BitVec 8) (x : Ctx) (pl : Plan) (e : PlanBucket) (u : BSlot) (i : Nat) : State × BSlot :=
  let ch := chunkOf u i
  let a := if !ch.sent && sendsPartial pl e i pl.myRank && chunkFull pl e pl.myRank i ch then
      (match pathNext pl e.owner i pl.myRank with
       | some q => (sendChunk s c x pl u i q q false (chunkSide ch) ch.sum).map (fun s =>
           (s, { ch with sent := true, sum := [], inputs := ch.inputs.map (fun j => if j.pair then j else { j with mant := [] }) }))
       | none => none)
    else none
  let (s, ch) := a.getD (s, ch)
  let b := match findInput ch pl.myRank true with
    | some j => if ch.copySent then none
        else (sendChunk s c x pl u i ((pathNext pl e.owner i pl.myRank).getD e.owner) e.owner true j.side.toNat j.mant).map (fun s => (s, { ch with copySent := true }))
    | none => none
  let (s, ch) := b.getD (s, ch)
  (s, setChunk u i ch)

/-- Has the next rank acknowledged everything that this rank sends of a chunk? -/
def chunkSettled (pl : Plan) (e : PlanBucket) (u : BSlot) (i : Nat) : Bool :=
  let ch := chunkOf u i
  (!sendsPartial pl e i pl.myRank || ch.acked) && (match contrib pl e pl.myRank i with
    | .paired _ _ => ch.copyAcked
    | _ => true)

def senderProgress (s : State) (c : BitVec 8) (x : Ctx) (pl : Plan) (e : PlanBucket) (u : BSlot) : State :=
  let r := (List.range (chunkCount e)).foldl (fun (a : State × BSlot) i => chunkLeave a.1 c x pl e a.2 i) (s, u)
  let u := r.2
  setSlot r.1 (if u.st = .sending ∧ (List.range (chunkCount e)).all (chunkSettled pl e u) then { u with st := .sent } else u)

/-- A slot moves on. -/
def slotOnce (s : State) (c : BitVec 8) (step : W32) (b : Nat) : State :=
  match ctxOf s c, findSlot s c step b with
  | some x, some u =>
    match x.win.plan with
    | none => s
    | some pl =>
      match pl.buckets[b]? with
      | none => s
      | some e => if u.owner then ownerProgress s c x pl e u else senderProgress s c x pl e u
  | _, _ => s

/-- The slots of a context each move on, in turn. -/
def sweepSlots (s : State) (c : BitVec 8) : State :=
  (s.bslots.filter (fun u => u.ctx == c)).foldl (fun s u => slotOnce s c u.step u.bucket) s

/-- How many order indices a rank holds COMMIT for. -/
def commitsHeld (s : State) (c : BitVec 8) : Nat := ((ctxOf s c).map (fun x => x.win.front + x.win.ahead.length)).getD 0

/-- Every slot of a context moves on, after a COMMIT or an acknowledgement has made room; and again while that commits a bucket of this
rank's own, which releases the frames of later ones (R304). -/
def sweepWhile (c : BitVec 8) : Nat → State → State
  | 0, s => s
  | n + 1, s =>
    let t := sweepSlots s c
    if commitsHeld t c = commitsHeld s c then t else sweepWhile c n t
def allProgress (s : State) (c : BitVec 8) : State := sweepWhile c (s.bslots.length + 1) s

/-- A slot moves on; where it commits, so do the others. -/
def slotProgress (s : State) (c : BitVec 8) (step : W32) (b : Nat) : State :=
  let t := slotOnce s c step b
  if commitsHeld t c = commitsHeld s c then t else allProgress t c

/-! ### Inputs (R303, R306, R313, R316) -/

/-- The slot of a tag, allocated on the first piece or frame while the context's reservation allows. -/
def takeSlot (s : State) (c : BitVec 8) (pl : Plan) (step : W32) (b : Nat) (own : Bool) : Option BSlot :=
  match findSlot s c step b with
  | some u => some u
  | none =>
    if (s.bslots.filter (fun u => u.ctx == c)).length < 2 * pl.window then
      some ⟨c, epochNow s c, step, b, 0, own, if own then .opened else .sending, [], []⟩
    else none

/-- DEDUCED, log entry 24. -/
def countStale (s : State) (c : BitVec 8) : State := updCtx s c (fun x => { x with win := { x.win with stale := x.win.stale + 1 } })

/-- The pair of a member, as (primary, backup). -/
def pairOf (pl : Plan) (e : PlanBucket) (chunk src : Nat) : Option (Nat × Nat) :=
  (chunkPairs pl e chunk).find? (fun p => p.1 == src || p.2 == src)

/-- Is a member of a pair in the sum? -/
def pairIn (ch : Chunk) (p : Nat × Nat) : Bool := ch.inputs.any (fun i => i.pair && i.added && (i.src == p.1 || i.src == p.2))

/-- Requests the field tests of a rank named by SUSPECT, all six categories (R314, R461): this engine's own starts at once; a request to
another engine has no frame in the manual, and is noted. DEDUCED, log entry 24. -/
def requestTests (pl : Plan) (c : BitVec 8) (s : State) (rank : Nat) : State :=
  if rankEngine pl rank = engineId s then autoTest s c 0x3F
  else { s with notices := s.notices ++ [.fieldTest c (rankEngine pl rank)] }

/-- SUSPECT: two copies of a pair differ (R314). The digests follow it, first copy first; both ranks are to be tested. -/
def suspect (s : State) (c : BitVec 8) (pl : Plan) (step : W32) (b chunk first second tile : Nat) (d1 d2 : BitVec 64) : State :=
  let s := logAt s 0x0501 0 tile (some c) (some step) (b + 2 ^ 16 * first + 2 ^ 32 * second + 2 ^ 48 * (chunk % 2 ^ 16))
  let s := logAt s 0x1304 0 tile (some c) (some step) d1.toNat
  let s := logAt s 0x1304 0 tile (some c) (some step) d2.toNat
  [first, second].foldl (requestTests pl c) s

/-- A pair copy with a good verdict (R313): the first is in the sum, the second is compared. -/
def pairVerified (s : State) (c : BitVec 8) (w : Nat) (pl : Plan) (e : PlanBucket) (u : BSlot) (chunk : Nat)
    (p : Nat × Nat) (i : ChunkIn) : State × Chunk :=
  let ch := chunkOf u chunk
  let rest := ch.pairs.filter (fun r => r.primary != p.1)
  let first : State × Chunk :=
    let other := ch.inputs.find? (fun j => j.pair && j.added && j.src != i.src && (j.src == p.1 || j.src == p.2))
    let ch := match other with
      | some j => chunkSub w ch j
      | none => ch
    let ch := if i.added then ch else { chunkAdd w (dropInput ch i.src true) i with pairs := ch.pairs }
    (s, { ch with pairs := ⟨p.1, p.2, .first, i.src, i.digest, false⟩ :: rest })
  match ch.pairs.find? (fun r => r.primary == p.1) with
  | none => first
  | some r =>
    if r.st = .awaiting then first
    else
      let s := if r.second ∨ r.digest = i.digest then s
        else suspect s c pl u.step u.bucket chunk r.firstRank i.src (collectTile s e chunk) r.digest i.digest
      (s, { ch with pairs := { r with st := .resolved, second := true } :: rest })

/-- This rank's own contribution: summed with what reaches the rank, or a pair copy for the owner. -/
def ownInput (s : State) (c : BitVec 8) (step : W32) (b chunk att : Nat) (side : Line) (mant : List Int) : State :=
  match ctxOf s c with
  | none => s
  | some x =>
    match x.win.plan with
    | none => s
    | some pl =>
      match pl.buckets[b]? with
      | none => s
      | some e =>
        if committed x.win (orderIx pl step b) then countStale s c
        else match takeSlot s c pl step b (e.owner == pl.myRank) with
          | none => s
          | some u =>
            if att < u.att then countStale s c
            else if u.att < att ∨ u.st = .committed ∨ chunkCount e ≤ chunk ∨ mant.length ≠ 32 * chunkBlocks e chunk then s
            else
              let ch := chunkOf u chunk
              let i : ChunkIn := ⟨pl.myRank, false, attFmt pl att, side, mant, 0, some true, false, 0⟩
              match contrib pl e pl.myRank chunk with
              | .none => s
              | .plain =>
                if (findInput ch pl.myRank false).isSome then s
                else slotProgress (setSlot s (setChunk u chunk (chunkAdd (wireW i.fmt) ch i))) c step b
              | .paired _ _ =>
                if (findInput ch pl.myRank true).isSome then s
                else slotProgress (setSlot s (setChunk u chunk { ch with inputs := ch.inputs ++ [{ i with pair := true }] })) c step b

/-! ### Received data frames -/

/-- The tag of a Winnow data frame: context, step, bucket, chunk, attempt, pair copy. -/
structure FrameTag where
  ctx : BitVec 8
  step : W32
  bucket : Nat
  chunk : Nat
  att : Nat
  pair : Bool
  src : BitVec 24
deriving DecidableEq, Repr

def tagOf (f : RawFrame) : FrameTag :=
  ⟨hCtx f.hdr, hStep f.hdr, hBucket f.hdr, hChunk f.hdr % 2 ^ 18, hChunk f.hdr / 2 ^ 18, hTid f.hdr == winnowTid + 1, hSrc f.hdr⟩

def frameGood (f : RawFrame) : Bool := trVerdict f.trailer == 0 && !hPsn f.hdr

/-- Has the owner's version of a bucket reached a step? -/
def versionReached (x : Ctx) (b : Nat) (step : W32) : Bool := match tabFind x.win.versions b with
  | some v => decide ((v - step).toNat < 2 ^ 31)
  | none => false

/-- What becomes of a received data frame: nothing yet, or a state, with its verdict line still to come or not. -/
inductive Taken where
  | held
  | gone (s : State)
  | kept (s : State)

/-- A data frame is judged and its data added to its chunk before its verdict is known (R306, R313, R316). A frame that the plan does
not expect (another source, a chunk beyond the bucket, another format or length) is counted as stale and discarded, on which the
manual is silent: DESIGN CHOICE, log entry 49. A pair copy of a bucket that has been published goes on to the comparison (R315). -/
def takeData (s : State) (f : RawFrame) : Taken :=
  let g := tagOf f
  match ctxOf s g.ctx with
  | none => .gone s
  | some x =>
    match x.win.plan with
    | none => .gone s
    | some pl =>
      match pl.buckets[g.bucket]?, engineRank pl g.src with
      | some e, some src =>
        let mine := e.owner = pl.myRank
        if mine ∧ versionReached x g.bucket g.step then
          let s := sendCtrl (if g.pair then s else countStale s g.ctx) g.ctx src 2 g.step g.bucket 0 winnowTid g.att (attFmt pl g.att)
          if g.pair then .kept s else .gone s
        else if committed x.win (orderIx pl g.step g.bucket) then (if mine ∧ g.pair then .kept s else .gone (countStale s g.ctx))
        else match takeSlot s g.ctx pl g.step g.bucket (e.owner == pl.myRank) with
          | none => .held
          | some u =>
            let fmt := attFmt pl g.att
            let want := if g.pair then mine && (pairOf pl e g.chunk src).isSome else (partialSources pl e g.chunk pl.myRank).contains src
            if g.att < u.att ∨ !want ∨ chunkCount e ≤ g.chunk ∨ hFmt f.hdr ≠ fmt ∨ f.payload.length ≠ wireCount fmt (chunkBlocks e g.chunk) then
              .gone (countStale s g.ctx)
            else if u.att < g.att then .held
            else
              let ch := chunkOf u g.chunk
              match findInput ch src g.pair with
              | some i => if i.verdict.isNone then .held else .kept s
              | none =>
                let mant := wireMant fmt (chunkBlocks e g.chunk) (f.payload.drop 1)
                let i : ChunkIn := ⟨src, g.pair, fmt, (f.payload[0]?).getD 0, mant, trDigest f.trailer, none, false, 0⟩
                let skip := g.pair && (match pairOf pl e g.chunk src with
                  | some p => pairIn ch p
                  | none => true)
                let ch := if skip then { ch with inputs := ch.inputs ++ [i] } else chunkAdd (wireW fmt) ch i
                .kept (setSlot s (setChunk u g.chunk ch))
      | _, _ => .gone s

/-- The first received Winnow frame of a port die that is not held. -/
def takeFirstData (s : State) (p : Nat) (before : List RawFrame) : List RawFrame → State
  | [] => s
  | f :: rest =>
    let pop (s : State) : State := freeLines (updLink s p (fun l => { l with grd := before ++ rest })) p f
    match takeData s f with
    | .held => takeFirstData s p (before ++ [f]) rest
    | .gone s' => pop s'
    | .kept s' => updLink (pop s') p (fun l => { l with vlines := l.vlines ++ [f] })

/-- WINNOW_DATA_FRAME. -/
def winnowData (s : State) (p : Nat) : WinnowIn → State
  | .peer => takeFirstData s p [] (linkOf s p).grd
  | .own c step b chunk att side mant => ownInput s c step b chunk att side mant

/-- A good verdict: the side line counts, the sender may forget the frame. -/
def goodVerdict (s : State) (g : FrameTag) (e : PlanBucket) (u : BSlot) (pl : Plan) (src : Nat) (i : ChunkIn) : State :=
  let w := wireW i.fmt
  let u := setChunk u g.chunk (setVerdict (chunkOf u g.chunk) src g.pair)
  let i := { i with verdict := some true }
  let (s, ch) := match (if g.pair then pairOf pl e g.chunk src else none) with
    | some p => pairVerified s g.ctx w pl e u g.chunk p i
    | none => (s, chunkOf u g.chunk)
  let s := setSlot s (setChunk u g.chunk ch)
  slotProgress (sendCtrl s g.ctx src 3 g.step g.bucket g.chunk (frameTid g.pair) g.att 0) g.ctx g.step g.bucket

/-- A bad verdict: the frame is taken out of the sum and asked for again; another copy of its pair takes its place. -/
def badVerdict (s : State) (g : FrameTag) (e : PlanBucket) (u : BSlot) (pl : Plan) (src tile : Nat) (i : ChunkIn) : State :=
  let w := wireW i.fmt
  let ch := dropInput (chunkSub w (chunkOf u g.chunk) i) src g.pair
  let other := if g.pair then (pairOf pl e g.chunk src).bind (fun p =>
      if pairIn ch p then none else ch.inputs.find? (fun j => j.pair && (j.src == p.1 || j.src == p.2))) else none
  let ch := match other with
    | some j => chunkAdd w (dropInput ch j.src true) j
    | none => ch
  let s := setSlot s (setChunk u g.chunk ch)
  let s := logAt s 0x1301 0 tile (some g.ctx) (some g.step) (g.bucket + 2 ^ 16 * src)
  slotProgress (sendCtrl s g.ctx src 4 g.step g.bucket g.chunk (frameTid g.pair) g.att src) g.ctx g.step g.bucket

/-- A pair copy that came after its bucket's commit (R315). -/
def lateCopy (s : State) (g : FrameTag) (x : Ctx) (e : PlanBucket) (pl : Plan) (src : Nat) (f : RawFrame) : State :=
  let prim := ((pairOf pl e g.chunk src).map (·.1)).getD src
  let is (d : KeptDigest) : Bool := d.bucket == g.bucket && d.step == g.step && d.chunk == g.chunk && d.primary == prim
  match x.win.digests.find? is with
  | some d =>
    if !frameGood f then sendCtrl s g.ctx src 4 g.step g.bucket g.chunk (frameTid true) g.att src
    else
      let s := if d.second ∨ d.firstRank = src ∨ d.digest = trDigest f.trailer then s
        else suspect s g.ctx pl g.step g.bucket g.chunk d.firstRank src (collectTile s e g.chunk) d.digest (trDigest f.trailer)
      let s := updCtx s g.ctx (fun x => { x with win := { x.win with digests := x.win.digests.map (fun k => if is k then { k with second := true } else k) } })
      sendCtrl s g.ctx src 3 g.step g.bucket g.chunk (frameTid true) g.att 0
  | none =>
    if !frameGood f then s
    else
      let s := logAt s 0x1302 0 (collectTile s e g.chunk) (some g.ctx) (some g.step) (g.bucket + 2 ^ 16 * src)
      sendCtrl s g.ctx src 3 g.step g.bucket g.chunk (frameTid true) g.att 0

/-- VERDICT_LINE: the verdict of the oldest frame delivered by a port die. -/
def verdictLine (s : State) (p : Nat) : State :=
  match (linkOf s p).vlines with
  | [] => s
  | f :: rest =>
    let s := updLink s p (fun l => { l with vlines := rest })
    let g := tagOf f
    match (ctxOf s g.ctx).bind (fun x => x.win.plan.map (fun pl => (x, pl))) with
    | none => s
    | some (x, pl) =>
      match pl.buckets[g.bucket]?, engineRank pl g.src with
      | some e, some src =>
        (match findSlot s g.ctx g.step g.bucket with
         | none => if g.pair ∧ e.owner = pl.myRank ∧ committed x.win (orderIx pl g.step g.bucket) then lateCopy s g x e pl src f else s
         | some u =>
           if u.att ≠ g.att then s
           else if u.st = .committed then (if g.pair then lateCopy s g x e pl src f else s)
           else match findInput (chunkOf u g.chunk) src g.pair with
             | none => s
             | some i =>
               if i.verdict.isSome then
                 (if frameGood f then sendCtrl s g.ctx src 3 g.step g.bucket g.chunk (frameTid g.pair) g.att 0 else s)
               else if frameGood f then goodVerdict s g e u pl src i
               else badVerdict s g e u pl src (chunkTile s pl e p g.chunk) i)
      | _, _ => s

/-- PAIR_DEADLINE_EXPIRY: the chunk is Resolved with its first copy. -/
def pairDeadline (s : State) (c : BitVec 8) (step : W32) (b chunk primary : Nat) : State :=
  match findSlot s c step b with
  | none => s
  | some u =>
    let ch := chunkOf u chunk
    let ch := { ch with pairs := ch.pairs.map (fun r => if r.primary = primary ∧ r.st = .first then { r with st := .resolved } else r) }
    if (chunkOf u chunk).pairs.any (fun r => r.primary == primary && r.st == .first) then
      slotProgress (setSlot s (setChunk u chunk ch)) c step b
    else s

/-! ### Control frames (R311, R312, R317) -/

/-- The oldest control frame of a port die, where it is of a kind: the frame and the state without it. -/
def takeCtrl (s : State) (p kind : Nat) : Option (RawFrame × Line × State) :=
  match (linkOf s p).urg with
  | f :: rest =>
    let l := (f.payload[0]?).getD 0
    if ctlKind l = kind then some (f, l, freeLines (updLink s p (fun l => { l with urg := rest })) p f) else none
  | [] => none

/-- The plan and bucket a frame names. -/
def frameBucket (s : State) (f : RawFrame) : Option (Ctx × Plan × PlanBucket) :=
  (ctxOf s (hCtx f.hdr)).bind (fun x => x.win.plan.bind (fun pl => (pl.buckets[hBucket f.hdr]?).map (fun e => (x, pl, e))))

/-- ATTEMPT. -/
def attemptFrame (s : State) (p : Nat) : State :=
  match takeCtrl s p 1 with
  | none => s
  | some (f, l, s) =>
    let c := hCtx f.hdr
    let step := hStep f.hdr
    let b := hBucket f.hdr
    match frameBucket s f with
    | none => s
    | some (x, pl, e) =>
      let a := ctlAtt l
      let old := ((findSlot s c step b).map (·.att)).getD 0
      if committed x.win (orderIx pl step b) ∨ a ≤ old ∨ e.owner = pl.myRank then s
      else
        let s := if sendsAny pl e pl.myRank then
            setSlot s ⟨c, epochNow s c, step, b, a, false, .sending, [], []⟩ else s
        redispatch s c pl e step a

/-- COMMIT. -/
def commitFrame (s : State) (p : Nat) : State :=
  match takeCtrl s p 2 with
  | none => s
  | some (f, _, s) =>
    let c := hCtx f.hdr
    let step := hStep f.hdr
    let b := hBucket f.hdr
    match frameBucket s f with
    | none => s
    | some (x, pl, e) =>
      if committed x.win (orderIx pl step b) ∨ e.owner = pl.myRank then s
      else allProgress (commitHere s c pl b e step (reductionTile (gridW s) p 0)) c

/-- The held frames that a control frame names. -/
def heldIs (f : RawFrame) (l : Line) (h : HeldFrame) : Bool :=
  h.ctx == hCtx f.hdr && h.step == hStep f.hdr && h.bucket == hBucket f.hdr && h.chunk == hChunk f.hdr % 2 ^ 18 && h.att == ctlAtt l &&
    hTid h.f.hdr == hTid f.hdr && hDst h.f.hdr == hSrc f.hdr

/-- CHUNK_ACK: the frame leaves the resend store. -/
def chunkAckFrame (s : State) (p : Nat) : State :=
  match takeCtrl s p 3 with
  | none => s
  | some (f, l, s) =>
    let c := hCtx f.hdr
    let pair := hTid f.hdr == winnowTid + 1
    let s := { s with links := tabMap s.links (fun _ k => { k with store := k.store.filter (fun h => !heldIs f l h) }) }
    let chunk := hChunk f.hdr % 2 ^ 18
    let s := match findSlot s c (hStep f.hdr) (hBucket f.hdr) with
      | some u =>
        if u.att = ctlAtt l ∧ !u.owner then
          let ch := chunkOf u chunk
          setSlot s (setChunk u chunk (if pair then { ch with copyAcked := true } else { ch with acked := true }))
        else s
      | none => s
    allProgress s c

/-- Sends a held frame again, with the same SEQ. -/
def requeue (s : State) (p : Nat) (h : HeldFrame) : State := pumpPort (updLink s p (fun l => { l with outq := l.outq ++ [h.f] })) p

/-- RESEND: the held frame it names is transmitted again. -/
def resendFrame (s : State) (p : Nat) : State :=
  match takeCtrl s p 4 with
  | none => s
  | some (f, l, s) =>
    s.links.foldl (fun s q => (q.2.store.filter (heldIs f l)).foldl (fun s h => requeue s q.1 h) s) s

/-- WINNOW_FRAME_RESEND_TIMEOUT: the n-th held frame of a port die is sent again. -/
def resendTimeout (s : State) (p n : Nat) : State :=
  match (linkOf s p).store[n]? with
  | some h => requeue s p h
  | none => s

/-- WINNOW_DATA_FRAME (R292). -/
def execWinnowDataFrame (port : Nat) (i : WinnowIn) (s : State) : Host.Outcome State Fault Refusal :=
  .next (winnowData s port i)

/-- VERDICT_LINE (R316). -/
def execVerdictLine (port : Nat) (s : State) : Host.Outcome State Fault Refusal :=
  .next (verdictLine s port)

/-- PAIR_DEADLINE_EXPIRY (R313). -/
def execPairDeadlineExpiry (ctx : BitVec 8) (step : W32) (bucket chunk primary : Nat) (s : State) : Host.Outcome State Fault Refusal :=
  .next (pairDeadline s ctx step bucket chunk primary)

/-- ATTEMPT (R311). -/
def execAttempt (port : Nat) (s : State) : Host.Outcome State Fault Refusal :=
  .next (attemptFrame s port)

/-- COMMIT (R312). -/
def execCommit (port : Nat) (s : State) : Host.Outcome State Fault Refusal :=
  .next (commitFrame s port)

/-- CHUNK_ACK (R317). -/
def execChunkAck (port : Nat) (s : State) : Host.Outcome State Fault Refusal :=
  .next (chunkAckFrame s port)

/-- RESEND (R317). -/
def execResend (port : Nat) (s : State) : Host.Outcome State Fault Refusal :=
  .next (resendFrame s port)

/-- WINNOW_FRAME_RESEND_TIMEOUT (R359). -/
def execWinnowFrameResendTimeout (port n : Nat) (s : State) : Host.Outcome State Fault Refusal :=
  .next (resendTimeout s port n)

end Sys2Proof.Machine
end

