-- ==== Sys2Proof/Machine/Reloc.lean ====
section
/-! DEFINITION. Relocation (R94 to R97): the values of the records, patching of a graph's code, and its placement in the tile SRAM of
the sheaf. -/
namespace Sys2Proof.Machine

/-- Where an object stands: what the relocation types read (R95). -/
structure RelCtx where
  x0 : Nat
  y0 : Nat
  w : Nat
  h : Nat
  sram : Nat
  hbm : Nat
  fmt : Nat → Option Nat

/-- The value of a record; none where a condition of R95 fails. -/
def relocValue (k : RelCtx) (r : Reloc) : Option Int :=
  let a := r.addend
  let n := a.toNat
  match r.type with
  | 1 => some (k.x0 + a)
  | 2 => some (k.y0 + a)
  | 3 => some (k.w + a)
  | 4 => some (k.h + a)
  | 5 => some (k.sram + a)
  | 6 => some (k.hbm + a)
  | 7 =>
    let rx := n % 256
    let ry := n / 256 % 256
    if a < 0 ∨ n ≥ 2 ^ 18 ∨ rx ≥ k.w ∨ ry ≥ k.h then none
    else some (((k.y0 + ry) * 256 + k.x0 + rx) * 4 + n / 2 ^ 16 : Nat)
  | 8 => if a < 0 ∨ n ≥ 2 ^ 16 then none else (k.fmt n).map (fun (v : Nat) => (v : Int))
  | _ => none

/-- Fields in range, and a value that fits (R96). -/
def relocOk (k : RelCtx) (codeLen : Nat) (r : Reloc) : Bool :=
  r.off % 8 == 0 && decide (r.off + 8 ≤ codeLen) && decide (1 ≤ r.width ∧ r.lo + r.width ≤ 34 ∧ r.rshift ≤ 63) &&
    (match relocValue k r with
     | some v => decide (0 ≤ v) && (r.low || decide (v.toNat >>> r.rshift < 2 ^ r.width))
     | none => false)

/-- The instruction word with the record's field written; IMM is bits [33:0]. -/
def relocWord (k : RelCtx) (r : Reloc) (w : Nat) : Nat :=
  match relocValue k r with
  | some v => setBits w r.lo r.width (v.toNat >>> r.rshift)
  | none => w

/-- Bytes of a list replaced from an offset. -/
def setBytes (l : List Byte) (off : Nat) (b : List Byte) : List Byte := l.take off ++ b ++ l.drop (off + b.length)

def relocCode (k : RelCtx) (rs : List Reloc) (code : List Byte) : List Byte :=
  rs.foldl (fun l r => setBytes l r.off (toBytes 8 (relocWord k r (leNat ((l.drop r.off).take 8))))) code

/-- What a sheaf's position and a context's layer table give the records of a graph. -/
def relCtx (s : State) (x : Ctx) (h : Sheaf) (dataAt hbmAt : Nat) : RelCtx :=
  ⟨h.x0, h.y0, codeW h, h.h, dataAt, hbmAt, fun l => if x.layers.contains l then some (layerCfmt s x l) else none⟩

/-- Bytes that the loader writes into tile SRAM, with fresh ECC. -/
def loaderPut (at_ : Nat) (b : List Byte) (t : Tile) : Tile :=
  let ws := wordsIn at_ b.length
  { t with sram := memWriteBytes t.sram at_ b, poison := t.poison.filter (fun w => !ws.contains w), soft := t.soft.filter (fun w => !ws.contains w) }

/-- Applies records of a graph and places the patched code in every tile of its sheaf. -/
def patchGraph (s : State) (c : BitVec 8) (g : Graph) (rs : List Reloc) : State :=
  match ctxOf s c, tabFind s.sheaves g.sheaf with
  | some x, some h =>
    if rs.isEmpty then s
    else
      let code := relocCode (relCtx s x h g.dataAt g.hbmAt) rs g.code
      let s := setCtx s c { x with graphs := x.graphs.map (fun y => if y.handle = g.handle then { y with code := code } else y) }
      onTiles s (sheafTiles h) (fun _ t => rs.foldl (fun t r => loaderPut (g.codeAt + r.off) ((code.drop r.off).take 8) t) t)
  | _, _ => s

/-- Places a graph's code and tile data segment in every tile of its sheaf that has power. -/
def placeGraph (s : State) (g : Graph) : State :=
  match tabFind s.sheaves g.sheaf with
  | some h => onTiles s (sheafTiles h) (fun _ t => if t.power = .run then loaderPut g.dataAt g.data (loaderPut g.codeAt g.code t) else t)
  | none => s

/-- Applies every record of a context's graphs and places them: what a scrub of its banks makes necessary. -/
def replaceGraphs (s : State) (c : BitVec 8) : State :=
  let s := (((ctxOf s c).map (·.graphs)).getD []).foldl (fun s g => patchGraph s c g g.relocs) s
  (((ctxOf s c).map (·.graphs)).getD []).foldl placeGraph s

/-- The LAYER_FMT records of a layer are applied again in every loaded graph (R97). -/
def patchLayer (s : State) (c : BitVec 8) (l : Nat) : State :=
  match ctxOf s c with
  | none => s
  | some x => x.graphs.foldl (fun s g => patchGraph s c g (g.relocs.filter (fun r => r.type == 8 && r.addend == (l : Int)))) s

/-- All records of the graphs of a sheaf are applied again once it has changed position. -/
def patchSheaf (s : State) (c : BitVec 8) (sheaf : Nat) : State :=
  match ctxOf s c with
  | none => s
  | some x => (x.graphs.filter (fun g => g.sheaf == sheaf)).foldl (fun s g => patchGraph s c g g.relocs) s

end Sys2Proof.Machine
end

