-- ==== Sys2Proof/Machine/Norm.lean ====
section
/-! DEFINITION. The norm pass with its verdicts (R319 to R321), exponent tables received (R323), the step boundary (R172, R173,
R179) and escalation requests (R177, R178). -/
namespace Sys2Proof.Machine

/-! ### Verdicts (R172, R319) -/

/-- emax of the format of a layer's input gradients at a rung: CFMT, GE5. -/
def gradEmax (cfmt : Nat) (ge5 : Bool) : Int := if cfmt = 7 then 2 else if cfmt = 3 then (if ge5 then 15 else 8) else 127
/-- emax of the target format of a gradient tensor: weight gradients are FP32, input gradients in the layer's gradient format.
DESIGN CHOICE, log entry 49. -/
def tensorEmax (s : State) (x : Ctx) (l : Nat) (weight : Bool) : Int :=
  if weight then 127 else gradEmax (layerCfmt s x l) (bitOf (layerFmt s x l) 9)

def clamp8 (i : Int) : Int := max (-128) (min 127 i)
def verdictNone : VRec := ⟨false, false, 127⟩
def verdictOr (a b : VRec) : VRec := ⟨a.ovf || b.ovf, a.under || b.under, min a.head b.head⟩

/-- The record of a tensor in the health window, where it is of the step. -/
def healthOf (s : State) (x : Ctx) (tid : Nat) (step : W32) : Option HRec :=
  (tidIndex s x tid).bind (fun i =>
    let v := viewRead s x (windowAt (healthW s x) i step) 32
    if v ≠ 0 ∧ bits v 255 224 = step.toNat then some (HRec.of v) else none)

/-- The gradient tensors of a layer among those of the health directory, each with whether it is a weight gradient: the manual gives no
map from TIDs to layers. DESIGN CHOICE, log entry 49. -/
def layerGrads (s : State) (c : BitVec 8) (x : Ctx) (l : Nat) : List (Nat × Bool) :=
  (List.range (viewRead s x cbHwNt 2)).filterMap (fun i =>
    let tid := viewRead s x (atTids + 4 * i) 4
    ((Config.tensorOf c.toNat tid).bind (·.grad)).bind (fun w => if tidLayer c x tid = some l then some (tid, w) else none))

/-- The local verdict of a layer. -/
def localVerdict (s : State) (c : BitVec 8) (x : Ctx) (step : W32) (l : Nat) : VRec :=
  let recs := (layerGrads s c x l).filterMap (fun t => (healthOf s x t.1 step).map (fun r => (t.2, r)))
  let v := recs.foldl (fun v p => let r := p.2; verdictOr v
    ⟨r.sats != 0 || r.nonfin != 0, decide (r.uflows * 1024 > r.total), clamp8 (tensorEmax s x l p.1 - ((r.maxexp : Int) - 32768))⟩) verdictNone
  { v with ovf := v.ovf || x.win.overs.contains (step, l) }
def localVerdicts (s : State) (c : BitVec 8) (x : Ctx) (pl : Plan) (step : W32) : List VRec :=
  (List.range pl.nlayv).map (localVerdict s c x step)

/-! ### The pass (R319 to R321) -/

/-- Does a rank contribute to a bucket? -/
def contributes (pl : Plan) (b : PlanBucket) (r : Nat) : Bool := (List.range (chunkCount b)).any (fun c => contrib pl b r c != .none)

/-- Does the home Saddle die hold all it needs to take part? -/
def normReady (s : State) (c : BitVec 8) (x : Ctx) (pl : Plan) (step : W32) : Bool :=
  let clip := clipOf s c step
  let parts := ((normOf x step).map (·.partials)).getD []
  normRuns s x pl step && pl.buckets.zipIdx.all (fun e =>
    (e.1.owner != pl.myRank || clip == 0 || (tabFind parts e.2).isSome) &&
      (!contributes pl e.1 pl.myRank || committed x.win (orderIx pl step e.2)))

/-- t: the sum of this rank's partials in increasing bucket, each addition rounded. -/
def rankTotal (x : Ctx) (pl : Plan) (step : W32) : Nat :=
  let parts := ((normOf x step).map (·.partials)).getD []
  roundF fmtFP64 .rne (((ownedBuckets pl).map (fun p => decodeF fmtFP64 (tabGet parts p.1 0))).foldl d64add FVal.zero)

/-- A verdict record of 2 bytes (R320). -/
def vrecBytes (v : VRec) : List Byte := [BitVec.ofNat 8 (flagBit v.ovf 0 + flagBit v.under 1), BitVec.ofInt 8 v.head]
def vrecOf (w : Nat) : VRec := ⟨bitOf w 0, bitOf w 1, sextN (bits w 15 8) 8⟩

/-- The lines of a NORM or CLIP: the control record, then the verdict records. -/
def normLines (kind src total : Nat) (v : List VRec) : List Line :=
  ctrlLine kind 0 src (v.length + 2 ^ 64 * total) :: linesOf (v.flatMap vrecBytes)
/-- Total and verdicts of a body. -/
def normBody (l : List Line) : Nat × List VRec :=
  let body := ctlBody ((l[0]?).getD 0)
  let v := leNat (payloadBytes (l.drop 1))
  (bits body 127 64, (List.range (bits body 15 0)).map (fun i => vrecOf (elemAt v 16 i)))

/-- Sends the body to a rank, on port die index 0. -/
def sendNorm (s : State) (c : BitVec 8) (pl : Plan) (dst kind : Nat) (step : W32) (r : Nat × List VRec) : State :=
  ctrlFrame s c dst step 0 0 winnowTid (normLines kind pl.myRank r.1 r.2)

/-- Is an FP64 value finite? -/
def fin64 (t : Nat) : Bool := bits t 62 52 != 2047

/-- k of R282, as FP32. -/
def clipFactor (clipc t2 : Nat) : Nat :=
  let root := roundF fmtFP64 .rne (d64sqrt (decodeF fmtFP64 t2))
  if clipc = 0 then one32
  else match decodeF fmtFP64 root, f32 clipc with
    | .fin r, .fin c => if !dyAbove r c.m c.e then one32 else rne32 (rne64 (.fin (dyDiv c r)))
    | _, _ => 0

/-- This rank takes T2 and the verdicts (R321): the clip factor, and the publications that waited for the verdicts. -/
def takeT2 (s : State) (c : BitVec 8) (step : W32) (r : Nat × List VRec) : State :=
  let s := latchClip s c step
  match ctxOf s c with
  | none => s
  | some x =>
    let fin := fin64 r.1
    let clip := clipOf s c step
    let k := clipFactor clip r.1
    let again := ((normOf x step).bind (·.result)).isSome
    let x := updNorm x step (fun n => { n with result := some r })
    let s := setCtx s c { x with clip := x.clip.map (fun l => if l.step = step ∧ l.factor.isNone then { l with factor := some (w32 k, fin) } else l) }
    let s := if fin ∨ again then s else logAt s 0x1406 2 (homeSaddle x) (some c) (some step) step.toNat
    publishWaiting s c step

/-- Combines a running total with this rank's. -/
def normCombine (s : State) (c : BitVec 8) (x : Ctx) (pl : Plan) (step : W32) (b : Nat × List VRec) : Nat × List VRec :=
  (roundF fmtFP64 .rne (d64add (decodeF fmtFP64 b.1) (decodeF fmtFP64 (rankTotal x pl step))),
    (b.2.zip (localVerdicts s c x pl step)).map (fun p => verdictOr p.1 p.2))

/-- What this rank sends once it takes part: rank 0 at once, another once the body has come. The last rank holds T2. -/
def normGo (s : State) (c : BitVec 8) (step : W32) : State :=
  match ctxOf s c with
  | none => s
  | some x =>
    match x.win.plan, normOf x step with
    | some pl, some n =>
      if !n.started ∨ n.sent then s
      else
        let out := if pl.myRank = 0 then some (rankTotal x pl step, localVerdicts s c x pl step) else n.body.map (normCombine s c x pl step)
        match out with
        | none => s
        | some r =>
          let s := setCtx s c (updNorm x step (fun n => { n with sent := true }))
          let last := pl.ranks.length - 1
          if pl.myRank ≠ last then sendNorm s c pl (pl.myRank + 1) 5 step r
          else
            let s := if last = 0 then s else sendNorm s c pl 0 6 step r
            takeT2 s c step r
    | _, _ => s

/-- NORM_PASS_START: the home Saddle die holds everything and joins. -/
def normStart (s : State) (c : BitVec 8) (step : W32) : State :=
  match (ctxOf s c).bind (·.win.plan) with
  | none => s
  | some pl =>
    let s' := latchClip s c step
    match ctxOf s' c with
    | none => s
    | some x =>
      if beforeReplay x ∨ ((normOf x step).map (·.started)).getD false ∨ !normReady s' c x pl step then s
      else normGo (setCtx s' c (updNorm x step (fun n => { n with started := true }))) c step

/-- The context, plan, step and body of a NORM or CLIP. -/
def normFrame (s : State) (f : RawFrame) : Option (Ctx × Plan) := (ctxOf s (hCtx f.hdr)).bind (fun x => x.win.plan.map (fun pl => (x, pl)))

/-- NORM: kept until this rank takes part, then combined and sent on. -/
def normFrameIn (s : State) (p : Nat) : State :=
  match takeCtrl s p 5 with
  | none => s
  | some (f, _, s) =>
    match normFrame s f with
    | none => s
    | some (x, _) =>
      let step := hStep f.hdr
      normGo (setCtx s (hCtx f.hdr) (updNorm x step (fun n => { n with body := some (normBody f.payload) }))) (hCtx f.hdr) step

/-- CLIP: T2 and the final verdicts, forwarded as far as rank NRANK − 2. -/
def clipFrameIn (s : State) (p : Nat) : State :=
  match takeCtrl s p 6 with
  | none => s
  | some (f, _, s) =>
    match normFrame s f with
    | none => s
    | some (_, pl) =>
      let r := normBody f.payload
      let step := hStep f.hdr
      let s := if pl.myRank + 2 < pl.ranks.length then sendNorm s (hCtx f.hdr) pl (pl.myRank + 1) 6 step r else s
      takeT2 s (hCtx f.hdr) step r

/-! ### Exponent tables (R323) -/

/-- EXPONENT_TABLE: the oldest PAR frame of a port die continues a bucket's table; the last one is acknowledged. -/
def expTableIn (s : State) (p : Nat) : State :=
  match (linkOf s p).par with
  | [] => s
  | f :: rest =>
    let s := freeLines (updLink s p (fun l => { l with par := rest })) p f
    match frameBucket s f with
    | none => s
    | some (x, pl, e) =>
      let c := hCtx f.hdr
      let step := hStep f.hdr
      let b := hBucket f.hdr
      let done := ((x.win.expRx.find? (fun r => r.1 == b && r.2.1 == step)).map (·.2.2)).getD 0
      let s := viewWrite s x (expOffset pl b step + done) ((payloadBytes f.payload).take (e.nblk - done))
      let last := hLast f.hdr
      let rx := x.win.expRx.filter (fun r => !(r.1 == b && r.2.1 == step))
      let s := updCtx s c (fun x => { x with win := { x.win with
        expRx := if last then rx else (b, step, min e.nblk (done + 64 * f.payload.length)) :: rx } })
      if last then sendCtrl s c e.owner 7 (step - 1) b 0 winnowTid 0 0 else s

/-- EXPT_ACK: the owner notes the rank; once every rank has answered, the version is set. -/
def exptAckFrame (s : State) (p : Nat) : State :=
  match takeCtrl s p 7 with
  | none => s
  | some (f, l, s) =>
    let c := hCtx f.hdr
    let b := hBucket f.hdr
    let step := hStep f.hdr
    pubDone (updCtx s c (fun x => { x with win := { x.win with pubs := x.win.pubs.map (fun q =>
      if q.bucket = b ∧ q.step = step then { q with acks := addNew (ctlSrc l) q.acks } else q) } })) c b step

/-! ### Changes of the layer table (R172 to R180, R445) -/

/-- Writes the words of a layer's entry, with the LAYERTAB record of the previous ones. -/
def setLayer (s : State) (c : BitVec 8) (l : Nat) (step : W32) (reg cfmt : Nat) : State :=
  match ctxOf s c with
  | none => s
  | some x =>
    let s := gleanRec s c 3 step 0 0 (l + 2 ^ 16 * layerFmt s x l + 2 ^ 48 * layerCfmt s x l)
    viewPut (viewPut s x (atLayers + 8 * l) 4 reg) x (atLayers + 8 * l + 4) 4 cfmt

/-- A rung as a format of a numerics record: CFMT, ACC in bit 4. -/
def rungCode (cfmt : Nat) (acc : Bool) : Nat := cfmt + flagBit acc 4
def withAcc (reg : Nat) (acc : Bool) : Nat := setBits reg 8 1 (if acc then 1 else 0)
/-- One rung up and one down (R175). -/
def rungUp (cfmt : Nat) : Nat × Bool := if cfmt = 7 then (3, false) else if cfmt = 3 then (1, false) else if cfmt = 1 then (0, false) else (0, true)
def rungDown (cfmt : Nat) (acc : Bool) : Nat := if acc then cfmt else if cfmt = 0 then 1 else if cfmt = 1 then 3 else 7

/-- The changes of s_l that a publication still to come needs: those made after steps that some owned bucket's version has not
reached (R165, R282). -/
def deltasNeeded (x : Ctx) (l : List (W32 × Int)) : List (W32 × Int) :=
  match x.win.plan with
  | some pl => l.filter (fun d => (ownedBuckets pl).any (fun b => !versionReached x b.1 d.1))
  | none => []

/-- The policy's part of a boundary for one layer: s_l, whose change patches the layer's relocations (R97). DEDUCED, log entry 37. -/
def boundaryScale (s : State) (c : BitVec 8) (step : W32) (l : Nat) : State :=
  match ctxOf s c with
  | none => s
  | some x =>
    let p := polOf x l
    let v := verdictOf x step l
    let ch := scaleChange s x l v
    let own := scaleChange s { x with layerPol := tabSet x.layerPol l { p with hostSexp := none } } l v
    let reg := layerFmt s x l
    let now := fmtSexp reg
    let new := now + ch.delta
    let cause := if ch.host then 16 else if (v.map (·.ovf)).getD false then 1 else 8
    let rec_ (kind : Nat) : Nat := NumRec.data ⟨kind, l, step, 3, 0, 0, cause, 0, 0, 0xFFFF, 0, toField now 8, toField new 8⟩ c
    let s := if ch.delta ≠ 0 then patchLayer (setLayer s c l step (setBits reg 16 8 (toField new 8)) (layerCfmt s x l)) c l else s
    let s := if ch.delta ≠ 0 ∨ (ch.host ∧ own.delta ≠ 0) then numLog s c (rec_ 4) else s
    let s := if ch.clamp then numLog s c (rec_ 5) else s
    let ovf := (v.map (·.ovf)).getD true
    let next : LayerPol :=
      ⟨if ch.delta ≠ 0 then 1 else p.sinceScale + 1, if ovf then 0 else p.sinceOver + 1, p.sinceEsc + 1, none
      , (if ch.delta ≠ 0 then [(step, ch.delta)] else []) ++ deltasNeeded x p.deltas⟩
    updCtx s c (fun x => { x with layerPol := tabSet x.layerPol l next })

/-- Narrowing of one layer at a boundary. -/
def boundaryNarrow (s : State) (c : BitVec 8) (step : W32) (l : Nat) : State :=
  match ctxOf s c with
  | none => s
  | some x =>
    let p := polOf x l
    let reg := layerFmt s x l
    let cf := layerCfmt s x l
    let acc := fmtAcc reg
    let down := rungDown cf acc
    let wider := acc || cf != bits reg 27 24
    let head := (verdictOf x step l).map (fun v => v.head - (gradEmax cf (bitOf reg 9) - gradEmax down (bitOf reg 9)))
    if bitOf reg 10 ∧ wider ∧ p.sinceOver ≥ 1024 ∧ p.sinceEsc > 1024 ∧ (head.map (fun h => decide (h ≥ 4))).getD false then
      let s := setLayer s c l step (withAcc reg false) down
      let s := patchLayer s c l
      numLog s c (NumRec.data ⟨3, l, step, 3, rungCode cf acc, rungCode down false, 0, 0, 0, 0xFFFF, 0, 0, 0⟩ c)
    else s

/-- Has the step ended on this rank: every instance of it done, no repeat of its tasks queued or loaded, and no escalation
request unread (R180)? -/
def stepEnded (s : State) (c : BitVec 8) (x : Ctx) (step : W32) : Bool :=
  let mine (d : TaskDesc) : Bool := d.ctx == c && d.step == step
  (unfinished x).all (fun b => decide (b.count ≤ (step - b.first).toNat ∨ (step - b.first).toNat < b.done)) &&
    viewRead s x cbEsRd 4 == viewRead s x cbEsWr 4 &&
    (ctxTiles s c).all (fun i => let t := tileOf s i
      t.replay.all (fun d => !mine d) && t.slots.all (fun p => !mine p.2.task))

/-- The notice of the wrapped step counter, at the boundary before step 0 (R161). -/
def wrapNotice (s : State) (c : BitVec 8) (step : W32) : State :=
  if step + 1 = 0 then { s with notices := s.notices ++ [.stepWrap c] } else s

/-- STEP_BOUNDARY: the step's anomalies, which the home steward sees to (R413), and the changes after it, once its verdicts are known and
it has ended (R180). -/
def stepBoundary (s : State) (c : BitVec 8) (step : W32) : State :=
  match ctxOf s c with
  | none => s
  | some x =>
    let known := match x.win.plan with
      | some pl => verdictsIn s x pl step
      | none => true
    if boundaryPassed x step ∨ x.reset.isSome ∨ !known ∨ !stepEnded s c x step ∨ !stewardServes s (homeSteward c) then s
    else
      let s := testHealth (wrapNotice s c step) c step
      let s := x.layers.foldl (fun s l => boundaryNarrow (boundaryScale s c step l) c step l) s
      let s := updCtx s c (fun x => { x with
        boundaryDone := some step
        win := { x.win with overs := x.win.overs.filter (fun o => decide ((o.1 - step).toNat < 2 ^ 31 ∧ o.1 ≠ step)) } })
      emitParts (publishWaiting s c step) c

/-! ### Members of a set of tasks that run again (R177, R448) -/

/-- The CTID tokens that a task of an instance waits for and that the rank's commits have posted already (R312). -/
def tokensGone (x : Ctx) (h : Head) : Nat :=
  match x.win.plan with
  | none => 0
  | some pl =>
    let step := instStep h.sub h.inst
    ((pl.buckets.zipIdx).map (fun e =>
      if stepTid (BitVec.ofNat 20 e.1.ctid) step = stepTid h.task.tid step ∧ committed x.win (orderIx pl step e.2) then
        ((convTasks x pl e.1).filter (fun v => v.2.2.tile == h.task.tile)).length
      else 0)).sum

/-- The edges that target a task, each with its source and kind, as (source, instance of the source, DATA). -/
def edgesInto (h : Head) : List (Nat × Nat × Bool) :=
  (h.graph.tasks.zipIdx).flatMap (fun u => (u.1.edges.filter (fun e => e.target == h.idx && (!e.delta || h.inst != 0))).map (fun e =>
    (u.2, (if e.delta then h.inst - 1 else h.inst), e.data)))

/-- The counter of a member: TOKEN edges of members, and the packet and posted tokens where their producers are members, or
are none of the graph's edges and have still to come. -/
def memberTokens (x : Ctx) (h : Head) (members : List (Nat × Nat × Nat)) : Nat :=
  let es := edgesInto h
  let is (e : Nat × Nat × Bool) : Bool := members.contains (h.sub.no, e.2.1, e.1)
  let tok := es.filter (fun e => !e.2.2)
  let dat := es.filter (fun e => e.2.2)
  let rest := startTokens h - tok.length
  (tok.filter is).length + (if dat.isEmpty then rest - tokensGone x h else if dat.any is then rest else 0)

/-- What the dispatcher loads for a member: its TOKEN edges go only to members. -/
def memberDesc (x : Ctx) (c : BitVec 8) (sec : Bool) (h : Head) (members : List (Nat × Nat × Nat)) : TaskDesc :=
  taskDesc c sec h (some members) (memberTokens x h members)

/-- A task of an instance, as the walk would reach it. -/
def headOf (x : Ctx) (m : Nat × Nat × Nat) : Option Head :=
  (findSub x m.1).bind (fun b => (findGraph x b.graph).bind (fun g => (g.tasks[m.2.2]?).map (fun t => ⟨b, m.2.1, 0, g, m.2.2, t⟩)))

/-! ### Escalation requests (R177, R178, R180) -/

/-- Queues the tasks of a pass again on their tiles. -/
def resubmitPass (s : State) (c : BitVec 8) (step : W32) (tasks : List (Nat × Nat)) : State :=
  match ctxOf s c with
  | none => s
  | some x =>
    let members := tasks.filterMap (fun t => (runsStep x t.1 step).map (fun b => (b.no, (step - b.first).toNat, t.2)))
    members.foldl (fun s m =>
      match headOf x m with
      | none => s
      | some h =>
        match roleOfCtx (tileOf s h.task.tile) c with
        | none => s
        | some (sec, _) =>
          let d := { memberDesc x c sec h members with silent := true, repass := true, ordered := false }
          let t := tileOf s h.task.tile
          setTile s h.task.tile { t with replay := t.replay ++ [d] }) s

/-- ESCALATION_REQUEST: the oldest request in the slots, whose content is `r`. -/
def escalate (s : State) (c : BitVec 8) (r : EscReq) : State :=
  match ctxOf s c with
  | none => s
  | some x =>
    let rd := viewRead s x cbEsRd 4
    if rd = viewRead s x cbEsWr 4 ∨ beforeReplay x ∨ !stewardAwake s (homeSteward c) ∨ !x.layers.contains r.layer then s
    else
      let s := viewPut s x cbEsRd 4 ((rd + 1) % 2 ^ 32)
      let reg := layerFmt s x r.layer
      let cf := layerCfmt s x r.layer
      let acc := fmtAcc reg
      let log (s : State) (kind new : Nat) : State :=
        numLog s c (NumRec.data ⟨kind, r.layer, r.step, r.pass, rungCode cf acc, new, r.cause % 8, r.micro, 0, r.tile, 0, 0, 0⟩ c)
      if r.fmt = cf ∧ r.acc = acc then
        if cf = 0 ∧ acc then log s 2 (rungCode cf acc)
        else
          let up := rungUp cf
          let s := setLayer s c r.layer r.step (withAcc reg up.2) up.1
          let s := updCtx s c (fun x => { x with layerPol := tabSet x.layerPol r.layer { polOf x r.layer with sinceEsc := 0 } })
          let s := resubmitPass (patchLayer s c r.layer) c r.step r.tasks
          log s 1 (rungCode up.1 up.2)
      else resubmitPass s c r.step r.tasks

/-- NORM_PASS_START (R319). -/
def execNormPassStart (ctx : BitVec 8) (step : W32) (s : State) : Host.Outcome State Fault Refusal :=
  .next (normStart s ctx step)

/-- NORM (R320). -/
def execNorm (port : Nat) (s : State) : Host.Outcome State Fault Refusal :=
  .next (normFrameIn s port)

/-- CLIP (R320). -/
def execClip (port : Nat) (s : State) : Host.Outcome State Fault Refusal :=
  .next (clipFrameIn s port)

/-- EXPONENT_TABLE (R323). -/
def execExponentTable (port : Nat) (s : State) : Host.Outcome State Fault Refusal :=
  .next (expTableIn s port)

/-- EXPT_ACK (R323). -/
def execExptAck (port : Nat) (s : State) : Host.Outcome State Fault Refusal :=
  .next (exptAckFrame s port)

/-- STEP_BOUNDARY (R180). -/
def execStepBoundary (ctx : BitVec 8) (step : W32) (s : State) : Host.Outcome State Fault Refusal :=
  .next (stepBoundary s ctx step)

/-- ESCALATION_REQUEST (R177). -/
def execEscalationRequest (ctx : BitVec 8) (r : EscReq) (s : State) : Host.Outcome State Fault Refusal :=
  .next (escalate s ctx r)

end Sys2Proof.Machine
end

