-- ==== Sys2Proof/Machine/Spur.lean ====
section
/-! DEFINITION. The spurs (R345 to R370): training, failure, link control records, reception and transit of frames, attachment
and detachment, stream credits, and the notices between engines (R451, R455, R457, R480). -/
namespace Sys2Proof.Machine

/-! ### Training and failure (R346, R347, R441) -/

def spurPorts (j : Nat) : List Nat := (List.range 8).map (fun i => 8 * j + i)
/-- Port die links run: main power on, link training reached, spurs enabled. -/
def linksOn (s : State) : Bool := s.module.pgMain && decide (3 ≤ s.cairn.engState ∧ s.cairn.engState ≤ 6) && s.straps.spur

/-- The state of a spur that is not in service follows its links: Up once all are trained, Training with a signal on one. -/
def spurFollow (s : State) (j : Nat) : State :=
  let st := (spurOf s j).st
  let tr (q : LinkTrain → Bool) : List Nat := (spurPorts j).filter (fun p => q (linkOf s p).train)
  if st = spurAttached ∨ st = spurDetaching ∨ st = spurUp then s
  else if (tr (· == .trained)).length = 8 then setSpurSt s j spurUp
  else if st = spurFailed then s
  else setSpurSt s j (if (tr (· != .down)).isEmpty then spurDown else spurTraining)

/-- LINK_RX_SIGNAL_DETECT. -/
def signalDetect (s : State) (p : Nat) : State :=
  if linksOn s && (linkOf s p).train == .down && decide (p < 64) then
    spurFollow (updLink s p (fun l => { l with train := .training })) (p / 8)
  else s

/-- LINK_TRAINED. -/
def linkTrained (s : State) (p : Nat) : State :=
  if linksOn s && (linkOf s p).train == .training then
    spurFollow (updLink s p (fun l => { l with train := .trained })) (p / 8)
  else s

/-- A link with nothing in flight: stores, pools and the streams that use the spur start anew, full pools granted. -/
def freshLink (l : PortLink) : PortLink :=
  { l with txLast := 0xFFFF, replay := [], rxLast := 0xFFFF, nak := false, sent := [], peerFreed := [], freed := [], outq := []
           transitBad := false, grd := [], vlines := [], urg := [], par := [], eng := [], tx := [], rx := [] }

/-- A frame that keeps its place after its link has started anew: it holds no line of the fresh pools. -/
def unpooled (f : RawFrame) : RawFrame := { f with lw := mkLw (lwKind f.lw) (lwSq f.lw) 7 (lwLseq f.lw) }

/-- A link that starts anew with the frames it has accepted still to be taken (R366): their lines count in no fresh pool. -/
def detachedLink (l : PortLink) : PortLink :=
  { freshLink l with grd := l.grd.map unpooled, vlines := l.vlines, urg := l.urg.map unpooled, par := l.par.map unpooled
                     eng := l.eng.map unpooled }

/-- Every link of a spur starts anew, keeping what has been accepted. -/
def restartLinks (s : State) (j : Nat) : State :=
  (spurPorts j).foldl (fun s p =>
    let w := swathOf s p
    let s := if w.fromSpur.isEmpty then s else setSwath s p { w with fromSpur := w.fromSpur.map (fun f => { f with lent := false }) }
    updLink s p detachedLink) s

/-- A spur in service goes Failed on the word of one of its links: everything in flight is dropped, the links train again, and
every context that uses the spur is quiesced. -/
def failSpur (s : State) (p : Nat) : State :=
  let j := p / 8
  let st := spurState s j
  if st ≠ spurUp ∧ st ≠ spurAttached ∧ st ≠ spurDetaching then s
  else
    let lent := ((spurPorts j).map (fun q => ((List.range 6).map (fun k => poolLines k - credits (linkOf s q) k)).sum)).sum
    let s := logAt s 0x0403 7 j none none (j + (p % 8) * 8)
    let s := setSpurSt s j spurFailed
    let s := (spurPorts j).foldl (fun s q =>
      setSwath (updLink s q (fun l => { freshLink l with train := .training })) q { swathOf s q with fromSpur := [] }) s
    let s := if st = spurAttached then leaseLog s none 6 lent else s
    (spurCtxs s j).foldl (fun s c => quiesce s c (.spur j)) s

/-- LINK_LOSS_OF_LOCK. -/
def lossOfLock (s : State) (p : Nat) : State :=
  if (linkOf s p).train ≠ .trained then s
  else failSpur (updLink s p (fun l => { l with train := .training })) p

/-- LINK_CONTROL_SILENCE_TIMEOUT. -/
def controlSilence (s : State) (p : Nat) : State := if (linkOf s p).train = .trained then failSpur s p else s

/-! ### Link control (R354, R355, R363) -/

/-- The HELLO of a port die, as the number at bytes [47:16] of a record. -/
def helloWord (s : State) (p : Nat) : Nat :=
  (engineId s).toNat + 2 ^ 24 * (p / 8 + p % 8 * 8) + 2 ^ 32 * spurState s (p / 8) + 2 ^ 64 * s.shadow.serial.toNat

/-- The link control record of a port die. -/
def controlRec (s : State) (p : Nat) : Line :=
  let l := linkOf s p
  let v := flagBit l.nak 40 + 2 ^ 48 * l.rxLast + 2 ^ 128 * helloWord s p
    + ((List.range 6).map (fun k => tabGet l.freed k 0 * 2 ^ (384 + 16 * k))).sum
  BitVec.ofNat 512 (v + 2 ^ 480 * crc32c (toBytes 60 v))

/-- LINK_CONTROL_TIMER: the port die sends its record; a NAK condition is told once. DEDUCED, log entry 36. -/
def sendControl (s : State) (p : Nat) : State :=
  if (linkOf s p).train ≠ .trained then s
  else updLink s p (fun l => { l with ctl := l.ctl ++ [(mkLw 1 false 0 0, controlRec s p)], nak := false })

/-- Every unacknowledged frame is sent again, in LSEQ order. DEDUCED, log entry 36. -/
def replayFrames (l : PortLink) : PortLink := { l with sentFrames := l.sentFrames ++ l.replay }

/-- HOP_REPLAY_TIMEOUT. -/
def hopReplay (s : State) (p : Nat) : State :=
  let st := spurState s (p / 8)
  if st = spurAttached ∨ st = spurDetaching then updLink s p replayFrames else s

/-- The frames that an ACKSEQ leaves unacknowledged. -/
def afterAck (ack : Nat) (l : List RawFrame) : List RawFrame :=
  match l.findIdx? (fun f => lwLseq f.lw == ack) with
  | some i => l.drop (i + 1)
  | none => l

/-- A spur in a commanded detach whose replay stores are empty is Up again. -/
def detachDone (s : State) (j : Nat) : State :=
  if (spurOf s j).st = spurDetaching ∧ (spurPorts j).all (fun p => (linkOf s p).replay.isEmpty) then
    let s := (spurPorts j).foldl (fun s p => (linkOf s p).outq.foldl (fun s f => dropFrame s p f) s) s
    setSpurSt (restartLinks s j) j spurUp
  else s

/-- Begins a commanded detach (R366). -/
def beginDetach (s : State) (j : Nat) : State :=
  if (spurOf s j).st = spurAttached then detachDone (setSpurSt s j spurDetaching) j else s

/-- SPUR_DETACH_DRAIN_TIMEOUT: what remains is dropped, each frame logged. -/
def detachTimeout (s : State) (j : Nat) : State :=
  if (spurOf s j).st ≠ spurDetaching then s
  else
    let s := (spurPorts j).foldl (fun s p =>
      updLink ((linkOf s p).replay.foldl (fun s f => dropFrame s p f) s) p (fun l => { l with replay := [] })) s
    detachDone s j

/-- The neighbour that a HELLO of index 0 names. -/
def takeHello (s : State) (j v : Nat) : State :=
  let x := spurOf s j
  let y := { x with nbr := BitVec.ofNat 24 v, nbrSpur := bits v 26 24, nbrState := bits v 39 32, nbrSerial := BitVec.ofNat 64 (v / 2 ^ 64) }
  let s' := { s with spurs := tabSet s.spurs j y }
  if y.nbr = x.nbr ∧ y.nbrSpur = x.nbrSpur then s' else setEvt s' evtSpur

/-- LINK_CONTROL_RECORD: HELLO, then, on a spur in service, credits before the acknowledgement and the replay. -/
def controlRecord (s : State) (p : Nat) (lw : BitVec 64) (r : Line) : State :=
  let v := r.toNat
  let j := p / 8
  if (linkOf s p).train ≠ .trained then s
  else if !lwOk lw ∨ lwKind lw ≠ 1 then logAt s 0x1201 3 p none none 0
  else if byteField v 63 60 ≠ crc32c (toBytes 60 v) then s
  else
    let s := if p % 8 = 0 then takeHello s j (byteField v 47 16) else s
    let st := spurState s j
    if st ≠ spurAttached ∧ st ≠ spurDetaching then s
    else
      let s := updLink s p (fun l =>
        let l := { l with peerFreed := (List.range 6).foldl (fun t k => tabSet t k (bits v (399 + 16 * k) (384 + 16 * k))) l.peerFreed
                          replay := afterAck (byteField v 7 6) l.replay }
        if bitOf v 40 then replayFrames l else l)
      detachDone (pumpPort s p) j

/-! ### Attachment (R365, R441) -/

/-- The contexts that a spur's failure holds, and those that wait for its repair, take a partition reset with cause 7. -/
def spurBack (s : State) (j : Nat) : State :=
  (ctxNames s).foldl (fun s c =>
    match ctxOf s c with
    | none => s
    | some x =>
      if x.quiesced.contains (.spur j) ∨ x.waiting.contains (.spur j) then
        let s := setCtx s c { x with waiting := x.waiting.filter (· != .spur j), quiesced := addNew (.spur j) x.quiesced }
        partitionReset s c 7 none none
      else s) s

/-- RECOVER of a warden restart leaves once a spur toward a peer is Attached (R465). -/
def recoverOnAttach (s : State) : State :=
  (ctxNames s).foldl (fun s c =>
    match (ctxOf s c).bind (·.reset) with
    | some r => if r.cause = 6 then sendNotices s c r.origin r.rno ((ctxOf s c).map oldestStep |>.getD 0) 1 else s
    | none => s) s

/-- SPUR_ATTACH: both ends meet the conditions. -/
def spurAttach (s : State) (j : Nat) : State :=
  match spurEntry s j with
  | none => s
  | some e =>
    let x := spurOf s j
    if spurState s j ≠ spurUp ∨ !e.enable ∨ s.cairn.engIdHi = 0 ∨ x.nbr.toNat / 16 = 0 then s
    else if x.nbr ≠ e.id ∨ x.nbrSpur ≠ e.spur then logAt s 0x1204 7 j none none (2 ^ 32 * x.nbr.toNat)
    else
      let s := setSpurSt s j spurAttached
      let s := restartLinks s j
      let s := (ctxNames s).foldl (fun s c => ((bindsOf s c).filter (fun b => b.port / 8 == j)).foldl (fun s b =>
        updLink s b.port (fun l => { l with fillCred := tabSet l.fillCred b.entry 1 })) s) s
      recoverOnAttach (spurBack s j)

/-! ### Reception (R352, R355 to R360, R367) -/

/-- The header checks of R352. -/
def hdrMalformed (f : RawFrame) : Bool :=
  (lwKind f.lw == 0 && !([0, 4, 5, 8, 9, 0xD] : List Nat).contains (hCls f.hdr)) || decide (hFmt f.hdr = 0xE ∨ hFmt f.hdr = 0xF)
    || decide (hNline f.hdr > 256) || hdrRsv f.hdr

/-- A malformed frame: logged; a sequenced one is bad. -/
def frameMalformed (s : State) (p : Nat) (f : RawFrame) : State :=
  let s := logAt s 0x1201 3 p none none (2 ^ 32 * (hSrc f.hdr).toNat)
  if lwSq f.lw then updLink s p (fun l => { l with nak := true }) else if lwOk f.lw && decide (lwPool f.lw < 6) then freeLines s p f else s

/-- The parts of a frame's verdict: everything but HOPBAD, and HOPBAD. DEDUCED, log entry 36. -/
def frameFault (f : RawFrame) (fecBad : Bool) : Bool :=
  fecBad || !hcrcOk f.hdr || !fcrcOk f.hdr f.payload f.trailer || f.payload.length != hNline f.hdr || trVerdict f.trailer != 0 && trVerdict f.trailer != 2
    || hPsn f.hdr
def hopBad (f : RawFrame) : Bool := trVerdict f.trailer == 2

/-- The order of a frame in its stream (R359): the next expected, a duplicate, or beyond a gap. -/
inductive SeqAt where
  | next | old | gap
deriving DecidableEq, Repr

def rxKey (f : RawFrame) (p : Nat) : StreamKey := ⟨hSrc f.hdr, hDst f.hdr, hCtx f.hdr, hCls f.hdr + 16 * hEpoch f.hdr, p⟩
def seqAt (s : State) (p : Nat) (f : RawFrame) : SeqAt :=
  let e := seqNow (linkOf s p).rx (rxKey f p)
  let d := (2 ^ 32 + hSeq f.hdr - e) % 2 ^ 32
  if d = 0 then .next else if d < 2 ^ 31 then .gap else .old

/-- Delivery in stream order: duplicates are dropped, a gap is logged. -/
def inOrder (s : State) (p : Nat) (f : RawFrame) (deliver : State → State) : State :=
  match seqAt s p f with
  | .next => deliver (updLink s p (fun l => { l with rx := seqSet l.rx (rxKey f p) ((hSeq f.hdr + 1) % 2 ^ 32) }))
  | .old => freeLines s p f
  | .gap => freeLines (logAt s 0x1202 3 p none none (2 ^ 32 * (hSrc f.hdr).toNat)) p f

/-- The kernels that a context holds, placed by its peer table and by its bucket plan (R297, R369). -/
def ctxKernels (x : Ctx) : List KernelTask := ((x.peers.map (·.kernel)).getD []) ++ ((x.win.plan.map (·.kernel)).getD [])
/-- Does the context hold a kernel (R367)? -/
def hasKernel (s : State) (c : BitVec 8) : Bool := ((ctxOf s c).map (fun x => !(ctxKernels x).isEmpty)).getD false

/-- What a frame ending here meets before it may be delivered (R367): none where it may. -/
def endCheck (s : State) (p : Nat) (f : RawFrame) : Option State :=
  let c := hCtx f.hdr
  let iso : State := logAt s 0x1001 3 p (some c) none (3 * 2 ^ 32)
  match ctxOf s c with
  | none => some iso
  | some x =>
    if (spurOf s (p / 8)).owner ≠ some c ∨ (peerOf x (hSrc f.hdr)).isNone ∨ !hasKernel s c then some iso
    else if hEpoch f.hdr ≠ epochNow s c then some (staleAtPort s p c)
    else none

/-- The block table entry that a fill frame of a spur goes to (R370). DEDUCED, log entry 19. -/
def fillEntry (s : State) (p : Nat) (f : RawFrame) : Option Nat :=
  ((swathOf s p).table.find? (fun e => e.2.src == 0x80 && e.2.ctx == hCtx f.hdr && e.2.tid.toNat == hTid f.hdr)).map (·.1)

/-- A good frame is released into the engine: fills to the swath controller, Winnow's control frames and tables to the kernel's
inboxes, any other to the kernel, whose protocol is not part of the interface. -/
def releaseFrame (s : State) (p : Nat) (f : RawFrame) : State :=
  let kt := kernelTid (hTid f.hdr)
  match (if hCls f.hdr = 4 then fillEntry s p f else none) with
  | some e =>
    let w := swathOf s p
    let lines := f.payload.zipIdx.map (fun l => (⟨e, hChunk f.hdr + l.2, l.1, hPsn f.hdr, false, hStep f.hdr, decide (lwPool f.lw < 6)⟩ : FillLine))
    let s := setSwath s p { w with fromSpur := w.fromSpur ++ lines }
    -- The header's credit returns at once, a line's when the line is taken.
    updLink s p (fun l => { l with freed := tabSet l.freed (lwPool f.lw) ((tabGet l.freed (lwPool f.lw) 0 + 1) % 2 ^ 16) })
  | none =>
    if hCls f.hdr = 0 ∧ kt then
      let k := ctlKind ((f.payload[0]?).getD 0)
      if 1 ≤ k ∧ k ≤ 7 then updLink s p (fun l => { l with urg := l.urg ++ [f] })
      else freeLines (logAt s 0x1201 3 p (some (hCtx f.hdr)) none (2 ^ 32 * (hSrc f.hdr).toNat)) p f
    else if hCls f.hdr = 5 ∧ kt then updLink s p (fun l => { l with par := l.par ++ [f] })
    else freeLines (updLink s p (fun l => { l with kernel := l.kernel ++ [f] })) p f

/-- An engine frame: a stream credit or a notice. -/
def engineFrame (s : State) (p : Nat) (f : RawFrame) : State :=
  let k := byteField ((f.payload[0]?).getD 0).toNat 12 12
  if hNline f.hdr = 0 ∨ (hNline f.hdr = 1 ∧ 1 ≤ k ∧ k ≤ 4) then updLink s p (fun l => { l with eng := l.eng ++ [f] })
  else freeLines (logAt s 0x1201 3 p none none (2 ^ 32 * (hSrc f.hdr).toNat)) p f

/-- Where a transit frame leaves the engine: its spur and pool; none where no route serves (R360). DEDUCED, log entry 36. -/
def transitRoute (s : State) (p : Nat) (f : RawFrame) : Option (Nat × Nat) :=
  (findRoute s (hDst f.hdr)).bind (fun r =>
    if r.spur = p / 8 then none
    else some (r.spur, hopPool s r.spur r (lwKind f.lw == 2) (hCls f.hdr) (lwPool f.lw) (hDst f.hdr)))

/-- A transit frame crosses the mesh as TRN packets, one for each 64 bytes of it, from the first port tile of its shot on its way to the
first one of the other shot that it reaches, 32 hops for each row (R213, R214, R362); a bad one is marked. -/
def transitIn (s : State) (p : Nat) (f : RawFrame) (bad : Bool) : State :=
  match transitRoute s p f with
  | none => freeLines (logAt s 0x1203 3 p none none (2 ^ 32 * (hDst f.hdr).toNat)) p f
  | some (k, pool) =>
    let q := 8 * k + p % 8
    let out : RawFrame := { f with lw := mkLw (lwKind f.lw) (lwSq f.lw) pool 0, trailer := if bad then setHopBad f.trailer else f.trailer }
    let n := (56 + 64 * f.payload.length + 63) / 64
    let col := ((hSrc f.hdr).toNat + (hDst f.hdr).toNat + (hCtx f.hdr).toNat) % 2
    let south := decide (p / 8 < k)
    let src := portTile (gridW s) p
    let dst := portTile (gridW s) q
    let y0 := if south then src.2 else src.2 + 1
    let y1 := if south then dst.2 else dst.2 + 1
    let bytes := frameBytes out
    let s := (List.range n).foldl (fun s i => fromDie s (tileIx (src.1 + col) y0) 5
      { rk := 3, add := false, tok := false, hop := 0, epoch := hEpoch f.hdr, psn := false, cls := 0xC, seq := 0, fmt := 0
        tid := 0, ctx := hCtx f.hdr, span := 0, slot := 0, rsv := 0, line := 0, dstY := y1, dstX := dst.1 + col
        srcY := y0, srcX := src.1 + col
        data := BitVec.ofNat 512 (leNat ((bytes.drop (64 * i)).take 64))
        body := .transit q i n (if i + 1 = n then some out else none) }) s
    freeLines s p f

/-- A frame whose link word and header stand goes on: in transit or to its end. -/
def frameGoes (s : State) (p : Nat) (f : RawFrame) (bad : Bool) : State :=
  if hDst f.hdr ≠ engineId s then transitIn s p f bad
  else if lwKind f.lw = 2 then
    (if bad then freeLines s p f else inOrder s p f (fun s => engineFrame s p f))
  else if isWinnowData f.lw f.hdr then
    (match endCheck s p f with
     | some s' => freeLines s' p f
     | none => updLink s p (fun l => { l with grd := l.grd ++ [if bad then { f with trailer := setHopBad f.trailer } else f] }))
  else if bad then freeLines s p f
  else match endCheck s p f with
    | some s' => freeLines s' p f
    | none => inOrder s p f (fun s => releaseFrame s p f)

/-- The verdict of a frame and, for a sequenced one, its place on the hop; a bad frame is counted (R434). -/
def frameVerdict (s : State) (p : Nat) (f : RawFrame) (fecBad : Bool) : State :=
  let fault := frameFault f fecBad
  let s := if fault ∨ hopBad f then ceAdd (logAt s 0x1205 3 p none none (2 ^ 32 * (hSrc f.hdr).toNat)) 7 else s
  if !lwSq f.lw then (if hcrcOk f.hdr then frameGoes s p f (fault || hopBad f) else freeLines s p f)
  else if fault then
    let s := updLink s p (fun l => { l with nak := true })
    -- Transit is cut-through: the bad frame has gone on, marked, and its replay follows.
    if hcrcOk f.hdr ∧ hDst f.hdr ≠ engineId s ∧ (transitRoute s p f).isSome then
      updLink (transitIn s p f true) p (fun l => { l with freed := (linkOf s p).freed })
    else s
  else frameGoes (updLink s p (fun l => { l with rxLast := lwLseq f.lw, nak := false })) p f (hopBad f)

/-- SPUR_FRAME_RECEIVE. -/
def frameReceive (s : State) (p : Nat) (f : RawFrame) (fecBad : Bool) : State :=
  let st := spurState s (p / 8)
  if (st ≠ spurAttached ∧ st ≠ spurDetaching) ∨ 64 ≤ p then s
  else if !lwOk f.lw ∨ lwKind f.lw = 1 ∨ lwKind f.lw = 3 ∨ 6 ≤ lwPool f.lw then frameMalformed s p f
  else
    let l := linkOf s p
    let d := (2 ^ 16 + lwLseq f.lw - (l.rxLast + 1)) % 2 ^ 16
    if lwSq f.lw ∧ d ≠ 0 then
      -- A later frame waits for the missing one; an earlier one is a replayed duplicate.
      (if d < 2 ^ 15 then updLink s p (fun l => { l with nak := true }) else s)
    else if hcrcOk f.hdr ∧ hdrMalformed f then frameMalformed s p f
    else frameVerdict s p f fecBad

/-! ### Engine frames (R370, R451) -/

/-- The oldest engine frame of a port die, where it is of a kind (0 for a stream credit): its notice and the state without it. -/
def takeEngine (s : State) (p kind : Nat) : Option (RawFrame × Nat × State) :=
  match (linkOf s p).eng with
  | f :: rest =>
    let v := ((f.payload[0]?).getD 0).toNat
    let k := if hNline f.hdr = 0 then 0 else byteField v 12 12
    if k = kind then some (f, v, freeLines (updLink s p (fun l => { l with eng := rest })) p f) else none
  | [] => none

/-- STREAM_CREDIT: one more credit for the binding that feeds the neighbour's entry of that TID. DEDUCED, log entry 19. -/
def takeCredit (s : State) (p : Nat) : State :=
  match takeEngine s p 0 with
  | none => s
  | some (f, _, s) =>
    let c := hCtx f.hdr
    let is (b : Binding) : Bool := b.port == p && ((tabFind (swathOf s p).table b.entry).map (fun e => e.ctx == c && e.tid.toNat == hTid f.hdr)).getD false
    match (bindsOf s c).find? is with
    | some b => updLink s p (fun l => { l with fillCred := tabMod l.fillCred b.entry 0 (· + 1) })
    | none => s

/-- The contexts whose peer table names an engine and its context. -/
def ctxsNaming (s : State) (e : BitVec 24) (c : BitVec 8) : List (BitVec 8) :=
  (s.ctxs.filter (fun p => ((p.2.peers.map (·.peers)).getD []).any (fun q => q.engine == e && q.ctx == c))).map (fun p => BitVec.ofNat 8 p.1)

/-- The streams toward a context of an engine start anew with its EPOCH (R359). -/
def restartStreams (s : State) (e : BitVec 24) (c : BitVec 8) (ep : Nat) : State :=
  { s with links := tabMap s.links (fun _ l => { l with tx := l.tx.filter (fun k => !(k.1.dst == e && k.1.ctx == c && k.1.cls / 16 == ep)) }) }

/-- A peer's new EPOCH in the tables that name it; the streams toward it start anew with the change (R359, R368). -/
def setPeerEpoch (s : State) (e : BitVec 24) (c : BitVec 8) (ep : Nat) : State :=
  let old := s.ctxs.any (fun p => ((p.2.peers.map (·.peers)).getD []).any (fun q => q.engine == e && q.ctx == c && q.epoch != ep))
  let s := { s with ctxs := tabMap s.ctxs (fun _ x => { x with peers := x.peers.map (fun t =>
    { t with peers := t.peers.map (fun q => if q.engine = e ∧ q.ctx = c then { q with epoch := ep } else q) }) }) }
  if old then restartStreams s e c ep else s

/-- A notice: its sender, origin, RNO, the sender's context and EPOCH, the oldest step. -/
structure PeerNotice where
  sender : BitVec 24
  origin : BitVec 24
  rno : Nat
  ctx : BitVec 8
  epoch : Nat
  oldest : W32
deriving DecidableEq, Repr

def noticeOf (f : RawFrame) (v : Nat) : PeerNotice :=
  ⟨hSrc f.hdr, BitVec.ofNat 24 v, byteField v 5 4, BitVec.ofNat 8 (byteField v 6 6), byteField v 7 7 % 8, BitVec.ofNat 32 (byteField v 11 8)⟩

/-- A notice of a kind: the peer entries are updated; in each context that has not seen (origin, RNO, KIND), `act` follows. -/
def notice (s : State) (p kind : Nat) (act : State → BitVec 8 → PeerNotice → State) : State :=
  match takeEngine s p kind with
  | none => s
  | some (f, v, s) =>
    let n := noticeOf f v
    let cs := ctxsNaming s n.sender n.ctx
    cs.foldl (fun s c =>
      match ctxOf s c with
      | none => s
      | some x =>
        let key := (n.origin.toNat, n.rno, kind)
        if x.resetsSeen.contains key ∨ n.origin = engineId s then s
        else act (setCtx s c { x with resetsSeen := key :: x.resetsSeen }) c n) (setPeerEpoch s n.sender n.ctx n.epoch)

/-- RECOVER: an origin whose spur has been repaired after all is waited for no longer (R441). DEDUCED, log entry 34. -/
def recoverFrame (s : State) (p : Nat) : State :=
  notice s p 1 (fun s c n =>
    partitionReset (updCtx s c (fun x => { x with waiting := x.waiting.filter (· != .peer n.origin) })) c 3 (some (n.origin, n.rno, n.oldest)) none)

/-- OUT_OF_SERVICE. DEDUCED, log entry 34. -/
def outFrame (s : State) (p : Nat) : State := notice s p 2 (fun s c n => quiesce s c (.peer n.origin))

/-- REPAIR_WAIT. -/
def repairFrame (s : State) (p : Nat) : State :=
  notice s p 3 (fun s c n => updCtx s c (fun x => { x with waiting := addNew (.peer n.origin) x.waiting }))

/-- The owned buckets of a context with their versions. -/
def ownedVersions (x : Ctx) : List (Option W32) :=
  match x.win.plan with
  | some pl => (ownedBuckets pl).map (fun b => tabFind x.win.versions b.1)
  | none => []

/-- The rerun of a restored boundary s, or REPLAY_IMPOSSIBLE where a version exceeds it (R480). DEDUCED, log entry 33. -/
def rerun (s : State) (c : BitVec 8) (x : Ctx) (n : PeerNotice) : State :=
  let st := n.oldest - 1
  let vs := ownedVersions x
  if vs.all (· == some st) then partitionReset s c 3 (some (n.origin, n.rno, n.oldest)) (some n.oldest)
  else if vs.any (fun v => (v.map (fun v => decide (0 < (v - st).toNat ∧ (v - st).toNat < 2 ^ 31))).getD false) then
    let s := setCtx s c { x with reset := some ⟨n.rno, 3, n.origin, false, false, [], 0, none, true, none, some n.oldest⟩ }
    replayImpossible s c 3
  else s

/-- RESUME: an origin that went out of service for a mapping brings a replay; any other a rerun from a restored stook. A context
held by several origins goes on with the last of them. DEDUCED, log entry 34. -/
def resumeFrame (s : State) (p : Nat) : State :=
  notice s p 4 (fun s c n =>
    match ctxOf s c with
    | none => s
    | some x =>
      let by_ := QuiesceBy.peer n.origin
      let mapped := x.quiesced.contains by_ && !x.waiting.contains by_
      let x := { x with quiesced := x.quiesced.filter (· != by_), waiting := x.waiting.filter (· != by_) }
      let s := setCtx s c x
      let others := (x.quiesced ++ x.waiting).any (fun q => match q with
        | .peer _ => true
        | _ => false)
      if others ∨ x.reset.isSome ∨ x.quiesced.contains .restore ∨ (unfinished x).isEmpty then s
      else if mapped then partitionReset s c 5 (some (n.origin, n.rno, n.oldest)) none
      else rerun s c x n)

/-- LINK_RX_SIGNAL_DETECT (R346). -/
def execLinkRxSignalDetect (port : Nat) (s : State) : Host.Outcome State Fault Refusal :=
  .next (signalDetect s port)

/-- LINK_TRAINED (R346). -/
def execLinkTrained (port : Nat) (s : State) : Host.Outcome State Fault Refusal :=
  .next (linkTrained s port)

/-- LINK_TRAINING_TIMEOUT (R346): the link stays in Training. -/
def execLinkTrainingTimeout (_ : Nat) (s : State) : Host.Outcome State Fault Refusal :=
  .next s

/-- LINK_LOSS_OF_LOCK (R347). -/
def execLinkLossOfLock (port : Nat) (s : State) : Host.Outcome State Fault Refusal :=
  .next (lossOfLock s port)

/-- LINK_CONTROL_SILENCE_TIMEOUT (R347). -/
def execLinkControlSilenceTimeout (port : Nat) (s : State) : Host.Outcome State Fault Refusal :=
  .next (controlSilence s port)

/-- LINK_CONTROL_RECORD (R354). -/
def execLinkControlRecord (port : Nat) (lw : BitVec 64) (rec_ : Line) (s : State) : Host.Outcome State Fault Refusal :=
  .next (controlRecord s port lw rec_)

/-- LINK_CONTROL_TIMER (R354). -/
def execLinkControlTimer (port : Nat) (s : State) : Host.Outcome State Fault Refusal :=
  .next (sendControl s port)

/-- SPUR_FRAME_RECEIVE (R357). -/
def execSpurFrameReceive (port : Nat) (f : RawFrame) (fecBad : Bool) (s : State) : Host.Outcome State Fault Refusal :=
  .next (frameReceive s port f fecBad)

/-- HOP_REPLAY_TIMEOUT (R355). -/
def execHopReplayTimeout (port : Nat) (s : State) : Host.Outcome State Fault Refusal :=
  .next (hopReplay s port)

/-- SPUR_ATTACH (R365). -/
def execSpurAttach (spur : Nat) (s : State) : Host.Outcome State Fault Refusal :=
  .next (spurAttach s spur)

/-- SPUR_DETACH_DRAIN_TIMEOUT (R366). -/
def execSpurDetachDrainTimeout (spur : Nat) (s : State) : Host.Outcome State Fault Refusal :=
  .next (detachTimeout s spur)

/-- STREAM_CREDIT (R370). -/
def execStreamCredit (port : Nat) (s : State) : Host.Outcome State Fault Refusal :=
  .next (takeCredit s port)

/-- RECOVER (R451). -/
def execRecover (port : Nat) (s : State) : Host.Outcome State Fault Refusal :=
  .next (recoverFrame s port)

/-- OUT_OF_SERVICE (R451). -/
def execOutOfService (port : Nat) (s : State) : Host.Outcome State Fault Refusal :=
  .next (outFrame s port)

/-- REPAIR_WAIT (R457). -/
def execRepairWait (port : Nat) (s : State) : Host.Outcome State Fault Refusal :=
  .next (repairFrame s port)

/-- RESUME (R480). -/
def execResume (port : Nat) (s : State) : Host.Outcome State Fault Refusal :=
  .next (resumeFrame s port)

end Sys2Proof.Machine
end

