-- ==== Sys2Proof/Machine/Pcie.lean ====
section
/-! DEFINITION. The host's and the management port's side: channel registers (R391 to R396), message posting, PCI Express registers,
doorbells, BAR2 writes, interrupts and function resets (R378 to R384, R486). -/
namespace Sys2Proof.Machine

/-! ### Channel registers (R391 to R394, R397) -/

/-- Posts or only stores a write of MBX_CTL; while BUSY it has no effect (R392, R398). -/
def mbxCtl (s : State) (n : Nat) (v : W32) : State :=
  let c := chanOf s n
  if c.busy then s
  else
    let c := { c with seq := bits v.toNat 15 8, short := bitOf v.toNat 1 }
    if bitOf v.toNat 0 then wakeFor (setChan s n { c with busy := true, timedOut := false, tmoLatched := c.tmo }) n
    else setChan s n c

/-- RW1C bits of MBX_STAT; a cleared REPLY_VALID lets the next reply in (R393, R400). -/
def mbxStat (s : State) (n v : Nat) : State :=
  let c := chanOf s n
  writeReply (setChan s n { c with
    taken := c.taken && !bitOf v 1, timeout := c.timeout && !bitOf v 2, replyValid := c.replyValid && !bitOf v 3
    restarted := c.restarted && !bitOf v 4, late := c.late && !bitOf v 5 }) n

/-- An aligned 4-byte write to a channel's page. `tag`: the requester, where it came over UDP. -/
def chanWrite (s : State) (n off : Nat) (v : W32) (tag : Option (BitVec 64)) : State :=
  let c := chanOf s n
  if off % 4 ≠ 0 then s
  else if off < 0x40 then (if c.busy then s else setChan s n { c with data := tabPut c.data (off / 4) 0 v })
  else if off = 0x40 then mbxCtl s n v
  else if off = 0x44 then mbxStat s n v.toNat
  else if off = 0x48 then setChan s n { c with tmo := v.toNat % 2 ^ 16 }
  else if off = 0x4C then
    let s := setChan s n { c with irq := v.toNat % 8 }
    if isSecure n then { s with mgmtTags := match tag with
        | some t => tabSet s.mgmtTags (secureNo n) t
        | none => tabDel s.mgmtTags (secureNo n) } else s
  else if 0x100 ≤ off ∧ off < 0x800 then
    (if c.busy then s else setChan s n { c with inBuf := memWrite c.inBuf (off - 0x100) 4 v.toNat })
  else s

def statWord (c : Chan) : Nat :=
  flagBit c.busy 0 + flagBit c.taken 1 + flagBit c.timeout 2 + flagBit c.replyValid 3 + flagBit c.restarted 4 + flagBit c.late 5
    + 2 ^ 8 * c.rseq + 2 ^ 16 * c.tseq

/-- An aligned 4-byte read of a channel's page. -/
def chanRead (s : State) (n off : Nat) : W32 :=
  let c := chanOf s n
  if off < 0x40 then tabGet c.data (off / 4) 0
  else if off = 0x40 then w32 (2 ^ 8 * c.seq + flagBit c.short 1 + flagBit c.busy 0)
  else if off = 0x44 then w32 (statWord c)
  else if off = 0x48 then w32 c.tmo
  else if off = 0x4C then w32 c.irq
  else if 0x80 ≤ off ∧ off < 0xC0 then tabGet c.reply ((off - 0x80) / 4) 0
  else if 0x100 ≤ off ∧ off < 0x800 then w32 (memRead c.inBuf (off - 0x100) 4)
  else if 0x800 ≤ off then w32 (memRead c.outBuf (off - 0x800) 4)
  else 0

/-- Can a channel be reached: over PCI Express, or over the management port of a module out of standby reset (R395)? -/
def chanReach (s : State) (n : Nat) : Bool :=
  chanExists s n && (if isSecure n then s.module.stbyGood && !s.module.rst else s.pcie.linkUp)

/-- MBX_GO: a write of MBX_CTL. -/
def mbxGo (s : State) (n : Nat) (v : W32) : State := if chanReach s n then mbxCtl s n v else s

/-- MBX_TIMEOUT: the message stays, and may still be taken. -/
def mbxTimeout (s : State) (n : Nat) : State :=
  let c := chanOf s n
  if c.busy && !c.timedOut && c.tmoLatched != 0 then
    chanIrq (setChan s n { c with timedOut := true, timeout := true, tseq := c.seq }) n 2
  else s

/-! ### The management port (R396) -/

def mgmtChan (addr : Nat) : Nat := 312 + addr / 2 ^ 12 % 16

/-- MGMT_UDP_REQUEST: OP 1 reads, OP 2 writes; the answer echoes the tag. -/
def mgmtUdp (s : State) (op addr : Nat) (v : W32) (tag : BitVec 64) : State :=
  let n := mgmtChan addr
  let off := addr % 2 ^ 12
  if !chanReach s n ∨ 2 ^ 16 ≤ addr then s
  else if op = 1 then { s with mgmtOut := s.mgmtOut ++ [.answer 1 addr (chanRead s n off) tag] }
  else if op = 2 then
    let s := chanWrite s n off v (some tag)
    { s with mgmtOut := s.mgmtOut ++ [.answer 2 addr v tag] }
  else s

/-- MGMT_I3C_WRITE: an address and the words that follow it. -/
def mgmtI3c (s : State) (addr : Nat) (words : List W32) : State :=
  if !chanReach s (mgmtChan addr) then s
  else (words.zipIdx).foldl (fun s w =>
    let a := (addr + 4 * w.2) % 2 ^ 16
    chanWrite s (mgmtChan a) (a % 2 ^ 12) w.1 none) { s with mgmtAddr := addr % 2 ^ 16 }

/-! ### Interrupts and events (R380, R381) -/

/-- EVT_EN_WRITE: enabling a bit that is set already sends the message. -/
def evtEnable (s : State) (v : W32) : State :=
  let en := v.toNat % 128
  let fresh := s.pcie.evtStat &&& en &&& (0x7F - (s.pcie.evtEn &&& 0x7F))
  let s := { s with pcie := { s.pcie with evtEn := en } }
  if fresh = 0 then s else raiseVec s 0 64

/-- Vectors of a function. -/
def vecCount (fn : Nat) : Nat := if fn = 0 then 128 else 8

/-- Writes a vector's mask bit; unmasking with the pending bit set sends the message. -/
def vecMask (s : State) (fn n : Nat) (masked : Bool) : State :=
  let v := tabGet s.pcie.vecs (vecKey fn n) .init
  let go := v.masked && !masked && v.pend
  let v := { v with masked := masked, pend := v.pend && !go }
  let s := { s with pcie := { s.pcie with vecs := tabSet s.pcie.vecs (vecKey fn n) v } }
  if go then { s with msiOut := s.msiOut ++ [(fn, n)] } else s

/-- MSIX_UNMASK. -/
def msixUnmask (s : State) (fn n : Nat) : State :=
  if s.pcie.linkUp && decide (fn ≤ 62 ∧ n < vecCount fn) then vecMask s fn n false else s

/-- A write to a word of the MSI-X table: address low and high, data, vector control. -/
def msixWrite (s : State) (fn off : Nat) (w : W32) : State :=
  let n := off / 16
  let v := tabGet s.pcie.vecs (vecKey fn n) .init
  let put (v : MsixVec) : State := { s with pcie := { s.pcie with vecs := tabSet s.pcie.vecs (vecKey fn n) v } }
  if vecCount fn ≤ n then s
  else match off / 4 % 4 with
    | 0 => put { v with addr := BitVec.ofNat 64 (2 ^ 32 * (v.addr.toNat / 2 ^ 32) + w.toNat / 4 * 4) }
    | 1 => put { v with addr := BitVec.ofNat 64 (v.addr.toNat % 2 ^ 32 + 2 ^ 32 * w.toNat) }
    | 2 => put { v with data := w }
    | _ => vecMask s fn n (bitOf w.toNat 0)

/-! ### Doorbells (R382, R414) -/

def fifoSize : Nat := 1024
def bellOp (v : W32) : Nat := v.toNat / 2 ^ 28
def bellArg (v : W32) : Nat := v.toNat % 2 ^ 28
/-- DOORBELL_REFUSED with the value. -/
def bellRefused (s : State) (c : BitVec 8) (v : W32) : State := logCairn s 0x1403 (some c) v.toNat

/-- DOORBELL_WRITE: only a context opened through the PF has a doorbell; its home steward wakes. What a value means is Nuarn's affair. -/
def doorbell (s : State) (c : BitVec 8) (v : W32) : State :=
  if !s.pcie.linkUp then s
  else if !((ctxOf s c).map (·.window)).getD false then bellRefused s c v
  else if s.pcie.fifo.length ≥ fifoSize then setEvt s evtDbOvf
  else wakeSteward { s with pcie := { s.pcie with fifo := s.pcie.fifo ++ [⟨c, v⟩] } } (homeSteward c)

/-- The value of a doorbell that Nuarn would take next for a context. -/
def nextBell (s : State) (c : BitVec 8) : Option W32 := (s.pcie.fifo.find? (fun b => b.ctx == c)).map (·.value)
def popNext (s : State) (c : BitVec 8) : State := { s with pcie := { s.pcie with fifo := popBell s.pcie.fifo c } }

/-- Values without an operation of R414 are dropped and logged as they are taken, at most n. -/
def dropOther (c : BitVec 8) : Nat → State → State
  | 0, s => s
  | n + 1, s => match nextBell s c with
    | some v => if ([1, 2, 3] : List Nat).contains (bellOp v) then s else dropOther c n (bellRefused (popNext s c) c v)
    | none => s

/-- Nuarn takes the oldest doorbell of a context, where it has the operation; an EXTEND of a context that has closed meanwhile has no
submission to extend. -/
def takeBell (s : State) (c : BitVec 8) (op : Nat) (f : State → Ctx → W32 → State) : State :=
  if !stewardAwake s (homeSteward c) then s
  else
    let s := dropOther c s.pcie.fifo.length s
    match nextBell s c with
    | none => s
    | some v =>
      if bellOp v ≠ op then s
      else
        let s := popNext s c
        match ctxOf s c with
        | some x => f s x v
        | none => if op = 1 then bellRefused s c v else s

/-- EXTEND: the submission accepted last, while it has not finished. -/
def bellExtend (s : State) (c : BitVec 8) : State :=
  takeBell s c 1 (fun s x v =>
    match x.subs.getLast? with
    | some b =>
      if b.no + 1 ≠ x.nextSub ∨ b.finished ∨ b.cancelling ∨ bellArg v = 0 ∨ b.count + bellArg v ≥ 2 ^ 32 then bellRefused s c v
      else setCtx s c (updSub x b.no (fun b => { b with count := b.count + bellArg v }))
    | none => bellRefused s c v)

/-- NOTIFY: the interrupt again while the ring holds unread records. -/
def bellNotify (s : State) (c : BitVec 8) : State :=
  takeBell s c 2 (fun s x _ => if viewRead s x cbCrWr 4 = viewRead s x cbCrRd 4 then s else raiseCompletion s x)

/-- SCHED_KICK. -/
def bellKick (s : State) (c : BitVec 8) : State :=
  takeBell s c 3 (fun s _ _ => (List.range 24).foldl (fun s k => schedRetry s k c) s)

/-! ### BAR2 (R383, R255) -/

/-- Is a CLIPC value allowed now? -/
def clipAllowed (s : State) (x : Ctx) (v : Nat) : Bool :=
  let now := viewRead s x cbClipC 4
  let pos := decide (0 < v ∧ v < 0x7F800000)
  (v == 0 || pos) && ((unfinished x).isEmpty || (now == 0) == (v == 0))

/-- May a write of the host reach these bytes of a view? -/
def hostMayWrite (s : State) (x : Ctx) (o : Nat) (data : List Byte) : Bool :=
  let within (lo hi : Nat) : Bool := decide (lo ≤ o ∧ o + data.length ≤ hi)
  within cbCrRd (cbCrRd + 8) || within atGroups (atGroups + 0x4000) || within atSched (atSched + 0x2000) ||
    (o == cbClipC && data.length == 4 && clipAllowed s x (leNat data))

/-- The pieces of a write, each within a line. -/
def linePieces (o : Nat) (data : List Byte) : List (Nat × List Byte) :=
  (List.range ((o + data.length + 63) / 64 - o / 64)).map (fun i =>
    let lo := max o (64 * (o / 64 + i))
    (lo, (data.drop (lo - o)).take (64 * (o / 64 + i + 1) - lo)))

/-- BAR2_WRITE. -/
def bar2Write (s : State) (off : Nat) (data : List Byte) (poisoned : Bool) : State :=
  let c : BitVec 8 := BitVec.ofNat 8 (off / 2 ^ 20)
  let o := off % 2 ^ 20
  if !s.pcie.linkUp ∨ 2 ^ 28 < off + data.length ∨ data = [] then s
  else if poisoned then { s with pcie := { s.pcie with nonFatal := s.pcie.nonFatal + 1 } }
  else match ctxOf s c with
    | none => s
    | some x =>
      if !x.window then s
      else if !hostMayWrite s x o data then logAt s 0x1402 9 0 (some c) none (off % 2 ^ 32)
      else (linePieces o data).foldl (fun s p =>
        sendRing s (crestStop 2) (ringStop ((viewDecode (x.mask, x.slabs) p.1).1)) .h false (.hbmWrite c p.1 p.2 (epochNow s c))) s

/-- A write that reaches the endpoint: a poisoned one is dropped and reported as an advisory non-fatal error (R384). -/
def hostPosts (s : State) (poisoned : Bool) (k : State → State) : State :=
  if poisoned ∧ s.pcie.linkUp then { s with pcie := { s.pcie with nonFatal := s.pcie.nonFatal + 1 } } else k s

/-! ### Registers without a row of their own (R379, R380) -/

/-- A write to BAR0 of a function, or to BAR4 of a VF from offset 0x10000 on. -/
def regWrite (s : State) (fn off : Nat) (v : W32) (size : Nat) : State :=
  if !s.pcie.linkUp ∨ size ≠ 4 ∨ off % 4 ≠ 0 ∨ 62 < fn then s
  else if fn = 0 then
    if off < 0x40000 then chanWrite s (off / 2 ^ 12) (off % 2 ^ 12) v none
    else if off < 0x40400 then doorbell s (BitVec.ofNat 8 ((off - 0x40000) / 4)) v
    else if off = 0x60000 then { s with pcie := { s.pcie with evtStat := s.pcie.evtStat &&& (0x7F - v.toNat % 128) } }
    else if off = 0x60004 then evtEnable s v
    else if 0x70000 ≤ off ∧ off < 0x70800 then msixWrite s 0 (off - 0x70000) v
    else s
  else if off < 0x4000 then chanWrite s (64 + 4 * (fn - 1) + off / 2 ^ 12) (off % 2 ^ 12) v none
  else if 0x10000 ≤ off ∧ off < 0x10080 then msixWrite s fn (off - 0x10000) v
  else s

/-! ### Function resets and the link (R384, R486) -/

/-- The channels and vectors of a function start anew; the contexts it opened run on, detached from it. PRESUMED, log entry 27. -/
def fnReset (s : State) (fn : Nat) : State :=
  { s with
    chans := s.chans.filter (fun p => isSecure p.1 || chanFn p.1 != fn)
    pcie := { s.pcie with vecs := s.pcie.vecs.filter (fun p => p.1 / 128 != fn) }
    ctxs := tabMap s.ctxs (fun _ x => { x with opener := match x.opener with
      | .pf => if fn = 0 then .detached else .pf
      | .vf v => if v = fn then .detached else .vf v
      | o => o }) }

def vfReset (s : State) (v : Nat) : State := if s.pcie.linkUp && decide (1 ≤ v ∧ v ≤ 62) then fnReset s v else s
def allFnReset (s : State) : State := (List.range 63).foldl fnReset s
def pfReset (s : State) : State := if s.pcie.linkUp then allFnReset s else s

/-- Does the link come up: PERST# released, main power good, the endpoint not held in reset by STRAP_HOST? -/
def linkMay (s : State) : Bool := !s.pcie.perst && s.module.pgMain && decide (s.straps.host.toNat < 2)
def followLink (s : State) : State := { s with pcie := { s.pcie with linkUp := linkMay s } }

def perstAssert (s : State) : State := followLink (allFnReset { s with pcie := { s.pcie with perst := true } })
def perstRelease (s : State) : State := followLink { s with pcie := { s.pcie with perst := false } }

/-- DEVID of ENGDEV (R3, R380). -/
def deviceId (s : State) : Nat := if s.dev.gradeF then 0x8200 else 0x8201
def revisionId (s : State) : Nat := if s.dev.stepB0 then 0xB0 else 0xA1

/-- What an item of configuration space holds (R378): a capability is there or not, power states are bits, sizes in bytes; the PF alone has
SR-IOV. -/
def cfgValue (s : State) (fn : Nat) : CfgItem → Nat
  | .vendor => Config.vendorId.toNat
  | .device => if fn = 0 then deviceId s else 0x8202
  | .revision => revisionId s
  | .classCode => 0x120000
  | .capability .sriov => if fn = 0 then 1 else 0
  | .capability _ => 1
  | .totalVfs => if fn = 0 then 62 else 0
  | .firstVfOffset => if fn = 0 then 1 else 0
  | .vfStride => if fn = 0 then 1 else 0
  | .maxPayload => 512
  | .powerStates => 2 ^ 0 + 2 ^ 3
  | .serialNumber => s.shadow.serial.toNat
  | .aerUncorrectable => s.pcie.aerStatus.toNat
  | .other dword => (Config.cfgDword fn dword).toNat

/-- CONFIGURATION_REQUEST: retry status before event 8 of main power-up (R486); a failed module answers too (R421). -/
def configRequest (s : State) (fn : Nat) (item : CfgItem) : State :=
  if s.pcie.linkUp && decide (fn ≤ 62) then
    let up := s.cairn.compOk || s.cairn.engState == 15
    { s with cfgOut := s.cfgOut ++ [(fn, item, if up then some (cfgValue s fn item) else none)] }
  else s

/-- PCIE_FATAL: reported through AER, and the engine is out of service for repair (class 12). -/
def pcieFatal (s : State) (status : W32) : State :=
  if !s.module.pgMain then s
  else
    let s := { s with pcie := { s.pcie with aerStatus := s.pcie.aerStatus ||| status } }
    waitForRepair (logAt s 0x0606 9 0 none none status.toNat) 12

/-- MBX_GO (R398). -/
def execMbxGo (chan : Nat) (value : Posted W32) (s : State) : Host.Outcome State Fault Refusal :=
  .next (hostPosts s (value.poisoned && !isSecure chan) (fun s => mbxGo s chan value.val))

/-- MBX_TIMEOUT (R399). -/
def execMbxTimeout (chan : Nat) (s : State) : Host.Outcome State Fault Refusal :=
  .next (mbxTimeout s chan)

/-- MGMT_UDP_REQUEST (R396). -/
def execMgmtUdpRequest (op addr : Nat) (value : W32) (tag : BitVec 64) (s : State) : Host.Outcome State Fault Refusal :=
  .next (mgmtUdp s op addr value tag)

/-- MGMT_I3C_WRITE (R396). -/
def execMgmtI3cWrite (addr : Nat) (words : List W32) (s : State) : Host.Outcome State Fault Refusal :=
  .next (mgmtI3c s addr words)

/-- EVT_EN_WRITE (R381). -/
def execEvtEnWrite (value : Posted W32) (s : State) : Host.Outcome State Fault Refusal :=
  .next (hostPosts s value.poisoned (fun s => if s.pcie.linkUp then evtEnable s value.val else s))

/-- MSIX_UNMASK (R381). -/
def execMsixUnmask (fn : Nat) (vec : Posted Nat) (s : State) : Host.Outcome State Fault Refusal :=
  .next (hostPosts s vec.poisoned (fun s => msixUnmask s fn vec.val))

/-- DOORBELL_WRITE (R382). -/
def execDoorbellWrite (ctx : BitVec 8) (value : Posted W32) (s : State) : Host.Outcome State Fault Refusal :=
  .next (hostPosts s value.poisoned (fun s => doorbell s ctx value.val))

/-- DOORBELL_EXTEND (R414). -/
def execDoorbellExtend (ctx : BitVec 8) (s : State) : Host.Outcome State Fault Refusal :=
  .next (bellExtend s ctx)

/-- DOORBELL_NOTIFY (R414). -/
def execDoorbellNotify (ctx : BitVec 8) (s : State) : Host.Outcome State Fault Refusal :=
  .next (bellNotify s ctx)

/-- DOORBELL_SCHED_KICK (R414). -/
def execDoorbellSchedKick (ctx : BitVec 8) (s : State) : Host.Outcome State Fault Refusal :=
  .next (bellKick s ctx)

/-- BAR2_WRITE (R383). -/
def execBar2Write (off : Nat) (data : List Byte) (poisoned : Bool) (s : State) : Host.Outcome State Fault Refusal :=
  .next (bar2Write s off data poisoned)

/-- REGISTER_WRITE (R7). -/
def execRegisterWrite (fn off : Nat) (value : Posted W32) (size : Nat) (s : State) : Host.Outcome State Fault Refusal :=
  .next (hostPosts s value.poisoned (fun s => regWrite s fn off value.val size))

/-- VF_FLR (R384). -/
def execVfFlr (vf : Nat) (s : State) : Host.Outcome State Fault Refusal :=
  .next (vfReset s vf)

/-- PF_FLR (R384). -/
def execPfFlr (s : State) : Host.Outcome State Fault Refusal :=
  .next (pfReset s)

/-- PERST_ASSERT (R486). -/
def execPerstAssert (s : State) : Host.Outcome State Fault Refusal :=
  .next (perstAssert s)

/-- PERST_RELEASE (R486). -/
def execPerstRelease (s : State) : Host.Outcome State Fault Refusal :=
  .next (perstRelease s)

/-- CONFIGURATION_REQUEST (R486). -/
def execConfigurationRequest (q : CfgRead) (s : State) : Host.Outcome State Fault Refusal :=
  .next (configRequest s q.fn q.item)

/-- PCIE_FATAL (R384). -/
def execPcieFatal (status : W32) (s : State) : Host.Outcome State Fault Refusal :=
  .next (pcieFatal s status)

end Sys2Proof.Machine
end

