-- ==== Sys2Proof/Machine/Mbox.lean ====
section
/-! DEFINITION. Taking of messages (R398), staged structures (R401), and the checks that every command passes before its own (R403 to
R406). -/
namespace Sys2Proof.Machine

/-! ### Taking (R398, R399) -/

def takenMax : Nat := 8

/-- The message in a channel's registers: arguments beyond LEN are 0, and SHORT takes neither MBX_DATA8 to 15 nor IN. -/
def msgOf (c : Chan) (no : Nat) : Msg :=
  let d (i : Nat) : W32 := if c.short ∧ 8 ≤ i then 0 else tabGet c.data i 0
  let w := (d 0).toNat
  { takeNo := no, seq := c.seq, code := bits w 15 0, flags := bits w 23 16, len := bits w 31 24, cseq := d 1
    args := (List.range 14).map (fun i => if i < bits w 31 24 then d (i + 2) else 0)
    inHdr := if c.short then [] else memBytes c.inBuf 0 32
    inData := if c.short then [] else memBytes c.inBuf 32 1760 }

/-- MBX_TAKE: the serving core, awake, takes the pending message while it holds fewer than 8 of the channel. -/
def mbxTake (s : State) (n : Nat) : State :=
  let c := chanOf s n
  let awake := match chanSteward n with
    | some k => !s.cairn.ready || (stewardOf s k).awake
    | none => true
  if !c.busy ∨ !served s n ∨ !awake ∨ takenMax ≤ c.queue.length + c.replies.length then s
  else
    let s := { s with takeNo := s.takeNo + 1 }
    let s := setChan s n { c with busy := false, taken := true, tseq := c.seq, late := c.late || c.timedOut, timedOut := false
                                  queue := c.queue ++ [msgOf c s.takeNo] }
    settle 9 (chanIrq s n 0) n

/-! ### The head of a channel (R403, R405) -/

def argN (m : Msg) (i : Nat) : Nat := ((m.args[i - 2]?).getD 0).toNat
/-- Two argument registers as one value. -/
def argN2 (m : Msg) (i : Nat) : Nat := argN m i + 2 ^ 32 * argN m (i + 1)
def staged (m : Msg) : Bool := bitOf m.flags 0
def more (m : Msg) : Bool := bitOf m.flags 1

/-- The sheaf that a message names, and the context (R407). -/
def msgSheaf (m : Msg) : Option Nat :=
  if [0x0302, 0x0303, 0x0701].contains m.code then some (argN m 2 % 256)
  else if m.code = 0x0802 ∧ argN m 2 % 2 = 0 then some (argN m 2 / 2 ^ 8 % 256)
  else none
def msgCtx (s : State) (m : Msg) : Option (BitVec 8) :=
  if [0x0202, 0x0301, 0x0401, 0x0402, 0x0403, 0x0404, 0x0501, 0x0601, 0x0602, 0x0603].contains m.code then some (BitVec.ofNat 8 (argN m 2))
  else if m.code = 0x0502 ∧ argN m 2 % 2 = 1 then some (BitVec.ofNat 8 (argN m 2 / 2 ^ 8))
  else if m.code = 0x0A01 ∧ argN m 2 % 256 = 2 then some (BitVec.ofNat 8 (argN m 2 / 2 ^ 8))
  else (msgSheaf m).bind (fun h => (tabFind s.sheaves h).map (·.ctx))

/-- What a command acts on (R405): contexts, sheaves, rectangles of tiles, and what all share: 0 the slabs, 1 the spurs, 2 the numbers of
contexts, 3 those of sheaves, 4 Maelec's signing (R429). -/
structure Claims where
  ctxs : List (BitVec 8)
  sheaves : List Nat
  rects : List (Nat × Nat × Nat × Nat)
  pools : List Nat
deriving DecidableEq, Repr

def rectsMeet (a b : Nat × Nat × Nat × Nat) : Bool :=
  decide (a.1 < b.1 + b.2.2.1 ∧ b.1 < a.1 + a.2.2.1 ∧ a.2.1 < b.2.1 + b.2.2.2 ∧ b.2.1 < a.2.1 + a.2.2.2)

def Claims.meet (a b : Claims) : Bool :=
  a.ctxs.any b.ctxs.contains || a.sheaves.any b.sheaves.contains || a.pools.any b.pools.contains || a.rects.any (fun r => b.rects.any (rectsMeet r))

/-- The rectangle of argument registers 3 and 4. -/
def msgRect (m : Msg) : Nat × Nat × Nat × Nat :=
  (argN m 3 % 256, argN m 3 / 2 ^ 8 % 256, argN m 4 % 512, argN m 4 / 2 ^ 16 % 512)

/-- The sheaves that a command acts on: the one it names, for CTX_CLOSE all of its context. -/
def msgSheaves (s : State) (m : Msg) : List Nat :=
  if m.code = 0x0202 then (sheavesOf s (BitVec.ofNat 8 (argN m 2))).map (·.1)
  else if m.code = 0x0401 then [argN m 2 / 2 ^ 8 % 256]
  else (msgSheaf m).toList

/-- DEDUCED, log entry 25. -/
def msgClaims (s : State) (m : Msg) : Claims :=
  let named := msgSheaves s m
  let bound := named.filterMap (tabFind s.sheaves)
  let second : List (BitVec 8) := if m.code = 0x0303 then [BitVec.ofNat 8 (argN m 2 / 2 ^ 8)] else []
  { ctxs := (msgCtx s m).toList ++ second ++ (if m.code = 0x0401 then [] else bound.flatMap (fun b => b.ctx :: b.second.toList))
    sheaves := named
    rects := bound.map (fun b => (b.x0, b.y0, b.w, b.h)) ++
      (if m.code = 0x0301 ∨ (m.code = 0x0802 ∧ argN m 2 % 2 = 1) then [msgRect m] else if m.code = 0x0801 then [(0, 0, 256, 256)] else [])
    pools := if m.code = 0x0201 then [0, 2] else if m.code = 0x0202 then [0, 1, 2, 3] else if m.code = 0x0502 then [1]
      else if m.code = 0x0301 ∨ m.code = 0x0302 then [3] else if m.code = 0x0901 ∧ argN m 10 = 0 then [4] else [] }

/-- Does a channel's taken command stand before a message that acts on the same things (R405): taken earlier, no mere part of a structure,
and not waiting for a comparison or a test? -/
def standsBefore (s : State) (m : Msg) (c : Chan) : Bool :=
  let mine := msgClaims s m
  (c.queue.zipIdx).any (fun p =>
    let q := p.1
    decide (q.takeNo < m.takeNo) && !more q && (msgClaims s q).meet mine &&
      !(p.2 == 0 && (match c.await with
        | some (.verify _) => true
        | some (.test _) => true
        | _ => false)))

/-- The command that a channel's core may process now: the oldest taken, if it does not wait, and in take-number order with
those of other channels that act on the same things. -/
def headMsg (s : State) (n : Nat) : Option Msg :=
  let c := chanOf s n
  match c.queue with
  | m :: _ =>
    if served s n && c.await.isNone && (more m || !(s.chans.any (fun p => p.1 != n && served s p.1 && standsBefore s m p.2))) then some m else none
  | [] => none

/-! ### The checks before a command's own (R403) -/

/-- Commands that accept staged structures. -/
def stagedCodes : List Nat := [0x0401, 0x0501, 0x0502, 0x0902, 0x0F01]

/-- The flags, LEN, and the negotiated version. DEDUCED, log entry 25. -/
def preCheck (s : State) (n : Nat) (m : Msg) : Option Ans :=
  let short := m.inHdr.isEmpty
  if m.flags ≥ 4 ∨ (more m ∧ !staged m) ∨ (staged m ∧ (short ∨ !stagedCodes.contains m.code)) ∨ m.len > (if short then 6 else 14) then
    some (ans stBadArg 0)
  else if !([0x0101, 0x0102, 0x0901, 0x0A01, 0x0F01] : List Nat).contains m.code ∧ (tabFind s.agree (chanFn n)).isNone then
    some (ans stVersionRefused ((s.cairn.nuarn.map (·.vfloor)).getD 0))
  else if staged m ∧ s.cairn.ready ∧ !(((tabFind s.agree (chanFn n)).map (fun a => bitOf a.features 4)).getD false) then
    some (ans stDenied 1)
  else none

def hasFeature (s : State) (n bit : Nat) : Bool := ((tabFind s.agree (chanFn n)).map (fun a => bitOf a.features bit)).getD false

/-- PF and secure channels. -/
def fromPf (n : Nat) : Bool := isPf n || isSecure n
/-- PF and secure channels, and those of the function that opened the context. -/
def fromOwner (n : Nat) (x : Ctx) : Bool :=
  fromPf n || (match x.opener with
    | .vf v => isVf n && chanVf n == v
    | _ => false)

/-- The state of an open context as commands see it. -/
def ctxStatus (x : Ctx) : Option Ans :=
  if x.reset.isSome then some (ans stFaulted 0)
  else if !x.waiting.isEmpty then some (ans stWaitingRepair 0)
  else if x.quiesced.any (fun q => match q with
      | .tags _ => false
      | _ => true) then some (ans stQuiesced 0)
  else none

/-- Processes the head of a channel where it has the code and form: the checks of flags and version first. DEDUCED, log entry 25. -/
def runCmd (s : State) (n code : Nat) (form : Msg → Bool) (k : State → Msg → State) : State :=
  match headMsg s n with
  | none => s
  | some m =>
    if m.code ≠ code ∨ !form m ∨ (staged m ∧ more m) then s
    else
      let s := discardAsm s n m
      match preCheck s n m with
      | some a => answer s n a
      | none => k s m

/-- A command on a context: permission, then its state. `any`: it is taken in every state. -/
def onCtx (s : State) (n : Nat) (c : BitVec 8) (any : Bool) (k : Ctx → State) : State :=
  match ctxOf s c with
  | none => answer s n (ans stBadArg 0)
  | some x =>
    if !fromOwner n x then answer s n (ans stDenied 0)
    else if x.closing then answer s n (ans stBadArg 0)
    else match (if any then none else ctxStatus x) with
      | some a => answer s n a
      | none => k x

/-- A command on a bound sheaf: permission and state of its context. -/
def onSheaf (s : State) (n h : Nat) (any : Bool) (k : Sheaf → Ctx → State) : State :=
  match tabFind s.sheaves h with
  | none => answer s n (ans stBadArg 0)
  | some b => onCtx s n b.ctx any (fun x => k b x)

/-! ### Staged structures (R401) -/

def inPartLen (m : Msg) : Nat := leNat ((m.inHdr.drop 16).take 4)
def inPartOff (m : Msg) : Nat := leNat ((m.inHdr.drop 12).take 4)
def inTotal (m : Msg) : Nat := leNat ((m.inHdr.drop 8).take 4)
def inDest (m : Msg) : Nat := leNat (m.inHdr.take 8)
def stagedMax : Nat := 67108864
def stewardAsmMax : Nat := 256 * 2 ^ 20

/-- Bytes of assemblies that the core of a channel holds. -/
def asmHeld (s : State) (n : Nat) : Nat :=
  ((s.chans.filter (fun p => chanSteward p.1 == chanSteward n)).map (fun p => (p.2.asm.map (·.data.length)).getD 0)).sum

/-- The assembly with a part appended; none where the part breaks a rule. -/
def addPart (c : Chan) (m : Msg) : Option Assembly :=
  let y := c.asm.getD ⟨m.code, inTotal m, inDest m, []⟩
  let n := inPartLen m
  if y.total = inTotal m ∧ y.dest = inDest m ∧ inPartOff m = y.data.length ∧ 1 ≤ n ∧ n ≤ 1760 ∧ 1 ≤ y.total ∧ y.total ≤ stagedMax ∧
      y.data.length + n ≤ y.total ∧ inDest m < 2 ^ 44 ∧ (inDest m = 0 ∨ freeArea ≤ inDest m) ∧ (m.inHdr.drop 20).all (· == 0) then
    some { y with data := y.data ++ m.inData.take n }
  else none

/-- A part that breaks a rule. -/
def badPart (s : State) (n : Nat) : State := answer (updChan s n (fun c => { c with asm := none })) n (ans stBadArg 0x00F1)

/-- STAGED_PART: a part with MORE set. -/
def stagedPart (s : State) (n : Nat) : State :=
  match headMsg s n with
  | none => s
  | some m =>
    if !staged m ∨ !more m then s
    else
      let s := discardAsm s n m
      match preCheck s n m with
      | some a => answer s n a
      | none =>
        if m.code = 0x0902 ∧ !isSecure n then answer s n (ans stDenied 0)
        else if (m.code = 0x0902 ∧ bitOf (argN m 2) 31) ∨ ((m.code = 0x0902 ∨ m.code = 0x0F01) ∧ inDest m ≠ 0) ∨
            (m.code = 0x0F01 ∧ inTotal m < 16385) then badPart s n
        else match addPart (chanOf s n) m with
          | none => badPart s n
          | some y =>
            if asmHeld s n + inPartLen m > stewardAsmMax then answer s n (ans stNoResource 0)
            else answer (updChan s n (fun c => { c with asm := some y })) n (ansBody stAccepted 0 [w32 y.data.length])

/-- The structure of a command: the completed assembly, written to DEST first where that is not 0, or the bytes at a view
offset. `x`: the context, none for a command without one. -/
def withStruct (s : State) (n : Nat) (m : Msg) (x : Option Ctx) (byView : Option (Nat × Nat)) (k : State → List Byte → State) : State :=
  if staged m then
    match addPart (chanOf s n) m with
    | none => badPart s n
    | some y =>
      let s' := updChan s n (fun c => { c with asm := none })
      if y.data.length ≠ y.total then badPart s n
      else if asmHeld s n + inPartLen m > stewardAsmMax then answer s' n (ans stNoResource 0)
      else if y.dest = 0 then k s' y.data
      else match x with
        | none => badPart s n
        | some x => if freeArea ≤ y.dest ∧ y.dest + y.total ≤ viewSz x then k (viewWrite s' x y.dest y.data) y.data else badPart s n
  else match x, byView with
    | some x, some (o, len) => if o + len ≤ viewSz x then k s (viewBytes s x o len) else answer s n (ans stBadArg 0)
    | _, _ => answer s n (ans stBadArg 0)

/-- MBX_TAKE (R398). -/
def execMbxTake (chan : Nat) (s : State) : Host.Outcome State Fault Refusal :=
  .next (mbxTake s chan)

/-- STAGED_PART (R401). -/
def execStagedPart (chan : Nat) (s : State) : Host.Outcome State Fault Refusal :=
  .next (stagedPart s chan)

end Sys2Proof.Machine
end

