-- ==== Sys2Proof/Machine/Fallow.lean ====
section
/-! DEFINITION. The cap in force (R505), the clock of a tile (R507), and fallow regions (R71, R72, R216, R411, R508): entering, leaving,
the conditions of deep fallow, and the regions that the loop makes fallow. -/
namespace Sys2Proof.Machine

/-! ### The cap and the clock -/

/-- The power class of STRAP_PWR in 0.1 kW (R505). -/
def powerClass (s : State) : Nat := [280, 260, 240, 220, 200, 180, 150, 120].getD s.straps.pwr.toNat 280

/-- The cap in 0.1 kW under a policy's: the least of that, the class, and the coolant derates. DEDUCED, log entry 39. -/
def capWith (s : State) (cap : Nat) : Nat :=
  let m := s.module
  min (min cap (powerClass s)) (min (m.inletCap.getD (powerClass s)) (m.flowCap.getD (powerClass s)))

/-- The cap in force. -/
def capNow (s : State) : Nat := capWith s s.module.cap

/-- The cap that the loop uses: with the policy's as it was when the first window of the period ended (R507). DEDUCED, log entry 39. -/
def loopCapNow (s : State) : Nat := capWith s (if s.module.winN = 0 then s.module.cap else s.module.loopCap)

/-- The shot of a tile: index 8j + i. -/
def shotOf (s : State) (i : Nat) : Nat := 8 * shotRow (ixY i) + shotCol (gridW s) (ixX i)
def shotCeil (s : State) (shot : Nat) : Nat := tabGet s.module.ceil shot 27

/-- The frequency of a tile: the least of F_G, FMAX and its shot's ceiling. -/
def tileFreq (s : State) (i : Nat) : Nat := min (min s.module.fg s.module.fmax) (shotCeil s (shotOf s i))

/-! ### Entering and leaving -/

/-- A tile becomes fallow or deep fallow, its cycle count held (R36); only one whose slots are all Free may. -/
def sleepTile (s : State) (p : TilePower) (i : Nat) : State :=
  let t := tileOf s i
  if t.slots.isEmpty then setTile s i { cycFix (envOf s i) t with power := p } else s

/-- A tile returns to running through tile reset. -/
def wakeTile (s : State) (i : Nat) : State :=
  let t := tileOf s i
  if t.power = .run then s else setTile s i { tileReset (envOf s i) t with power := .run, freq := tileFreq s i }

/-! ### Deep fallow (R216) -/

/-- Port tiles and Saddle attachment tiles. -/
def endTiles (w : Nat) : List (Nat × Nat) :=
  (List.range 64).flatMap (fun p => let a := portTile w p; [a, (a.1 + 1, a.2), (a.1, a.2 + 1), (a.1 + 1, a.2 + 1)]) ++
    (List.range 24).flatMap (fun k => (List.range 8).map (attachTile w k))

/-- Does a tile lie on an X-first route between a tile of a rectangle and a port or attachment tile, one way or the other? -/
def onRoute (w x0 y0 rw rh i : Nat) : Bool :=
  let x := ixX i
  let y := ixY i
  let inX := decide (x0 ≤ x ∧ x < x0 + rw)
  let inY := decide (y0 ≤ y ∧ y < y0 + rh)
  (endTiles w).any (fun p =>
    let hullX := decide (min x0 p.1 ≤ x ∧ x ≤ max (x0 + rw - 1) p.1)
    let hullY := decide (min y0 p.2 ≤ y ∧ y ≤ max (y0 + rh - 1) p.2)
    (inY && hullX) || (x == p.1 && hullY) || (y == p.2 && hullX) || (inX && hullY))

def deepTiles (s : State) : List Nat := (s.tiles.filter (fun p => p.2.power == .deep)).map (·.1)

/-- Does a tile lie on one of the two transit columns of its shot column (R213)? -/
def onTransit (s : State) (i : Nat) : Bool :=
  let x := (portTile (gridW s) (shotCol (gridW s) (ixX i))).1
  ixX i == x || ixX i == x + 1

def inSheafOf (b : Sheaf) (i : Nat) : Bool :=
  decide (b.x0 ≤ ixX i ∧ ixX i < b.x0 + b.w ∧ b.y0 ≤ ixY i ∧ ixY i < b.y0 + b.h)
def boundTile (s : State) (i : Nat) : Bool := s.sheaves.any (fun p => inSheafOf p.2 i)

/-- Does something forbid deep fallow of a tile: a port or attachment tile, a transit column while spurs are enabled, a route of a
bound sheaf other than the one given?. DEDUCED, log entry 40. -/
def deepBlocked (s : State) (but : Option Nat) (i : Nat) : Bool :=
  (endTiles (gridW s)).any (fun p => tileIx p.1 p.2 == i) || (s.straps.spur && onTransit s i) ||
    s.sheaves.any (fun p => some p.1 != but && onRoute (gridW s) p.2.x0 p.2.y0 p.2.w p.2.h i)

/-! ### Regions of the loop (R508) -/

/-- The 8 × 8 block of tiles from an origin. -/
def blockTiles (o : Nat) : List Nat := rectTiles (ixX o) (ixY o) 8 8

/-- AUTO_FALLOW: a block's origin and whether it became fallow. -/
def autoLog (s : State) (o : Nat) (on : Bool) : State := setEvt (logCairn s 0x1504 none (o + flagBit on 16)) evtThermal

/-- Blocks that the loop made fallow return to running. -/
def autoWake (s : State) (l : List Nat) : State :=
  let gone := s.module.autoFallow.filter (fun o => l.contains o)
  let s := { s with module := { s.module with autoFallow := s.module.autoFallow.filter (fun o => !l.contains o) } }
  gone.foldl (fun s o => autoLog ((blockTiles o).foldl wakeTile s) o false) s

/-- The blocks of a rectangle whose sides are multiples of 8. -/
def blocksOf (x0 y0 w h : Nat) : List Nat := (List.range (h / 8)).flatMap (fun j => (List.range (w / 8)).map (fun i => tileIx (x0 + 8 * i) (y0 + 8 * j)))

/-- The loop makes every block fallow that is in no sheaf and whose tiles all run (R508). -/
def autoSleep (s : State) : State :=
  let free := (blocksOf 0 0 (gridW s) 256).filter (fun o =>
    !boundTile s o && (blockTiles o).all (fun i => (tileOf s i).power == .run && (tileOf s i).slots.isEmpty))
  let s := { s with module := { s.module with autoFallow := s.module.autoFallow ++ free } }
  free.foldl (fun s o => autoLog ((blockTiles o).foldl (fun s i => sleepTile s .fallow i) s) o true) s

end Sys2Proof.Machine
end

