-- ==== Sys2Proof/Machine/CmdCtx.lean ====
section
/-! DEFINITION. The mailbox commands on versions, contexts and sheaves (R406, R407, R409): HELLO, CAPS, CTX_OPEN, CTX_CLOSE, SHEAF_BIND,
SHEAF_RELEASE, SHEAF_COTENANT, and GRAPH_CANCEL with its completion (R242). -/
namespace Sys2Proof.Machine

/-! ### Argument registers (R407) -/

def m32 : Nat := 0xFFFFFFFF

/-- Are all bits of the argument registers outside the given fields 0? `l` gives (register, mask of its fields). DEDUCED, log entry 25. -/
def argsOk (m : Msg) (l : List (Nat × Nat)) : Bool :=
  (List.range 14).all (fun i => argN m (i + 2) &&& ((l.find? (fun p => p.1 == i + 2)).map (·.2)).getD 0 == argN m (i + 2))

def argBits (m : Msg) (i hi lo : Nat) : Nat := bits (argN m i) hi lo
def argBit (m : Msg) (i b : Nat) : Bool := bitOf (argN m i) b
def okAns : Ans := ans stOk 0
def badArg (s : State) (n : Nat) : State := answer s n (ans stBadArg 0)
def denied (s : State) (n detail : Nat) : State := answer s n (ans stDenied detail)
def noRes (s : State) (n detail : Nat) : State := answer s n (ans stNoResource detail)
/-- DEDUCED, log entry 32. -/
def setAwait (s : State) (n : Nat) (w : Await) : State := updChan s n (fun c => { c with await := some w })

/-- A context whose slabs are still being scrubbed serves no access, so a command on it waits (R258). DEDUCED, log entry 32. -/
def beingScrubbed (s : State) (c : BitVec 8) : Bool := s.saddles.any (fun p => p.2.scrubs.any (fun r => r.owner == some c))
def onReady (s : State) (n : Nat) (c : BitVec 8) (any : Bool) (k : Ctx → State) : State :=
  if beingScrubbed s c then s else onCtx s n c any k

/-! ### HELLO (R406) -/

/-- Has the function of a channel open contexts? -/
def fnHasCtx (s : State) (n : Nat) : Bool :=
  s.ctxs.any (fun p => match p.2.opener with
    | .pf => isPf n
    | .vf v => isVf n && chanVf n == v
    | .secure _ => isSecure n
    | .detached => false)

/-- The feature bits that Nuarn offers. DEDUCED, log entry 26. -/
def nuarnFeatures : Nat := 0x3F

/-- DEDUCED, log entry 26. -/
def hello (s : State) (n : Nat) : State :=
  runCmd s n 0x0101 (fun _ => true) fun s m =>
    match (if s.cairn.ready then s.cairn.nuarn else none) with
    | none => answer s n (ans stVersionRefused 0)
    | some u =>
      if !argsOk m [(2, m32), (3, m32), (4, m32)] then badArg s n
      else
        let lo := max u.vmin (argBits m 2 15 0)
        let hi := min u.vmax (argBits m 2 31 16)
        let feats := argN2 m 3 &&& nuarnFeatures
        let new : Option Agreement := if hi < lo ∨ hi < u.vfloor then none else some ⟨hi, feats⟩
        let fn := chanFn n
        if fnHasCtx s n ∧ tabFind s.agree fn ≠ new then denied s n 0
        else match new with
          | none => answer { s with agree := tabDel s.agree fn } n (ans stVersionRefused u.vfloor)
          | some a => answer { s with agree := tabSet s.agree fn a } n
              (ansBody stOk 0 [w32 (a.version + 2 ^ 16 * u.vfloor), w32 feats, w32 (feats / 2 ^ 32), w32 u.imgVer
                             , w32 ((s.cairn.maelec.map (·.imgVer)).getD 0)])

/-! ### CAPS (R380, R407) -/

def engDev (s : State) : Nat := deviceId s + 2 ^ 16 * revisionId s
def engGrid (s : State) : Nat := gridW s + 256 * 2 ^ 16
def engCaps (s : State) : Nat :=
  (if s.straps.spur then 0xFF else 0) + 2 ^ 8 * s.straps.host.toNat + flagBit s.straps.sec 10 + flagBit s.straps.dbg 11
    + 2 ^ 12 * s.straps.pwr.toNat

/-- Bucket slots that the installed plans reserve (R303). -/
def slotsReserved (s : State) : Nat := (s.ctxs.map (fun p => (p.2.win.plan.map (fun pl => 2 * pl.window)).getD 0)).sum

def caps (s : State) (n : Nat) : State :=
  runCmd s n 0x0102 (fun _ => true) fun s m =>
    if !argsOk m [] then badArg s n
    else answer s n (ansBody stOk 0 [w32 (engDev s), w32 (engGrid s), w32 (engCaps s), w32 (engineId s).toNat
      , w32 Config.baseMac.toNat, w32 (Config.baseMac.toNat / 2 ^ 32), w32 Config.mgmtMac.toNat, w32 (Config.mgmtMac.toNat / 2 ^ 32)
      , w32 (s.ctxs.length + 2 ^ 16 * s.sheaves.length), w32 (1024 - slotsReserved s)])

/-! ### CTX_OPEN (R249, R409) -/

/-- Slabs of a stack that contexts may hold (R248): the carve-out takes the last four of N1 to N4. -/
def slabCount (k : Nat) : Nat := if 1 ≤ k ∧ k ≤ 4 then 472 else 476
/-- DESIGN CHOICE, log entry 28. -/
def freeSlabs (s : State) (k : Nat) : List Nat :=
  (List.range (slabCount k)).filter (fun n => !s.ctxs.any (fun p => (tabGet p.2.slabMap k []).contains n))

/-- The stacks of a mask. -/
def stacksOf (mask : Nat) : List Nat := (List.range 24).filter (fun k => bitOf mask k)

/-- A newly opened context. -/
def Ctx.fresh (op : Opener) (n vector mask slabs : Nat) (seed : BitVec 64) (slabMap : Tab (List Nat)) : Ctx :=
  { opener := op, chan := n, vector := vector, mask := mask, slabs := slabs, seed := seed, slabMap := slabMap
    window := match op with
      | .pf => true
      | _ => false
    closing := false, reset := none, resetsSeen := [], quiesced := [], waiting := [], graphs := [], nextSub := 0, subs := []
    past := [], newest := [], hwSet := false, segs := [], heldRecs := [], crSeq := 0, gsn := 0, gleanMarks := [], lastLayerTab := 0, loads := []
    itemLogs := [], faults := [], layers := [], layerPol := [], firstRep := [], anom := [], boundaryDone := none, win := .init, clip := [], sched := []
    peers := none, xrd := 0, cad := none, stook := none, sealing := [], parts := [], restored := none }

def openerOf (n : Nat) : Opener := if isPf n then .pf else if isVf n then .vf (chanVf n) else .secure (secureNo n)

def vectorOk (n v : Nat) : Bool :=
  if isPf n then decide (65 ≤ v ∧ v ≤ 127) else if isVf n then decide (4 ≤ v ∧ v ≤ 7) else v == 0

/-- DEDUCED, log entry 32. -/
def ctxOpen (s : State) (n : Nat) : State :=
  runCmd s n 0x0201 (fun _ => true) fun s m =>
    let mask := argBits m 2 23 0
    let slabs := argBits m 3 8 0
    let vector := argBits m 3 22 16
    let free? := (List.range 256).find? (fun i => (tabFind s.ctxs i).isNone)
    let want := argBit m 6 8
    let wanted := argBits m 6 7 0
    if !argsOk m [(2, 0xFFFFFF), (3, 0x7F01FF), (4, m32), (5, m32), (6, 0x1FF)] ∨ !vectorOk n vector then badArg s n
    else if mask = 0 ∨ slabs < 8 ∨ 476 < slabs then badArg s n
    else match free? with
      | none => noRes s n 0
      | some lowest =>
        if want && (tabFind s.ctxs wanted).isSome then noRes s n 2
        else if (stacksOf mask).any (fun k => (freeSlabs s k).length < slabs) then noRes s n 0
        else
          let c : BitVec 8 := BitVec.ofNat 8 (if want then wanted else lowest)
          if !maySpace s c then s
          else
            let seed := BitVec.ofNat 64 (argN2 m 4)
            let map := (stacksOf mask).map (fun k => (k, (freeSlabs s k).take slabs))
            let s := setCtx s c (Ctx.fresh (openerOf n) n vector mask slabs seed map)
            let s := advanceEpoch s c 5 0
            let s := map.foldl (fun s p => beginScrub (updSaddle s p.1 (fun d => { d with seeds := tabSet d.seeds c.toNat seed })) p.1 p.2 (some c)) s
            answer s n (ansBody stOk 0 [w32 (c.toNat + 2 ^ 8 * epochNow s c)])

/-! ### SHEAF_BIND (R13, R216, R409) -/

def sheafOverlap (s : State) (x0 y0 w h : Nat) : Bool :=
  s.sheaves.any (fun p => let b := p.2; decide (x0 < b.x0 + b.w ∧ b.x0 < x0 + w ∧ y0 < b.y0 + b.h ∧ b.y0 < y0 + h))

/-- The tags, organisation and role contexts that a bound sheaf gives its tiles: bank tags by the co-tenant's mask (R57). -/
def sheafTag (b : Sheaf) (k : Nat) : Nat := if b.second.isSome && bitOf b.mask k then 2 else 1

def roleCtx (s : State) (c : BitVec 8) : Option RoleCtx := (ctxOf s c).map (fun x => ⟨c, epochNow s c, x.seed⟩)

/-- The state that Maelec loads into a tile of a sheaf (R409, R411), and the tags, without scrubbing. -/
def loadSheafTile (s : State) (b : Sheaf) (t : Tile) : Tile :=
  { t with inSheaf := true, orgX := b.x0, orgY := b.y0, dimW := codeW b, dimH := b.h, pri := roleCtx s b.ctx
           snd := b.second.bind (roleCtx s), sramOwn := (List.range 12).map (fun k => (k, sheafTag b k)) }

/-- The scrub of a sheaf's tile: every SRAM bank, both accumulator banks free (R49, R59). -/
def scrubTile (t : Tile) : Tile :=
  { (List.range 12).foldl (fun t k => scrubBank k t) t with accA := .init, accB := .init, sramOwn := [] }

def sheafBind (s : State) (n : Nat) : State :=
  runCmd s n 0x0301 (fun _ => true) fun s m =>
    let c : BitVec 8 := BitVec.ofNat 8 (argN m 2)
    onReady s n c false fun _ =>
      let res := argBit m 2 8
      let x0 := argBits m 3 7 0
      let y0 := argBits m 3 15 8
      let w := argBits m 4 8 0
      let h := argBits m 4 24 16
      if res && !fromPf n then denied s n 0
      else if res && !hasFeature s n 1 then denied s n 1
      else if !argsOk m [(2, 0x1FF), (3, 0xFFFF), (4, 0x1FF01FF)] then badArg s n
      else if x0 % 8 ≠ 0 ∨ y0 % 8 ≠ 0 ∨ w % 8 ≠ 0 ∨ h % 8 ≠ 0 ∨ w < 8 ∨ h < 8 ∨ gridW s < x0 + w ∨ 256 < y0 + h then badArg s n
      else match (List.range 256).find? (fun i => (tabFind s.sheaves i).isNone) with
        | none => noRes s n 0
        | some k =>
          if sheafOverlap s x0 y0 w h ∨ (deepTiles s).any (onRoute (gridW s) x0 y0 w h) then noRes s n 0
          else
            let b : Sheaf := ⟨c, x0, y0, w, h, res, [], none, 0, none, none, none, []⟩
            let s := autoWake { s with sheaves := tabSet s.sheaves k b } (blocksOf x0 y0 w h)
            let s := onTiles s (sheafTiles b) (fun _ t => loadSheafTile s b (scrubTile t))
            answer s n (ansBody stOk 0 [w32 k])

/-! ### SHEAF_RELEASE (R409) -/

/-- Owner tags that a context holds on the tiles of a sheaf (R453). -/
def tagLeases (s : State) (b : Sheaf) (sec : Bool) : Nat :=
  ((sheafTiles b).map (fun i => let t := tileOf s i
    (t.sramOwn.filter (fun p => p.2 == roleTag sec)).length + (if t.accA.own = roleTag sec then 1 else 0)
      + (if t.accB.own = roleTag sec then 1 else 0))).sum

/-- A context without the kernel on some tiles. -/
def dropKernel (tiles : List Nat) (x : Ctx) : Ctx :=
  let keep (l : List KernelTask) : List KernelTask := l.filter (fun k => !tiles.contains k.tile)
  { x with peers := x.peers.map (fun t => { t with kernel := keep t.kernel })
           win := { x.win with plan := x.win.plan.map (fun p => { p with kernel := keep p.kernel }) } }

/-- A context leaves a sheaf: its graphs and its kernels there are placed nowhere any more, a field test of the sheaf holds it no longer. -/
def leaveSheaf (s : State) (h : Nat) (c : BitVec 8) : State :=
  let tiles := ((tabFind s.sheaves h).map sheafTiles).getD []
  unquiesce (updCtx s c (fun x =>
    { dropKernel tiles x with graphs := x.graphs.map (fun g => if g.sheaf = h then { g with sheaf := 256 } else g) })) c (.test h)

/-- The co-tenant's role on a tile ends: its banks go back to the primary, scrubbed; its accumulator banks are scrubbed and free. -/
def endSecond (c : BitVec 8) (t : Tile) : Tile :=
  let t := scrubRole true true (forgetRole true (dropBegun c (abortCtx c t)))
  { t with snd := none, sramOwn := (List.range 12).map (fun k => (k, 1)) }

/-- A tile of a sheaf that is freed. -/
def endTile (cs : List (BitVec 8)) (t : Tile) : Tile :=
  let t := cs.foldl (fun t c => dropBegun c (abortCtx c t)) t
  { scrubTile (forgetRole true (forgetRole false t)) with inSheaf := false, orgX := 0, orgY := 0, dimW := 0, dimH := 0, pri := none, snd := none }

/-- The sheaf, or its co-tenancy, is scrubbed and freed; the contexts' work on it has ended.
DESIGN CHOICE, log entry 28; DEDUCED, log entry 32. -/
def releaseSheaf (s : State) (h : Nat) (sec : Bool) : State :=
  match tabFind s.sheaves h with
  | none => s
  | some b =>
    let s := if sec then s else leaseLog s (some b.ctx) 2 (tagLeases s b false)
    let s := b.second.toList.foldl (fun s c => leaseLog s (some c) 2 (tagLeases s b true)) s
    let gone := (if sec then [] else [b.ctx]) ++ b.second.toList
    let s := gone.foldl (fun s c => leaveSheaf s h c) s
    if sec then
      let s := onTiles s (sheafTiles b) (fun _ t => gone.foldl (fun t c => endSecond c t) t)
      { s with sheaves := tabSet s.sheaves h { b with second := none, mask := 0, releasing := none } }
    else
      let s := onTiles s (sheafTiles b) (fun _ t => endTile gone t)
      { s with sheaves := tabDel s.sheaves h }

/-- Has a context unfinished work on a sheaf? -/
def workOn (s : State) (c : BitVec 8) (h : Nat) : Bool := ((ctxOf s c).map (fun x => (unfinished x).any (fun b => b.sheaf == h))).getD false

/-- The contexts whose work a release ends: the co-tenant's, and without SECONDARY the primary's too. -/
def releaseCtxs (b : Sheaf) (sec : Bool) : List (BitVec 8) := (if sec then [] else [b.ctx]) ++ b.second.toList

/-- Cancels the work of a context on a sheaf. -/
def cancelOn (s : State) (c : BitVec 8) (h : Nat) : State :=
  match ctxOf s c with
  | none => s
  | some x =>
    let nos := ((unfinished x).filter (fun b => b.sheaf == h)).map (·.no)
    if nos.isEmpty then s else beginCancel s c nos

/-- A release whose work has ended completes. -/
def finishRelease (s : State) (h : Nat) : State :=
  match tabFind s.sheaves h with
  | none => s
  | some b => match b.releasing with
    | none => s
    | some sec =>
      if (releaseCtxs b sec).any (fun c => workOn s c h) then s
      else answerAwaiting (releaseSheaf s h sec) (.release h sec) okAns

def sheafRelease (s : State) (n : Nat) : State :=
  runCmd s n 0x0302 (fun _ => true) fun s m =>
    let h := argBits m 2 7 0
    let sec := argBit m 2 8
    onSheaf s n h false fun b _ =>
      if beingScrubbed s b.ctx then s
      else if !argsOk m [(2, 0x1FF)] ∨ (sec && b.second.isNone) then badArg s n
      else
        let s := { s with sheaves := tabSet s.sheaves h { b with releasing := some sec } }
        let s := (releaseCtxs b sec).foldl (fun s c => cancelOn s c h) (setAwait s n (.release h sec))
        finishRelease s h

/-! ### SHEAF_COTENANT (R409) -/

/-- Does a window cover a masked bank? -/
def windowHits (mask : Nat) (w : Window) : Bool :=
  (List.range 12).any (fun k => bitOf mask k && decide (w.base < (k + 1) * 0x4000 ∧ k * 0x4000 < w.base + w.len))

/-- Does the sheaf hold reduction tiles of its primary's installed plan (R297)? -/
def holdsReserve (s : State) (b : Sheaf) (x : Ctx) : Bool :=
  x.win.plan.isSome && (sheafTiles b).any (fun i => (portOf (gridW s) (ixX i) (ixY i)).isSome)

/-- Are the tasks of a sheaf's primary quiesced: does none hold a slot on it (R57)? -/
def tagsQuiet (s : State) (b : Sheaf) : Bool := (sheafTiles b).all (fun i => (tileOf s i).slots.all (fun p => p.2.task.ctx != b.ctx))

/-- The co-tenant comes: masked banks are scrubbed, every tile of the sheaf is loaded anew. -/
def giveBanks (s : State) (h : Nat) (b : Sheaf) (c2 : BitVec 8) (mask : Nat) : State :=
  let b := { b with second := some c2, mask := mask }
  let s := { s with sheaves := tabSet s.sheaves h b }
  onTiles s (sheafTiles b) (fun _ t => loadSheafTile s b ((List.range 12).foldl (fun t k => if bitOf mask k then scrubBank k t else t) t))

/-- SHEAF_COTENANT: owner tags are written only while the sheaf's tasks are quiesced, so no instance of the primary begins until that has
been done. DEDUCED, log entry 32. -/
def sheafCotenant (s : State) (n : Nat) : State :=
  runCmd s n 0x0303 (fun _ => true) fun s m =>
    let h := argBits m 2 7 0
    let c2 : BitVec 8 := BitVec.ofNat 8 (argBits m 2 15 8)
    let mask := argBits m 3 11 0
    let s := match tabFind s.sheaves h with
      | some b => unquiesce s b.ctx (.tags h)
      | none => s
    onSheaf s n h false fun b x =>
      match ctxOf s c2 with
      | none => badArg s n
      | some x2 =>
        if x2.closing then badArg s n
        else match ctxStatus x2 with
          | some a => answer s n a
          | none =>
            if beingScrubbed s b.ctx ∨ beingScrubbed s c2 then s
            else if !hasFeature s n 0 then denied s n 1
            else if !argsOk m [(2, 0xFFFF), (3, 0xFFF)] ∨ mask = 0 ∨ mask = 0xFFF then badArg s n
            else if x.graphs.any (fun g => g.sheaf == h && g.tasks.any (fun t => t.wins.any (windowHits mask))) then badArg s n
            else if holdsReserve s b x ∧ mask / 2 ^ 8 ≠ 0 then badArg s n
            else if b.second.isSome then noRes s n 0
            else if c2 = b.ctx then badArg s n
            else if !tagsQuiet s b then quiesce s b.ctx (.tags h)
            else answer (giveBanks s h b c2 mask) n okAns

/-! ### CTX_CLOSE (R409) -/

/-- Does work remain that a close must end: the context's own, and that of co-tenants of its sheaves? -/
def closeWork (s : State) (c : BitVec 8) : Bool :=
  ((ctxOf s c).map (fun x => !(unfinished x).isEmpty)).getD false ||
    s.sheaves.any (fun p => p.2.ctx == c && p.2.second.toList.any (fun d => workOn s d p.1))

/-- The swath controllers of a closed context: entries and merge entries go. -/
def dropSwath (c : BitVec 8) (w : Swath) : Swath :=
  { w with table := w.table.filter (fun b => b.2.ctx != c), merges := w.merges.filter (fun m => !m.reqs.any (fun r => r.ctx == c))
           waiting := w.waiting.filter (fun r => r.ctx != c), reqs := w.reqs.filter (fun r => r.ctx != c) }

def leasesOf (s : State) (c : BitVec 8) : List Nat := (s.leases.filter (fun p => p.2 == c.toNat)).map (·.1)

/-- Releases everything a context holds and closes it. -/
def closeCtx (s : State) (c : BitVec 8) : State :=
  match ctxOf s c with
  | none => s
  | some x =>
    let s := advanceEpoch s c 4 0
    let tests := (sheavesOf s c).filter (fun p => p.2.ctx == c)
    let s := (sheavesOf s c).foldl (fun s p => releaseSheaf s p.1 (isSecond p.2 c)) s
    let s := leaseLog s (some c) 5 ((leasesOf s c).length + (x.slabMap.map (fun p => p.2.length)).sum)
    let s := dropCtxFills s c
    let s := { s with swaths := tabMap s.swaths (fun _ w => dropSwath c w) }
    let s := (leasesOf s c).foldl freeGranule s
    let s := x.slabMap.foldl (fun s p => beginScrub s p.1 p.2 none) s
    let s := (List.range 8).foldl (fun s j => if (spurOf s j).owner = some c then setSpurOwner s j none else s) s
    let s := { s with
      saddles := tabMap s.saddles (fun _ d => { d with
        reads := d.reads.filter (fun r => r.ctx != c), walks := tabDel d.walks c.toNat, bad := tabDel d.bad c.toNat
        seeds := tabDel d.seeds c.toNat })
      links := tabMap s.links (fun _ l => { l with store := l.store.filter (fun f => f.ctx != c) })
      upd := s.upd.filter (fun u => u.ctx != c)
      eth := { s.eth with xfers := s.eth.xfers.filter (fun t => t.ctx != c), jobs := s.eth.jobs.filter (fun j => j.ctx != c) }
      ctxs := tabDel s.ctxs c.toNat }
    let s := answerAwaiting (answerAwaiting s (.close c) okAns) (.verify c) (ans stBadArg 0)
    tests.foldl (fun s p => answerAwaiting s (.test p.1) (ans stBadArg 0)) s

/-- Are frames of a context on their way out of this engine over a spur? -/
def spurSends (s : State) (c : BitVec 8) (j : Nat) : Bool :=
  (spurPorts j).any (fun p => let l := linkOf s p
    (l.outq ++ l.replay).any (fun f => lwKind f.lw == 0 && hSrc f.hdr == engineId s && hCtx f.hdr == c))

/-- A close whose work has ended completes once the EPOCH may advance and the frames of the context have left its spurs (R367). -/
def finishClose (s : State) (c : BitVec 8) : State :=
  if ((ctxOf s c).map (·.closing)).getD false && !closeWork s c && maySpace s c && !(List.range 8).any (spurSends s c) then closeCtx s c else s

def ctxClose (s : State) (n : Nat) : State :=
  runCmd s n 0x0202 (fun _ => true) fun s m =>
    let c : BitVec 8 := BitVec.ofNat 8 (argN m 2)
    onReady s n c true fun x =>
      if !argsOk m [(2, 0xFF)] then badArg s n
      else
        let s := setAwait (setCtx s c (failStook { x with closing := true } false)) n (.close c)
        let s := (sheavesOf s c).foldl (fun s p =>
          if p.2.ctx = c then p.2.second.toList.foldl (fun s d => cancelOn s d p.1) s else s) s
        let nos := (unfinished x).map (·.no)
        let s := if nos.isEmpty then s else beginCancel s c nos
        finishClose s c

/-! ### GRAPH_CANCEL and its completion (R242) -/

def graphCancel (s : State) (n : Nat) : State :=
  runCmd s n 0x0403 (fun _ => true) fun s m =>
    let c : BitVec 8 := BitVec.ofNat 8 (argN m 2)
    onReady s n c true fun x =>
      let all := argBit m 2 8
      let no := argN m 3
      let nos := ((unfinished x).filter (fun b => all || b.no == no)).map (·.no)
      if !argsOk m [(2, 0x1FF), (3, m32)] ∨ (!all && decide (x.nextSub ≤ no)) then badArg s n
      else if nos.isEmpty then answer s n okAns
      else setAwait (beginCancel s c nos) n (.cancel c)

/-- Is a cancel of the context under way? -/
def cancelling (s : State) (c : BitVec 8) : Bool := ((ctxOf s c).map (fun x => x.subs.any (·.cancelling))).getD false

def sheafNos (s : State) : List Nat := s.sheaves.map (·.1)

/-- CANCEL_COMPLETE: the cancel ends, and what waited for it: GRAPH_CANCEL, SHEAF_RELEASE, CTX_CLOSE. A close that found nothing to cancel
and waited for its frames completes too. DEDUCED, log entry 32. -/
def cancelDone (s : State) (c : BitVec 8) : State :=
  let t := completeCancel s c
  if cancelling s c && !cancelling t c then
    let t := answerAwaiting t (.cancel c) okAns
    let t := (sheafNos t).foldl finishRelease t
    (ctxNames t).foldl finishClose t
  else if cancelling s c then s
  else finishClose s c

/-- EPOCH_ADVANCE: 20 ms after the last advance, one that waited takes place (R452). -/
def epochMay (s : State) (c : BitVec 8) : State :=
  if maySpace s c then s
  else
    let s := { s with spaced := s.spaced.filter (fun i => i != c.toNat) }
    let s := finishClose s c
    match (ctxOf s c).bind (·.reset) with
    | some r => if r.waitEpoch && maySpace s c then runReset s c else s
    | none => s

/-- HELLO (R406). -/
def execHello (chan : Nat) (s : State) : Host.Outcome State Fault Refusal :=
  .next (hello s chan)

/-- CAPS (R407). -/
def execCaps (chan : Nat) (s : State) : Host.Outcome State Fault Refusal :=
  .next (caps s chan)

/-- CTX_OPEN (R409). -/
def execCtxOpen (chan : Nat) (s : State) : Host.Outcome State Fault Refusal :=
  .next (ctxOpen s chan)

/-- CTX_CLOSE (R409). -/
def execCtxClose (chan : Nat) (s : State) : Host.Outcome State Fault Refusal :=
  .next (ctxClose s chan)

/-- SHEAF_BIND (R409). -/
def execSheafBind (chan : Nat) (s : State) : Host.Outcome State Fault Refusal :=
  .next (sheafBind s chan)

/-- SHEAF_RELEASE (R409). -/
def execSheafRelease (chan : Nat) (s : State) : Host.Outcome State Fault Refusal :=
  .next (sheafRelease s chan)

/-- SHEAF_COTENANT (R409). -/
def execSheafCotenant (chan : Nat) (s : State) : Host.Outcome State Fault Refusal :=
  .next (sheafCotenant s chan)

/-- GRAPH_CANCEL (R242). -/
def execGraphCancel (chan : Nat) (s : State) : Host.Outcome State Fault Refusal :=
  .next (graphCancel s chan)

/-- CANCEL_COMPLETE (R242). -/
def execCancelComplete (ctx : BitVec 8) (s : State) : Host.Outcome State Fault Refusal :=
  .next (cancelDone s ctx)

/-- EPOCH_ADVANCE (R452). -/
def execEpochAdvance (ctx : BitVec 8) (s : State) : Host.Outcome State Fault Refusal :=
  .next (epochMay s ctx)

end Sys2Proof.Machine
end

