-- ==== Sys2Proof/Machine/CmdGraph.lean ====
section
/-! DEFINITION. The graph commands (R90, R94 to R98, R174, R219 to R224, R270 to R274, R409): GRAPH_LOAD with its checks, GRAPH_SUBMIT,
GRAPH_UNLOAD. -/
namespace Sys2Proof.Machine

/-! ### Fields of structures -/

def fld (d : List Byte) (off n : Nat) : Nat := leNat ((d.drop off).take n)
/-- BAD_ARG from a structure: table code and index (R408). -/
def badAt (s : State) (n : Nat) (e : Nat × Nat) : State := answer s n (ansBody stBadArg e.1 [w32 e.2])
/-- The first failing index of a table. -/
def firstBad (code n : Nat) (bad : Nat → Bool) : Option (Nat × Nat) := ((List.range n).find? bad).map (fun i => (code, i))

def sectOf (d : List Byte) (off len : Nat) : List Byte := (d.drop off).take len

/-! ### The graph descriptor (R219 to R222) -/

structure DescHdr where
  wdog : Nat
  hwin : Nat
  ordq : Nat
  prom : Nat
  ntask : Nat
  nedge : Nat
  nvars : Nat
  nlayer : Nat
  taskOff : Nat
  edgeOff : Nat
  varOff : Nat
  layerOff : Nat
deriving DecidableEq, Repr

def descHdr (d : List Byte) : DescHdr :=
  ⟨fld d 2 1, fld d 3 1, fld d 4 1, fld d 5 1, fld d 8 4, fld d 12 4, fld d 16 4, fld d 20 4, fld d 24 8, fld d 32 8, fld d 40 8, fld d 48 8⟩

def hdrOk (d : List Byte) : Bool :=
  let h := descHdr d
  decide (64 ≤ d.length) && fld d 0 2 == 1 && decide (12 ≤ h.wdog ∧ h.wdog ≤ 36) && decide (h.ordq < 16) &&
    (h.prom == 0 || decide (10 ≤ h.prom ∧ h.prom ≤ 30)) && fld d 6 2 == 0 && decide (1 ≤ h.ntask ∧ h.ntask ≤ 1048576) &&
    decide (h.nedge ≤ 16777216) && decide (1 ≤ h.nvars ∧ h.nvars ≤ 3145728) && decide (h.nlayer ≤ 65536) && fld d 56 8 == 0 &&
    [(h.taskOff, 128 * h.ntask), (h.edgeOff, 8 * h.nedge), (h.varOff, 8 * h.nvars), (h.layerOff, 16 * h.nlayer)].all
      (fun p => p.1 % 64 == 0 && decide (p.1 + p.2 ≤ d.length))

/-- A field of a task entry, an edge entry and a variant entry. -/
def taskFld (d : List Byte) (i off n : Nat) : Nat := fld d ((descHdr d).taskOff + 128 * i + off) n
def edgeRaw (d : List Byte) (i : Nat) : Nat := fld d ((descHdr d).edgeOff + 8 * i) 8
def varRaw (d : List Byte) (i : Nat) : Nat := fld d ((descHdr d).varOff + 8 * i) 8

def edgeTarget (e : Nat) : Nat := bits e 19 0
def edgeData (e : Nat) : Bool := bitOf e 21
def varProfile (v : Nat) : Nat := bits v 19 18
def varEntry (v : Nat) : Nat := bits v 17 0

/-- The window entries of a task (R90, R220). -/
def taskWin (d : List Byte) (i k : Nat) : Nat := taskFld d i (96 + 8 * k) 8
def winOf (v : Nat) : Window := ⟨bits v 17 0, bits v 35 18, bitOf v 36, bitOf v 37, bitOf v 38⟩
def winOk (v : Nat) : Bool :=
  let w := winOf v
  decide (v < 2 ^ 39) && w.base % 64 == 0 && w.len % 64 == 0 && decide (64 ≤ w.len ∧ w.len ≤ 196608 ∧ w.base + w.len ≤ 0x30000)
def taskWins (d : List Byte) (i : Nat) : List Window := (List.range (taskFld d i 3 1)).map (fun k => winOf (taskWin d i k))

/-- The TID of a task with the step bits of a step-local TID as 0. -/
def bareTid (tid : Nat) : Nat := if tid ≥ 2 ^ 19 then 2 ^ 19 + tid % 2 ^ 17 else tid

/-- Does a task own an edge entry? -/
def ownsEdge (d : List Byte) (i e : Nat) : Bool := decide (taskFld d i 12 4 ≤ e ∧ e < taskFld d i 12 4 + taskFld d i 16 2)

/-- The TOKEN edges into a task. -/
def tokenEdges (d : List Byte) (i : Nat) : Nat :=
  ((List.range (descHdr d).nedge).filter (fun e => edgeTarget (edgeRaw d e) == i && !edgeData (edgeRaw d e))).length

/-- Does a window overlap the Winnow reserve (R297)? -/
def inReserve (w : Window) : Bool := decide (0x20000 < w.base + w.len)

def taskTile (b : Sheaf) (d : List Byte) (i : Nat) : Nat := tileIx (b.x0 + taskFld d i 0 1) (b.y0 + taskFld d i 1 1)

def taskBad (b : Sheaf) (x : Ctx) (d : List Byte) (i : Nat) : Bool :=
  let h := descHdr d
  let f (off n : Nat) : Nat := taskFld d i off n
  let tid := f 8 4
  let nwin := f 3 1
  let tile := taskTile b d i
  !(decide (f 0 1 < codeW b ∧ f 1 1 < b.h ∧ f 2 1 < 8 ∧ 1 ≤ nwin ∧ nwin ≤ 4 ∧ 1 ≤ f 6 1 ∧ f 6 1 ≤ 3) && f 7 1 == 0 &&
      decide (tid < 2 ^ 20) && f 18 2 == 0 && f 24 8 == 0 && (List.range 4).all (fun k => decide (f (64 + 8 * k) 8 < 2 ^ 48)) &&
      (List.range 4).all (fun k => if k < nwin then winOk (taskWin d i k) else taskWin d i k == 0) &&
      (f 16 2 == 0 || decide (f 12 4 + f 16 2 ≤ h.nedge)) && decide (f 20 4 + f 6 1 ≤ h.nvars) && !kernelTid tid &&
      !((ctxKernels x).any (fun k => k.tile == tile) && (taskWins d i).any inReserve) &&
      !((List.range i).any (fun j => taskTile b d j == tile && bareTid (taskFld d j 8 4) == bareTid tid)) &&
      decide (tokenEdges d i ≤ f 4 2))

def edgeBad (d : List Byte) (e : Nat) : Bool :=
  let v := edgeRaw d e
  decide (2 ^ 24 ≤ v) || bits v 23 22 == 3 || decide ((descHdr d).ntask ≤ edgeTarget v) ||
    ((List.range (descHdr d).ntask).filter (fun i => ownsEdge d i e)).length != 1

/-! ### Variants (R98) -/

/-- The latency profile of the stepping. -/
def profileOf (s : State) : Nat := if s.dev.stepB0 then 2 else 1
def taskVars (d : List Byte) (i : Nat) : List Nat := (List.range (taskFld d i 6 1)).map (fun k => varRaw d (taskFld d i 20 4 + k))
/-- The variant that the loader selects: the stepping's, or the generic one. -/
def pickVar (s : State) (d : List Byte) (i : Nat) : Option Nat :=
  match (taskVars d i).find? (fun v => varProfile v == profileOf s) with
  | some v => some v
  | none => (taskVars d i).find? (fun v => varProfile v == 0)

def varBad (s : State) (d : List Byte) (j : Nat) : Bool :=
  let v := varRaw d j
  decide (2 ^ 20 ≤ v) || varProfile v == 3 || varEntry v % 8 != 0 ||
    (List.range (descHdr d).ntask).any (fun i =>
      let v0 := taskFld d i 20 4
      let n := taskFld d i 6 1
      (j == v0 && (pickVar s d i).isNone) ||
        (decide (v0 < j ∧ j < v0 + n) && (List.range (j - v0)).any (fun k => varProfile (varRaw d (v0 + k)) == varProfile v)))

/-! ### Layer entries (R174) -/

/-- Layer, FMTREG and CFMTW of a layer entry. -/
def layerOf (d : List Byte) (i : Nat) : Nat × Nat × Nat :=
  let o := (descHdr d).layerOff + 16 * i
  (fld d o 4, fld d (o + 4) 4, fld d (o + 8) 4)
/-- What the table holds for a layer before an entry of the object is applied: an earlier entry's value, or the table's. -/
def layerBefore (s : State) (x : Ctx) (d : List Byte) (i : Nat) : Option Nat :=
  let l := (layerOf d i).1
  match (List.range i).find? (fun j => (layerOf d j).1 == l) with
  | some j => if x.layers.contains l then some (layerFmt s x l) else some (layerOf d j).2.1
  | none => if x.layers.contains l then some (layerFmt s x l) else none

/-- Compute formats from the narrowest: 0x7, 0x3, 0x1, 0x0. -/
def fmtWidth (f : Nat) : Nat := if f = 7 then 0 else if f = 3 then 1 else if f = 1 then 2 else 3
def computeFmt (f : Nat) : Bool := f == 7 || f == 3 || f == 1 || f == 0
/-- FLOOR, NARROW, GE5, STREAM and AUTO. -/
def keptFields : Nat := 0x0F0006F8

def layerBad (s : State) (x : Ctx) (d : List Byte) (i : Nat) : Bool :=
  let (l, reg, cfmt) := layerOf d i
  let old := layerBefore s x d i
  let floor := bits reg 27 24
  let sexp := bits reg 23 16
  let stream := bits reg 7 4
  !(fld d ((descHdr d).layerOff + 16 * i + 12) 4 == 0 && decide (l < 65536) && reg &&& 0xF000F807 == 0 && computeFmt cfmt &&
      computeFmt floor && decide (fmtWidth floor ≤ fmtWidth cfmt) && (stream == 5 || stream == 1) &&
      (if sexp = 0x80 then old.isSome else decide (-64 ≤ sextN sexp 8 ∧ sextN sexp 8 ≤ 63)) &&
      (match old with
       | some o => o &&& keptFields == reg &&& keptFields
       | none => true))

/-- Applies a layer entry: a new layer's entry whole, a known layer's SEXP as a host write. -/
def putLayer (s : State) (c : BitVec 8) (d : List Byte) (i : Nat) : State :=
  match ctxOf s c with
  | none => s
  | some x =>
    let (l, reg, cfmt) := layerOf d i
    if x.layers.contains l then
      if bits reg 23 16 = 0x80 then s
      else updCtx s c (fun x => { x with layerPol := tabSet x.layerPol l { polOf x l with hostSexp := some (bits reg 23 16) } })
    else updCtx (viewPut s x (atLayers + 8 * l) 8 (reg + 2 ^ 32 * cfmt)) c (fun x => { x with layers := x.layers ++ [l] })

/-! ### Sections, relocations, block tables, stream plan -/

/-- Do the sections lie in the object? -/
def sectionsIn (d : List Byte) (o : ObjLayout) : Bool :=
  [(o.descOff, o.descLen), (o.codeOff, o.codeLen), (o.dataOff, o.dataLen), (o.hbmOff, o.hbmLen), (o.relOff, 16 * o.relN)
  , (o.blkOff, 16 * o.blks.length), (o.planOff, 16 * o.planN), (o.tidOff, 4 * o.tidN)].all (fun p => decide (p.1 + p.2 ≤ d.length))

/-- The placement of code section and tile data segment (R222): 0 code, 1 data. -/
def placeBad (o : ObjLayout) : Option (Nat × Nat) :=
  if o.codeAt % 8 ≠ 0 ∨ 0x30000 < o.codeAt + o.codeLen then some (7, 0)
  else if o.dataAt % 64 ≠ 0 ∨ 0x30000 < o.dataAt + o.dataLen then some (7, 1)
  else if 0 < o.codeLen ∧ 0 < o.dataLen ∧ o.codeAt < o.dataAt + o.dataLen ∧ o.dataAt < o.codeAt + o.codeLen then some (7, 1)
  else none

def relocAt (d : List Byte) (o : ObjLayout) (i : Nat) : Reloc :=
  let p := o.relOff + 16 * i
  let sh := fld d (p + 7) 1
  ⟨fld d p 4, fld d (p + 4) 1, fld d (p + 5) 1, fld d (p + 6) 1, bitOf sh 7, sh % 128, sextN (fld d (p + 8) 8) 64⟩
def relocsOf (d : List Byte) (o : ObjLayout) : List Reloc := (List.range o.relN).map (relocAt d o)

/-- The compute format of a layer as the object's own declarations leave it. -/
def fmtAfter (s : State) (x : Ctx) (g : List Byte) (l : Nat) : Option Nat :=
  if x.layers.contains l then some (layerCfmt s x l)
  else ((List.range (descHdr g).nlayer).find? (fun i => (layerOf g i).1 == l)).map (fun i => (layerOf g i).2.2)

/-- A block table entry of the object (R272); the loader fills in CTX and STATE. -/
def blkAt (d : List Byte) (o : ObjLayout) (c : BitVec 8) (i : Nat) : BlkEntry :=
  let p := o.blkOff + 16 * i
  ⟨fld d (p + 14) 2, fld d (p + 13) 1 + 1, fld d (p + 12) 1, fld d (p + 11) 1, fld d (p + 8) 3, fld d (p + 4) 4
  , BitVec.ofNat 20 (fld d p 4), c, .empty, [], 0⟩

def blkOverlap (a b : BlkEntry) : Bool := decide (a.base < b.base + 64 * b.len ∧ b.base < a.base + 64 * a.len)

/-- Does the granule of a port die hold a resend store of the context's plan (R317)? -/
def storeGranule (x : Ctx) (g : Nat) : Bool := ((x.win.plan.map (·.stores)).getD []).contains g

/-- DEDUCED, log entry 29. -/
def blkBad (s : State) (d : List Byte) (o : ObjLayout) (c : BitVec 8) (i : Nat) : Bool :=
  match o.blks[i]? with
  | none => true
  | some (port, entry) =>
    let b := blkAt d o c i
    !(decide (port < 64 ∧ entry < 256 ∧ 1 ≤ b.readers ∧ 1 ≤ b.len ∧ b.len ≤ 524288 ∧ b.base + 64 * b.len ≤ 2 ^ 25) && b.base % 64 == 0 &&
        (b.sfmt == 1 || b.sfmt == 5) && (decide (b.src < 24) || b.src == 0x80) && decide (fld d (o.blkOff + 16 * i) 4 < 2 ^ 30) &&
        (swathOf s port).table.all (fun p => p.1 != entry && !blkOverlap b p.2) &&
        (List.range i).all (fun j => match o.blks[j]? with
          | some (q, e) => q != port || (e != entry && !blkOverlap b (blkAt d o c j))
          | none => true))

/-- The granules that the block ranges need, and those asked for beyond them. -/
def granulesOf (d : List Byte) (o : ObjLayout) (c : BitVec 8) : List Nat :=
  let need := (o.blks.zipIdx).flatMap (fun p =>
    let b := blkAt d o c p.2
    let lo := b.base / 2 ^ 20
    (List.range ((b.base + 64 * b.len - 1) / 2 ^ 20 + 1 - lo)).map (fun k => 32 * p.1.1 + lo + k))
  ((need ++ o.granules).filter (fun g => decide (g < 2048))).foldl (fun l g => addNew g l) []

/-- The entry that a stream plan item names: the object's, or one that the context already has. -/
def itemEntry (s : State) (d : List Byte) (o : ObjLayout) (c : BitVec 8) (port entry : Nat) : Option BlkEntry :=
  match o.blks.findIdx? (fun p => p == (port, entry)) with
  | some i => some (blkAt d o c i)
  | none => (tabFind (swathOf s port).table entry).filter (fun b => b.ctx == c)

def itemAt (d : List Byte) (o : ObjLayout) (i : Nat) : Nat × Nat × Nat :=
  let p := o.planOff + 16 * i
  (fld d p 8, fld d (p + 9) 1, fld d (p + 10) 2)

/-- DEDUCED, log entry 29. -/
def itemBad (s : State) (x : Ctx) (d : List Byte) (o : ObjLayout) (c : BitVec 8) (i : Nat) : Bool :=
  let (src, port, entry) := itemAt d o i
  let p := o.planOff + 16 * i
  !(decide (src < 2 ^ 44 ∧ port < 64 ∧ entry < 256) && src % 64 == 0 && fld d (p + 8) 1 == 0 && fld d (p + 12) 4 == 0 &&
      (match itemEntry s d o c port entry with
       | some b => decide (src + 64 * b.len ≤ viewSz x) && b.src != 0x80 && (viewDecode (x.mask, x.slabs) src).1 == b.src &&
           (viewDecode (x.mask, x.slabs) (src + 64 * b.len - 1)).1 == b.src
       | none => false))

/-! ### HBM space (R222, R252) -/

/-- The highest place in the free area of a view that the context's segments leave free. DESIGN CHOICE, log entry 28. -/
def placeBelow (size : Nat) : Nat → List (Nat × Nat) → Option Nat
  | top, [] => if freeArea + size ≤ top then some (top - size) else none
  | top, (o, n) :: l => if o + n + size ≤ top then some (top - size) else placeBelow size (min top o) l

def insertSeg (p : Nat × Nat) : List (Nat × Nat) → List (Nat × Nat)
  | [] => [p]
  | q :: l => if q.1 ≤ p.1 then p :: q :: l else q :: insertSeg p l

/-- What a graph takes: HBM segment, descriptor, task lists, stream plan, each from a line on. -/
def segSize (g : List Byte) (o : ObjLayout) : Nat :=
  up (up o.hbmLen 64 + up g.length 64 + up (8 * (descHdr g).ntask) 64 + 16 * o.planN) 4096
def segPlace (x : Ctx) (size : Nat) : Option Nat := placeBelow size (viewSz x) x.segs

/-! ### GRAPH_LOAD -/

/-- The checks of an object on a sheaf, in the order of the table codes. DEDUCED, log entry 29. -/
def loadErr (s : State) (b : Sheaf) (c : BitVec 8) (x : Ctx) (d : List Byte) (o : ObjLayout) (hbmAt : Nat) : Option (Nat × Nat) :=
  if !sectionsIn d o then some (7, 0)
  else
    let g := sectOf d o.descOff o.descLen
    if !hdrOk g ∨ (x.hwSet ∧ (descHdr g).hwin ≠ viewRead s x cbHwW 1) then some (1, 0)
    else
      let h := descHdr g
      let k : RelCtx := { relCtx s x b o.dataAt hbmAt with fmt := fmtAfter s x g }
      (firstBad 2 h.ntask (taskBad b x g)).orElse fun _ => (firstBad 3 h.nedge (edgeBad g)).orElse fun _ =>
        (firstBad 4 h.nvars (varBad s g)).orElse fun _ => (firstBad 5 h.nlayer (layerBad s x g)).orElse fun _ =>
          (firstBad 6 o.relN (fun i => !relocOk k o.codeLen (relocAt d o i))).orElse fun _ => (placeBad o).orElse fun _ =>
            (firstBad 0 o.blks.length (blkBad s d o c)).orElse fun _ => firstBad 0 o.planN (itemBad s x d o c)

/-- The tasks of a descriptor with their replay information (R220, R445). -/
def mkTask (s : State) (b : Sheaf) (g : List Byte) (o : ObjLayout) (i : Nat) : GTask :=
  let f (off n : Nat) : Nat := taskFld g i off n
  let r := o.replay.find? (fun r => r.task == i)
  { tile := taskTile b g i, queue := f 2 1 % 4, stepArg := bitOf (f 2 1) 2, tid := BitVec.ofNat 20 (f 8 4), tokens := f 4 2
    entry := BitVec.ofNat 18 (varEntry ((pickVar s g i).getD 0))
    args := (List.range 8).map (fun k => w32 (f (32 + 4 * k) 4)), bases := (List.range 4).map (fun k => BitVec.ofNat 48 (f (64 + 8 * k) 8))
    wins := taskWins g i
    edges := (List.range (f 16 2)).map (fun k => let e := edgeRaw g (f 12 4 + k); ⟨edgeTarget e, edgeData e, bitOf e 20, bits e 23 22⟩)
    anchors := (r.map (·.anchors)).getD [] |>.map (fun a => ⟨a.1, a.2.1, a.2.2.1, a.2.2.2.1, a.2.2.2.2.1, a.2.2.2.2.2⟩)
    producers := (r.map (·.producers)).getD [], reads := (r.map (·.reads)).getD [] }

/-- New TIDs of the health directory (R257). -/
def newTids (s : State) (x : Ctx) (d : List Byte) (o : ObjLayout) : List Nat :=
  (List.range o.tidN).foldl (fun l i =>
    let t := fld d (o.tidOff + 4 * i) 4
    if (tidIndex s x t).isSome || l.contains t then l else l ++ [t]) []

/-- Leases a granule to a context, scrubbed (R270). -/
def leaseGranule (s : State) (c : BitVec 8) (g : Nat) : State :=
  if tabFind s.leases g = some c.toNat then s
  else let s := freeGranule s g; { s with leases := tabSet s.leases g c.toNat }

/-- Loads a checked object: layer table, health window, HBM segment, descriptor, stream plan, block tables, code and data.
DEDUCED, log entry 29. -/
def loadObject (s : State) (n h : Nat) (b : Sheaf) (c : BitVec 8) (x : Ctx) (d : List Byte) (o : ObjLayout) (hbmAt : Nat) : State :=
  let g := sectOf d o.descOff o.descLen
  let hd := descHdr g
  let k : RelCtx := { relCtx s x b o.dataAt hbmAt with fmt := fmtAfter s x g }
  let relocs := relocsOf d o
  let code := relocCode k relocs (sectOf d o.codeOff o.codeLen)
  let tids := newTids s x d o
  let nt := viewRead s x cbHwNt 2
  let handle := ((List.range 65).find? (fun i => (findGraph x i).isNone)).getD 0
  let noMatch := (List.range hd.ntask).any (fun i => (taskVars g i).all (fun v => varProfile v != profileOf s))
  let grans := granulesOf d o c
  let graph : Graph :=
    { handle := handle, sheaf := h, ordq := hd.ordq, prom := hd.prom, wdog := hd.wdog, hwin := hd.hwin
      tasks := (List.range hd.ntask).map (mkTask s b g o), code := code, codeAt := o.codeAt, dataAt := o.dataAt, data := sectOf d o.dataOff o.dataLen
      hbmAt := hbmAt, hbmLen := segSize g o, relocs := relocs, entries := o.blks, granules := grans
      stream := (List.range o.planN).map (itemAt d o), layers := (List.range hd.nlayer).map (fun i => (layerOf g i).1) }
  let s := grans.foldl (fun s a => leaseGranule s c a) s
  let s := (o.blks.zipIdx).foldl (fun s p =>
    let w := swathOf s p.1.1
    setSwath s p.1.1 { w with table := tabSet w.table p.1.2 (blkAt d o c p.2) }) s
  let s := if x.hwSet then s else viewPut s x cbHwW 1 hd.hwin
  let s := (tids.zipIdx).foldl (fun s p => viewPut s x (atTids + 4 * (nt + p.2)) 4 p.1) s
  let s := viewPut s x cbHwNt 2 (nt + tids.length)
  let at1 := hbmAt + up o.hbmLen 64
  let s := viewWrite s x hbmAt (sectOf d o.hbmOff o.hbmLen)
  let s := viewWrite s x at1 g
  let s := viewWrite s x (at1 + up g.length 64 + up (8 * hd.ntask) 64) (sectOf d o.planOff (16 * o.planN))
  let s := (List.range hd.nlayer).foldl (fun s i => putLayer s c g i) s
  let s := updCtx s c (fun x => { x with graphs := x.graphs ++ [graph], segs := insertSeg (hbmAt, segSize g o) x.segs, hwSet := true })
  let s := placeGraph s graph
  let s := if noMatch then { s with notices := s.notices ++ [.performance c handle] } else s
  answer s n (ansBody stOk (if noMatch then 1 else 0) [w32 handle])

/-- DESIGN CHOICE, log entry 28. -/
def graphLoad (s : State) (n : Nat) (o : ObjLayout) : State :=
  runCmd s n 0x0401 (fun _ => true) fun s m =>
    let c : BitVec 8 := BitVec.ofNat 8 (argN m 2)
    onReady s n c false fun x =>
      let h := argBits m 2 15 8
      let off := argN2 m 3
      let len := argN m 5
      if !argsOk m [(2, 0xFFFF), (3, m32), (4, 0xFFF), (5, m32)] ∨ (staged m ∧ (off ≠ 0 ∨ len ≠ 0)) then badArg s n
      else match tabFind s.sheaves h with
        | none => badArg s n
        | some b =>
          if b.ctx ≠ c ∧ b.second ≠ some c then badArg s n
          else withStruct s n m (some x) (some (off, len)) fun s d =>
            match ctxOf s c with
            | none => s
            | some x =>
              let g := sectOf d o.descOff o.descLen
              let at? := segPlace x (segSize g o)
              match loadErr s b c x d o (at?.getD 0) with
              | some e => badAt s n e
              | none =>
                if !hasFeature s n 5 ∧ (List.range (descHdr g).nvars).any (fun j => varProfile (varRaw g j) != 0) then denied s n 1
                else if 64 ≤ x.graphs.length ∨ (granulesOf d o c).any (fun a => ((tabFind s.leases a).map (fun e => e != c.toNat)).getD false || storeGranule x a) ∨
                    16384 < viewRead s x cbHwNt 2 + (newTids s x d o).length then noRes s n 0
                else match at? with
                  | none => noRes s n 0
                  | some hbmAt => loadObject s n h b c x d o hbmAt

/-! ### GRAPH_SUBMIT (R223, R224) -/

/-- The submission that a new one extends: the one accepted last on the sheaf, unfinished, of the same graph, ending one step before. -/
def extends? (x : Ctx) (g : Graph) (first : W32) : Option Submission :=
  match tabFind x.newest g.sheaf with
  | none => none
  | some no => match findSub x no with
    | some b => if b.finished ∨ b.cancelling ∨ b.graph ≠ g.handle ∨ b.first + w32 b.count ≠ first then none else some b
    | none => none

/-- DESIGN CHOICE, log entry 28. -/
def graphSubmit (s : State) (n : Nat) : State :=
  runCmd s n 0x0402 (fun _ => true) fun s m =>
    let c : BitVec 8 := BitVec.ofNat 8 (argN m 2)
    onReady s n c false fun x =>
      let first := w32 (argN m 3)
      let count := argN m 4
      let notify := argBit m 2 24
      match findGraph x (argBits m 2 23 8) with
      | none => badArg s n
      | some g =>
        if !argsOk m [(2, 0x1FFFFFF), (3, m32), (4, m32)] ∨ count = 0 ∨ 256 ≤ g.sheaf then badArg s n
        else match extends? x g first with
          | some b =>
            if 2 ^ 32 ≤ b.count + count then badArg s n
            else answer (wakeSteward (setCtx s c (updSub x b.no (fun b => { b with count := b.count + count, notify := notify }))) (homeSteward c)) n
              (ansBody stAccepted 0 [w32 b.no])
          | none =>
            if 16 ≤ ((unfinished x).filter (fun b => b.sheaf == g.sheaf)).length then noRes s n 0
            else
              let b : Submission := ⟨x.nextSub, g.sheaf, g.handle, first, count, notify, false, 0, [], false, false, false⟩
              let x := { x with subs := x.subs ++ [b], nextSub := x.nextSub + 1, newest := tabSet x.newest g.sheaf x.nextSub }
              answer (wakeSteward (setCtx s c x) (homeSteward c)) n (ansBody stAccepted 0 [w32 b.no])

/-! ### GRAPH_UNLOAD (R409) -/

/-- Frees what a graph holds: block table entries, granules that no other graph uses, its HBM space and handle. -/
def unloadGraph (s : State) (c : BitVec 8) (x : Ctx) (g : Graph) : State :=
  let rest := x.graphs.filter (fun y => y.handle != g.handle)
  let s := g.entries.foldl (fun s p =>
    let s := dropFills (fun _ f => f.entry == p.2) s p.1
    let w := swathOf s p.1
    setSwath s p.1 { w with table := tabDel w.table p.2 }) s
  let s := (g.granules.filter (fun a => !rest.any (fun y => y.granules.contains a))).foldl freeGranule s
  setCtx s c { x with graphs := rest, segs := x.segs.filter (fun q => q.1 != g.hbmAt) }

/-- GRAPH_UNLOAD. A FAULTED context answers FAULTED (R403, step 5) before it could be DENIED (R409). DEDUCED, log entry 32. -/
def graphUnload (s : State) (n : Nat) : State :=
  runCmd s n 0x0404 (fun _ => true) fun s m =>
    let c : BitVec 8 := BitVec.ofNat 8 (argN m 2)
    onReady s n c false fun x =>
      match findGraph x (argBits m 2 23 8) with
      | none => badArg s n
      | some g =>
        if !argsOk m [(2, 0xFFFFFF)] then badArg s n
        else if (unfinished x).any (fun b => b.graph == g.handle) ∨
            ((x.win.plan.map (·.convs)).getD []).any (fun v => v.graph == g.handle) then denied s n 2
        else answer (unloadGraph s c x g) n okAns

/-- GRAPH_LOAD (R222). -/
def execGraphLoad (chan : Nat) (obj : ObjLayout) (s : State) : Host.Outcome State Fault Refusal :=
  .next (graphLoad s chan obj)

/-- GRAPH_SUBMIT (R223). -/
def execGraphSubmit (chan : Nat) (s : State) : Host.Outcome State Fault Refusal :=
  .next (graphSubmit s chan)

/-- GRAPH_UNLOAD (R409). -/
def execGraphUnload (chan : Nat) (s : State) : Host.Outcome State Fault Refusal :=
  .next (graphUnload s chan)

end Sys2Proof.Machine
end

