-- ==== Sys2Proof/Machine/Stream.lean ====
section
/-! DEFINITION. Swath streaming (R201 to R203, R270 to R276): stream formats and the conversion of SWREAD, merge entries, block
table entries and their fills, fill bindings (R370), and the stream sequencers. -/
namespace Sys2Proof.Machine

/-! ### Stream blocks and conversion (R271, R275) -/

/-- The element encodings and the scale of block i of a stream that starts at a buffer offset. -/
def srcBlock (buf : Mem) (sf base i : Nat) : List Nat × Nat :=
  if sf = 5 then
    let g := base + 2112 * (i / 64)
    (elemsOf (memRead buf (g + 32 * (i % 64)) 32) 8 32, (memRd buf (g + 2048 + i % 64)).toNat)
  else (elemsOf (memRead buf (base + 64 * i) 64) 16 32, 0)

/-- The buffer lines that block i takes. -/
def blockLines (sf base i : Nat) : List Nat :=
  if sf = 5 then
    let g := base + 2112 * (i / 64)
    [(g + 32 * (i % 64)) / 64, (g + 2048 + i % 64) / 64]
  else [base / 64 + i]

/-- The elements of a stream block as FP32 values, as VCVT widens them. -/
def blockVals (sf : Nat) (b : List Nat × Nat) : List FVal :=
  if sf = 5 then b.1.map (fun r => f32 (rne32 (mxVal fmtE4M3 r b.2))) else b.1.map (decodeF fmtBF16)

/-- An MX element under the scale of its stream block: rounded, clamped to the largest finite value. The manual leaves a NaN element
open, where R143's scale 0xFF for such a block meets R275's "written scales are those of the stream": the model keeps the stream's
scale and writes the largest value with the NaN's sign. DESIGN CHOICE, log entry 4. -/
def mxKeep (F : Fmt) (rm scale r : Nat) : Nat :=
  if scale = 255 then 0
  else
    let x := decodeF fmtE4M3 r
    let e := rmRound F rm 0 x
    if (decodeF F e).isFinite then e else signBits F (decide (r ≥ 128)) + F.maxBits

/-- One block in the destination format: encodings, and the scale where the format has one. The written scale is that of the
stream where the stream has one. -/
def convBlock (sf fmt rm : Nat) (b : List Nat × Nat) : List Nat × List Nat :=
  if sf = fmt then (b.1, if sf = 5 then [b.2] else [])
  else match mxFmt fmt with
    | some (F, emax) =>
      if sf = 5 then (b.1.map (mxKeep F rm b.2), [b.2])
      else
        let o := mxNarrow F emax rm (fun _ => 0) (blockVals sf b)
        (o.2, [o.1])
    | none => (match fmtOfCode fmt with
        | some F => (blockVals sf b).map (rmRound F rm 0)
        | none => b.1, [])

/-- The elements of each column of stream blocks, one list per vector. -/
def swCol {α : Type} (buf : Mem) (sf base kb nv : Nat) (f : List Nat × Nat → List α) : List (List α) :=
  (List.range nv).map (fun v => (List.range kb).flatMap (fun j => f (srcBlock buf sf base (v * kb + j))))

/-- The destination vectors of a SWREAD in order: element encodings and scales of each. -/
def swRows (buf : Mem) (sf : Nat) (r : SwReq) : List (List Nat × List Nat) :=
  let base := r.addr % 2 ^ 25
  let kb := r.kb + 1
  let nv := r.n / kb
  let blk (v j : Nat) := srcBlock buf sf base (v * kb + j)
  if !r.t then
    (List.range nv).map (fun v =>
      let bs := (List.range kb).map (fun j => convBlock sf r.fmt r.rm (blk v j))
      (bs.flatMap (·.1), bs.flatMap (·.2)))
  else
    match mxFmt r.fmt with
    | some (F, emax) =>
      let vals := swCol buf sf base kb nv (blockVals sf)
      (List.range (32 * kb)).map (fun k =>
        let xs := vals.map (fun l => (l[k]?).getD FVal.zero)
        let bs := (List.range (nv / 32)).map (fun g => mxNarrow F emax r.rm (fun _ => 0) ((xs.drop (32 * g)).take 32))
        (bs.flatMap (·.2), bs.map (·.1)))
    | none =>
      let encs := swCol buf sf base kb nv (fun b => (convBlock sf r.fmt r.rm b).1)
      (List.range (32 * kb)).map (fun k => (encs.map (fun l => (l[k]?).getD 0), []))

/-- The first `n` bytes of a line as a mask. -/
def byteMask (n : Nat) : BitVec 64 := BitVec.ofNat 64 (2 ^ min n 64 - 1)

/-- A run of `bytes` bytes as lines with masks, from an offset. -/
def runLines (off bytes : Nat) (v : Nat) : List (Nat × Line × BitVec 64) :=
  (List.range (ceilDiv bytes 64)).map (fun j => (off + 64 * j, BitVec.ofNat 512 (v >>> (512 * j)), byteMask (bytes - 64 * j)))

/-- The lines of a SWREAD answer: offset from A(rd), data, and the bytes each carries. -/
def swLines (buf : Mem) (sf : Nat) (r : SwReq) : List (Nat × Line × BitVec 64) :=
  let nv := r.n / (r.kb + 1)
  let kdst := if r.t then nv else 32 * (r.kb + 1)
  let first := if r.t then 0 else r.v0
  let b := elemBits r.fmt
  let p := rowLines b kdst
  let ps := scaleLines kdst
  ((swRows buf sf r).zipIdx).flatMap (fun q =>
    runLines (64 * p * (first + q.2)) (kdst * b / 8) (ofElems b q.1.1) ++
      runLines (4096 * p + 64 * ps * (first + q.2)) q.1.2.length (ofElems 8 q.1.2))

/-- The stream blocks whose values line n of an answer carries. Under T every vector takes an element of every block. A row takes its own
blocks, a line of its elements those alone that it holds. -/
def lineBlocks (r : SwReq) (n : Nat) : List Nat :=
  if r.t then List.range r.n
  else
    let kb := r.kb + 1
    let bits := 32 * kb * elemBits r.fmt
    let pay := ceilDiv (bits / 8) 64
    let per := pay + (if (mxFmt r.fmt).isSome then ceilDiv kb 64 else 0)
    let v := n / per
    let j := n % per
    if j < pay then
      let e0 := 512 * j / elemBits r.fmt
      let e1 := (min (512 * (j + 1)) bits - 1) / elemBits r.fmt
      (List.range (e1 / 32 + 1 - e0 / 32)).map (fun i => v * kb + e0 / 32 + i)
    else (List.range kb).map (v * kb + ·)

/-! ### Block table entries (R272, R273) -/

/-- The entry that a request names: its CTX and TID, with the address in its range. -/
def findBlk (w : Swath) (r : SwReq) : Option (Nat × BlkEntry) :=
  let a := r.addr % 2 ^ 25
  w.table.find? (fun p => p.2.ctx == r.ctx && p.2.tid == r.tid && decide (p.2.base ≤ a ∧ a < p.2.base + 64 * p.2.len))

/-- The peer to which a fill binding of an entry feeds (R370). DEDUCED, log entry 19. -/
def bindPeer (s : State) (p e : Nat) (b : BlkEntry) : Option Peer :=
  match (ctxOf s b.ctx).bind (·.peers) with
  | some t => (t.binds.find? (fun k => k.port == p && k.entry == e)).bind (fun k => t.peers[k.peer]?)
  | none => none

/-- The release of an entry (R273): EMPTY again, and a spur-filled one returns a stream credit to the filling engine. -/
def releaseBlk (s : State) (p e : Nat) (b : BlkEntry) : State :=
  let w := swathOf s p
  let s := setSwath s p { w with table := tabSet w.table e (emptyEntry b) }
  if b.src ≠ 0x80 then s
  else match spurEntry s (p / 8) with
    | none => s
    | some n =>
      match (ctxOf s b.ctx).bind (fun x => peerOf x n.id) with
      | some q => sendOn s p 0 true (engineHdr s q.engine q.ctx q.epoch b.tid.toNat 0) [] false
      | none => s

/-! ### Merging and serving (R201 to R203, R276) -/

/-- Runs that serve a set of tiles: (route kind, first tile, tiles after the first), R202. -/
def swRuns (l : List Nat) : List (Nat × Nat × Nat) :=
  let low (f : Nat → Nat) (l : List Nat) : Nat := l.foldl (fun a i => min a (f i)) 65535
  let high (f : Nat → Nat) (l : List Nat) : Nat := l.foldl (fun a i => max a (f i)) 0
  let row (y : Nat) (l : List Nat) : Nat × Nat × Nat := (1, tileIx (low ixX l) y, high ixX l - low ixX l)
  let ys := (l.map ixY).eraseDups
  let xs := (l.map ixX).eraseDups
  match ys, xs with
  | [y], _ => [row y l]
  | _, [x] => [(2, tileIx x (low ixY l), high ixY l - low ixY l)]
  | ys, _ => ys.map (fun y => row y (l.filter (fun i => ixY i == y)))

/-- The buffer lines, from the start of the buffer, that line n of an answer needs. -/
def lineNeeds (sf : Nat) (r : SwReq) (n : Nat) : List Nat := (lineBlocks r n).flatMap (blockLines sf (r.addr % 2 ^ 25))

/-- Is a buffer line of an entry valid? -/
def lineValid (b : BlkEntry) (l : Nat) : Bool := decide (b.base / 64 ≤ l) && b.valid.contains (l - b.base / 64)

/-- Can line n of an answer be served? -/
def answerReady (b : BlkEntry) (r : SwReq) (n : Nat) : Bool := (lineNeeds b.sfmt r n).all (lineValid b)

/-- The requests that one run serves. -/
def inRun (run : Nat × Nat × Nat) (tile : Nat) : Bool :=
  if run.1 = 1 then ixY tile == ixY run.2.1 && decide (ixX run.2.1 ≤ ixX tile ∧ ixX tile ≤ ixX run.2.1 + run.2.2)
  else ixX tile == ixX run.2.1 && decide (ixY run.2.1 ≤ ixY tile ∧ ixY tile ≤ ixY run.2.1 + run.2.2)

/-- One line of an answer to requests of one geometry: a multicast for each run, each copy of which its reader acknowledges (R200). -/
def sendSwLine (s : State) (p : Nat) (b : BlkEntry) (r : SwReq) (rs : List SwReq) (n : Nat) (ln : Nat × Line × BitVec 64) : State :=
  let w := swathOf s p
  let d := portTile (gridW s) p
  let psn := (lineNeeds b.sfmt r n).any (fun l => w.bad.contains (64 * l))
  let s := setSwath s p { w with owed := tabMod w.owed r.ctx.toNat 0 (· + rs.length) }
  (swRuns (rs.map (·.tile))).foldl (fun s run =>
    fromDie s (tileIx d.1 d.2) 5
      { rk := run.1, add := false, tok := false, hop := 0, epoch := epochNow s r.ctx, psn := psn, cls := 4, seq := 0
        fmt := r.fmt, tid := r.tid, ctx := r.ctx, span := run.2.2, slot := 0, rsv := 0, line := 0, dstY := ixY run.2.1
        dstX := ixX run.2.1, srcY := d.2, srcX := d.1, data := ln.2.1
        body := .swLine ((rs.filter (fun q => inRun run q.tile)).map (fun q => (q.tile, q.op))) ln.1 ln.2.2 }) s

/-- The lines of an answer from the n-th on that can be served in line order. -/
def readyLines (buf : Mem) (b : BlkEntry) (r : SwReq) (n : Nat) : List (Nat × (Nat × Line × BitVec 64)) :=
  (((swLines buf b.sfmt r).drop n).zipIdx.map (fun q => (n + q.2, q.1))).takeWhile (fun q => answerReady b r q.1)

/-- The geometries of an entry's requests: N, KB and V0, which the key leaves free. -/
def shapesOf (m : MergeEntry) : List (Nat × Nat × Nat) := (m.reqs.map (fun q => (q.n, q.kb, q.v0))).eraseDups

/-- Serves what can be served to the requests of one geometry: requests of one key but of different geometry are answered by multicasts of
their own. DESIGN CHOICE, log entry 49. -/
def serveShape (p : Nat) (b : BlkEntry) (a : State × MergeEntry) (g : (Nat × Nat × Nat) × Nat) : State × MergeEntry :=
  let rs := a.2.reqs.filter (fun q => (q.n, q.kb, q.v0) == g.1)
  match rs with
  | [] => a
  | q :: _ =>
    let n := tabGet a.2.sent g.2 0
    let l := readyLines (swathOf a.1 p).buf b q n
    (l.foldl (fun s ln => sendSwLine s p b q rs ln.1 ln.2) a.1, { a.2 with sent := tabSet a.2.sent g.2 (n + l.length) })

/-- Has an entry been answered whole? -/
def answered (buf : Mem) (b : BlkEntry) (m : MergeEntry) : Bool :=
  (shapesOf m).zipIdx.all (fun g => match m.reqs.find? (fun q => (q.n, q.kb, q.v0) == g.1) with
    | some q => decide ((swLines buf b.sfmt q).length ≤ tabGet m.sent g.2 0)
    | none => true)

/-- Serves the lines of a released merge entry that are valid, in line order (R202, R276); once all have gone, each requester counts
toward READERS. -/
def serveMerge (s : State) (p : Nat) (m : MergeEntry) : State :=
  match m.reqs with
  | [] => s
  | r :: _ =>
    match findBlk (swathOf s p) r with
    | none => s
    | some (e, b) =>
      let (s, m') := (shapesOf m).zipIdx.foldl (serveShape p b) (s, m)
      let w := swathOf s p
      if answered w.buf b m' then
        let b' := { b with served := b.served + m.reqs.length }
        let s := setSwath s p { w with merges := w.merges.filter (· != m), table := tabSet w.table e b' }
        if b'.served ≥ b'.readers then releaseBlk s p e b' else s
      else setSwath s p { w with merges := w.merges.map (fun q => if q = m then m' else q) }

/-- Serves what can be served of every released merge entry. -/
def servePort (s : State) (p : Nat) : State :=
  ((swathOf s p).merges.filter (·.released)).foldl (fun s m => serveMerge s p m) s

/-- The key of a merge entry. -/
def sameKey (a b : SwReq) : Bool :=
  a.ctx == b.ctx && a.tid == b.tid && a.addr == b.addr && a.fmt == b.fmt && a.t == b.t && a.rm == b.rm

/-- Joins the open entry of its key. -/
def joinMerge (r : SwReq) (target : Nat) : List MergeEntry → Option (List MergeEntry)
  | [] => none
  | m :: l =>
    if !m.released && (m.reqs.any (sameKey r)) then
      let rs := m.reqs ++ [r]
      some ({ m with reqs := rs, released := decide (rs.length ≥ target) } :: l)
    else (joinMerge r target l).map (m :: ·)

/-- One request joins or opens an entry; none while all 64 entries are open. -/
def mergeReq (w : Swath) (b : BlkEntry) (r : SwReq) : Option Swath :=
  match joinMerge r (b.merge + 1) w.merges with
  | some l => some { w with merges := l }
  | none =>
    if (w.merges.filter (fun m => !m.released)).length < 64 then
      some { w with merges := w.merges ++ [⟨[r], decide (b.merge = 0), []⟩] }
    else none

/-- SWREAD_REQUEST: the oldest request that waits at the port tile, else the next that arrived (R201, R276). -/
def swreadRequest (s : State) (p : Nat) : State :=
  let w := swathOf s p
  let take (r : SwReq) (w' : Swath) (full : Swath) : State :=
    match findBlk w r with
    | none => ownItem (logAt (setSwath s p w') 0x1305 3 p (some r.ctx) none 0) r.ctx
    | some (_, b) =>
      match mergeReq w' b r with
      | some w'' => servePort (setSwath s p w'') p
      | none => setSwath s p full
  match w.waiting, w.reqs with
  | r :: rest, _ => take r { w with waiting := rest } w
  | [], r :: rest => take r { w with reqs := rest } { w with reqs := rest, waiting := [r] }
  | [], [] => s

/-- MERGE_WINDOW_EXPIRY of the n-th merge entry: it is released. -/
def mergeExpiry (s : State) (p n : Nat) : State :=
  let w := swathOf s p
  match w.merges[n]? with
  | none => s
  | some m =>
    if m.released then s
    else servePort (setSwath s p { w with merges := w.merges.set n { m with released := true } }) p

/-! ### Fills (R273, R370) -/

/-- A fill line written into the buffer, with its forwarding under a binding. -/
def writeFill (s : State) (p : Nat) (w : Swath) (f : FillLine) (b : BlkEntry) (peer : Option Peer) : State :=
  let a := b.base + 64 * f.line
  let valid := addNew f.line b.valid
  let full := decide (valid.length = b.len)
  let b' := { b with valid := valid, st := if full then .ready else .filling }
  let s := setSwath s p { w with buf := memSetLine w.buf a f.data, table := tabSet w.table f.entry b'
                                 bad := if f.psn then addNew a w.bad else w.bad.filter (· != a) }
  let s := match peer with
    | none => s
    | some q =>
      let s := if b.st = .empty then updLink s p (fun l => { l with fillCred := tabMod l.fillCred f.entry 0 (· - 1) }) else s
      sendOn s p (classPool false 4) false
        ⟨q.engine, engineId s, q.ctx, 4, b.tid.toNat, b.sfmt, q.epoch, f.psn, full, false, false, 1, 0, f.line, f.step, 0⟩ [f.data] f.par
  servePort s p

/-- FILL_LINE: the next line from the mesh or from the spur. A READY entry holds it until the release; a binding without a
credit holds the first line of a generation. -/
def fillLine (s : State) (p : Nat) (spur : Bool) : State :=
  let w := swathOf s p
  match (if spur then w.fromSpur else w.fromMesh) with
  | [] => s
  | f :: rest =>
    let w' := if spur then { w with fromSpur := rest } else { w with fromMesh := rest }
    let freed (s : State) : State :=
      if f.lent then updLink s p (fun l => { l with freed := tabSet l.freed 1 ((tabGet l.freed 1 0 + 1) % 2 ^ 16) }) else s
    match tabFind w.table f.entry with
    | none => freed (logAt (setSwath s p w') 0x1305 3 p none none 0)
    | some b =>
      let peer := bindPeer s p f.entry b
      if b.len ≤ f.line then freed (logAt (setSwath s p w') 0x1305 3 p (some b.ctx) none 0)
      else if b.st = .ready ∨ (peer.isSome ∧ b.st = .empty ∧ tabGet (linkOf s p).fillCred f.entry 0 = 0) then s
      else freed (writeFill s p w' f b peer)

/-! ### Stream sequencers (R274, R324) -/

/-- Is a fill line of an entry on its way to its port die? -/
def fillsMoving (s : State) (p e : Nat) : Bool :=
  let hit (k : Pkt) : Bool := match k.body with
    | .fill p' e' _ _ => p' == p && e' == e
    | _ => false
  (swathOf s p).fromMesh.any (fun f => f.entry == e) ||
    s.tiles.any (fun t => t.2.mesh.inq.any (fun q => q.2.any hit) || t.2.meshSrc.any (fun q => q.2.any hit))

/-- The bytes of a range in its stream format: BF16 or MXFP8 segments of 64 blocks with their scales (R271, R294). -/
def strmBytes (fmt nelem : Nat) : Nat :=
  if fmt = 5 then 2112 * ceilDiv (ceilDiv nelem 32) 64 else 64 * ceilDiv nelem 32

/-- The bucket whose range holds a stream address: only an owned bucket's ranges have their streaming copy here (R294, R324). DEDUCED,
log entry 19. -/
def itemBucket (x : Ctx) (fmt src len : Nat) : Option Nat :=
  x.win.plan.bind (fun pl =>
    (List.range pl.buckets.length).find? (fun i => match pl.buckets[i]? with
      | some b => b.owner == pl.myRank && ((pl.ranges.drop b.range0).take b.nrange).any (fun r =>
          decide (r.strm ≤ src ∧ src + 64 * len ≤ r.strm + strmBytes fmt r.nelem))
      | none => false))

/-- Has the item's bucket the version that a fill of a step needs: at least the step before? A bucket of the plan's first step
has no earlier version to wait for. -/
def versionAllows (x : Ctx) (fmt src len : Nat) (step : W32) : Bool :=
  match itemBucket x fmt src len, x.win.plan with
  | some b, some pl =>
    step == pl.firstStep || (match tabFind x.win.versions b with
      | some v => decide ((v - (step - 1)).toNat < 2 ^ 31)
      | none => false)
  | _, _ => true

/-- The lines that the Stream staging region of a Saddle die holds (R261). -/
def streamLinesMax : Nat := 131072

/-- The fill lines that wait in a die's Stream region for its edge links. -/
def streamStaged (s : State) (k : Nat) : Nat :=
  ((List.range 8).map (fun link =>
    let a := attachTile (gridW s) k link
    ((tabGet (tileOf s (tileIx a.1 a.2)).meshSrc 25 []).filter (fun p => match p.body with
      | .fill _ _ _ _ => true
      | _ => false)).length)).sum

/-- Lines of an item from one on leave the Saddle die as WGT packets, each over the edge link of its address. -/
def sendItem (s : State) (k : Nat) (c : BitVec 8) (x : Ctx) (b : BlkEntry) (it : Nat × Nat × Nat) (step : W32) (from_ n : Nat) : State :=
  let d := portTile (gridW s) it.2.1
  (List.range n).foldl (fun s j =>
    let i := from_ + j
    let o := it.1 + 64 * i
    let a := attachTile (gridW s) k ((o >>> 6) % 8)
    let phys := (viewPhys x o).getD 0
    fromDie s (tileIx a.1 a.2) 6
      { rk := 0, add := false, tok := false, hop := 0, epoch := epochNow s c, psn := s.hbmBad.contains (phys / 64), cls := 4
        seq := 0, fmt := b.sfmt, tid := b.tid, ctx := c, span := 0, slot := 0, rsv := 0, line := 0, dstY := d.2, dstX := d.1
        srcY := a.2, srcX := a.1, data := memLine s.hbm phys, body := .fill it.2.1 it.2.2 i step }) s

/-- The walk that a sequencer is on: the step after a finished one where some submission runs it, and never a step older than
the oldest unfinished one. -/
def walkNow (x : Ctx) (k : Nat) (w : Option StreamWalk) : StreamWalk :=
  let old := oldestStep x
  let w := w.getD ⟨old, 0, 0⟩
  let w := if (old - w.step).toNat < 2 ^ 31 ∧ old ≠ w.step then ⟨old, 0, 0⟩ else w
  if w.pos ≥ (planItems x k w.step).length ∧ x.subs.any (fun b => decide ((w.step + 1 - b.first).toNat < b.count)) then
    ⟨w.step + 1, 0, 0⟩
  else w

/-- May the item of a walk be read on: it is under way, or its entry is EMPTY and its bucket's version allows it? -/
def itemGoes (s : State) (x : Ctx) (w : StreamWalk) (it : Nat × Nat × Nat) (b : BlkEntry) : Bool :=
  w.line != 0 || (b.st == .empty && !fillsMoving s it.2.1 it.2.2 && versionAllows x b.sfmt it.1 b.len w.step)

/-- STREAM_SEQUENCER_ITEM: the next item of the walk, as far as the Stream region has room; `ecc` is what the checks find in its lines
by view offset (R266). DEDUCED, log entry 19. -/
def sequencerItem (s : State) (k : Nat) (c : BitVec 8) (ecc : List (Nat × HbmEcc)) : State :=
  match ctxOf s c with
  | none => s
  | some x =>
    let w := walkNow x k (tabFind (saddleOf s k).walks c.toNat)
    match (planItems x k w.step)[w.pos]? with
    | none => s
    | some it =>
      match tabFind (swathOf s it.2.1).table it.2.2 with
      | none => s
      | some b =>
        let n := min (b.len - w.line) (streamLinesMax - streamStaged s k)
        if beforeReplay x ∨ !itemGoes s x w it b ∨ n = 0 then s
        else
          let mine := ecc.filter (fun p => decide (it.1 + 64 * w.line ≤ p.1 ∧ p.1 < it.1 + 64 * (w.line + n)))
          let s := sendItem (eccOutcomes s k c mine) k c x b it w.step w.line n
          let w' : StreamWalk := if w.line + n < b.len then { w with line := w.line + n } else { w with pos := w.pos + 1, line := 0 }
          updSaddle s k (fun d => { d with walks := tabSet d.walks c.toNat w' })

/-- SWREAD_REQUEST (R201). -/
def execSwreadRequest (port : Nat) (s : State) : Host.Outcome State Fault Refusal :=
  .next (swreadRequest s port)

/-- MERGE_WINDOW_EXPIRY (R201). -/
def execMergeWindowExpiry (port entry : Nat) (s : State) : Host.Outcome State Fault Refusal :=
  .next (mergeExpiry s port entry)

/-- FILL_LINE (R273). -/
def execFillLine (port : Nat) (spur : Bool) (s : State) : Host.Outcome State Fault Refusal :=
  .next (fillLine s port spur)

/-- STREAM_SEQUENCER_ITEM (R274). -/
def execStreamSequencerItem (saddle : Nat) (ctx : WithEcc (BitVec 8)) (s : State) : Host.Outcome State Fault Refusal :=
  .next (sequencerItem s saddle ctx.val ctx.ecc)

end Sys2Proof.Machine
end

