-- ==== Sys2Proof/Machine/CmdPlan.lean ====
section
/-! DEFINITION. BUCKET_PLAN (R293 to R298): reading and checking a plan, installing, replacing and clearing it. -/
namespace Sys2Proof.Machine

/-! ### Reading a plan (R293, R294) -/

/-- The offsets of the tables. -/
structure PlanOffs where
  rank : Nat
  buck : Nat
  cov : Nat
  range : Nat
  conv : Nat
deriving DecidableEq, Repr

def planOffs (h : List Byte) : PlanOffs := ⟨fld h 64 8, fld h 24 8, fld h 32 8, fld h 40 8, fld h 48 8⟩
def planRanks (h : List Byte) : Nat := fld h 16 2 + 1
def planBuckets (h : List Byte) : Nat := fld h 18 2 + 1

/-- The header (R293), its offsets in the view and tables with a fixed number of entries within it. -/
def planHdrOk (x : Ctx) (h : List Byte) : Bool :=
  let f := fld h
  let o := planOffs h
  decide (128 ≤ h.length) && f 0 2 == 1 && f 2 1 == 0 && decide (1 ≤ f 3 1 ∧ f 3 1 ≤ 8 ∧ 12 ≤ f 4 1 ∧ f 4 1 ≤ 36) &&
    decide (0xA ≤ f 5 1 ∧ f 5 1 ≤ 0xC ∧ f 6 1 ≤ 2) && (f 6 1 == 1 || f 7 1 == 0) && decide (4 ≤ f 8 2 ∧ f 8 2 ≤ 256) &&
    decide (1 ≤ f 10 2 ∧ f 10 2 ≤ 512 ∧ f 12 2 ≤ 4096 ∧ f 14 2 < planRanks h) && (f 6 1 != 1 || planRanks h % (f 7 1 + 1) == 0) &&
    [(o.rank, 8 * planRanks h), (o.buck, 32 * planBuckets h), (o.cov, 0), (o.range, 0), (o.conv, 0), (f 56 8, 0)].all
      (fun p => p.1 % 64 == 0 && decide (p.1 < 2 ^ 44 ∧ p.1 + p.2 ≤ viewSz x)) && f 72 56 == 0

/-- How many entries of the coverage, range and conversion tables the buckets name. -/
def tableLen (bs : List PlanBucket) (f : PlanBucket → Nat × Nat) : Nat :=
  bs.foldl (fun n b => let p := f b; if p.2 = 0 then n else max n (p.1 + p.2)) 0

def readRank (v : Nat) : PlanRank := ⟨BitVec.ofNat 24 v, bits v 63 48⟩
def readBucket (d : List Byte) : PlanBucket :=
  let sp := fld d 4 1
  ⟨fld d 0 2, fld d 2 2, sp % 8, bitOf sp 7, fld d 6 1, fld d 5 1, fld d 7 3, fld d 12 4, fld d 10 2, fld d 18 4, fld d 16 2
  , fld d 24 4, fld d 22 2, fld d 28 4⟩
def readCov (d : List Byte) : PlanCov := ⟨fld d 0 2, fld d 2 2, bitOf (fld d 4 1) 0, fld d 8 4, fld d 12 4⟩
def readRange (d : List Byte) : PlanRange :=
  ⟨fld d 0 4, fld d 4 4, fld d 9 1, fld d 10 2, fld d 12 4, fld d 16 8, fld d 24 8, fld d 32 8, fld d 40 8, fld d 48 8, fld d 56 8⟩
def readConv (d : List Byte) : PlanConv := ⟨fld d 0 2, fld d 2 3⟩

/-- The bytes of the tables, in the order of R294. -/
structure PlanRaw where
  hdr : List Byte
  ranks : List Byte
  buckets : List Byte
  covs : List Byte
  ranges : List Byte
  convs : List Byte
deriving DecidableEq, Repr

def entriesOf {α : Type} (d : List Byte) (size : Nat) (f : List Byte → α) : List α :=
  (List.range (d.length / size)).map (fun i => f ((d.drop (size * i)).take size))

/-- Reads the tables of a plan; the header has been checked. -/
def readPlan (s : State) (x : Ctx) (h : List Byte) : PlanRaw :=
  let o := planOffs h
  let buckets := viewBytes s x o.buck (32 * planBuckets h)
  let bs := entriesOf buckets 32 readBucket
  { hdr := h.take 128, ranks := viewBytes s x o.rank (8 * planRanks h), buckets := buckets
    covs := viewBytes s x o.cov (16 * tableLen bs (fun b => (b.cov0, b.ncov)))
    ranges := viewBytes s x o.range (64 * tableLen bs (fun b => (b.range0, b.nrange)))
    convs := viewBytes s x o.conv (8 * tableLen bs (fun b => (b.conv0, b.nconv))) }

/-- DEDUCED, log entry 30. -/
def planOf (r : PlanRaw) : Plan :=
  let f := fld r.hdr
  { rsg := f 3 1, dlexp := f 4 1, wfmt0 := f 5 1, sched := f 6 1, tx := f 7 1, bsize := f 8 2, window := f 10 2, nlayv := f 12 2
    myRank := f 14 2, firstStep := w32 (f 20 4), expOff := f 56 8, ranks := entriesOf r.ranks 8 (fun d => readRank (leNat d))
    buckets := entriesOf r.buckets 32 readBucket, covs := entriesOf r.covs 16 readCov, ranges := entriesOf r.ranges 64 readRange
    convs := entriesOf r.convs 8 readConv
    digest := digestOf (r.hdr ++ r.ranks ++ r.buckets ++ r.covs ++ r.ranges ++ r.convs), kernel := [], stores := [] }

/-! ### The checks (R295) -/

/-- The root of the tree: the first rank that names itself. -/
def planRoot (pl : Plan) : Nat := ((List.range pl.ranks.length).find? (fun r => rankParent pl r == r)).getD 0

def rankBad (s : State) (pl : Plan) (raw : List Byte) (i : Nat) : Bool :=
  match pl.ranks[i]? with
  | none => true
  | some r =>
    let d := raw.drop (8 * i)
    !(fld d 3 3 == 0 && (pl.sched == 2 || r.parent == 0) && (i != pl.myRank || r.engine == engineId s) &&
        (pl.sched != 2 || (decide (r.parent < pl.ranks.length) && rankParent pl (planRoot pl) == planRoot pl &&
          (ancestors pl pl.ranks.length i).getLast? == some (planRoot pl))))

/-- The contributions to a chunk that its final NCON counts (R301). -/
def chunkNcon (pl : Plan) (b : PlanBucket) (c : Nat) : Nat :=
  ((bucketRanks pl b).filter (fun r => contrib pl b r c == .plain)).length + (chunkPairs pl b c).length

def bucketBad (pl : Plan) (raw : List Byte) (i : Nat) : Bool :=
  match pl.buckets[i]? with
  | none => true
  | some b =>
    !(decide (b.owner < pl.ranks.length ∧ 1 ≤ b.ncon ∧ b.lsaddle < 24 ∧ 1 ≤ b.nblk ∧ b.nblk ≤ 2 ^ 14 * pl.bsize ∧ 1 ≤ b.nrange) &&
        bits (fld (raw.drop (32 * i)) 4 1) 6 3 == 0 && decide (b.ctid < 2 ^ 20) && !kernelTid b.ctid &&
        ((List.range (chunkCount b)).map (chunkNcon pl b)).foldl max 0 == b.ncon)

/-- The partner's entry of a pair. -/
def partnerCov (pl : Plan) (b : PlanBucket) (v : PlanCov) : Option PlanCov := (bucketCovs pl b).find? (fun w => w.rank == v.partner)

/-- A coverage entry in its bucket; `j`: its place among the bucket's. -/
def covBad (pl : Plan) (b : PlanBucket) (raw : List Byte) (j : Nat) : Bool :=
  match (bucketCovs pl b)[j]? with
  | none => true
  | some v =>
    let d := raw.drop (16 * (b.cov0 + j))
    !(decide (v.rank < pl.ranks.length) && decide (fld d 4 1 < 2) && fld d 5 3 == 0 && v.first % 32 == 0 &&
        decide (1 ≤ v.nblk ∧ v.first + v.nblk ≤ b.nblk) && (v.nblk % 32 == 0 || v.first + v.nblk == b.nblk) &&
        !(((bucketCovs pl b).take j).any (fun w => w.rank == v.rank)) &&
        (if v.partner = 0xFFFF then !v.backup
         else v.rank != b.owner && (match partnerCov pl b v with
           | some w => w.partner == v.rank && w.first == v.first && w.nblk == v.nblk && w.backup != v.backup && w.rank != v.rank
           | none => false)))

/-- Does an area lie in the view, on the given stack? -/
def areaOk (x : Ctx) (stack off len : Nat) : Bool :=
  decide (off + len ≤ viewSz x ∧ 0 < len) && (viewDecode (x.mask, x.slabs) off).1 == stack &&
    (viewDecode (x.mask, x.slabs) (off + len - 1)).1 == stack

/-- Is a group unused, or does its entry hold reserved encodings (R279)? -/
def groupBad (s : State) (x : Ctx) (g : Nat) : Bool :=
  let d := viewBytes s x (atGroups + 64 * g) 64
  let opt := fld d 0 1
  let emit := fld d 1 1
  opt == 0 || decide (5 < opt) || decide (8 ≤ emit) || (emit % 4 != 0 && emit % 4 != 2) || fld d 2 10 != 0 || fld d 36 28 != 0

/-- A range entry in its bucket; `j`: its place among the bucket's. The manual gives a plan no size of a tensor; an element index has 44 bits.
DESIGN CHOICE, log entry 49. -/
def rangeBad (s : State) (x : Ctx) (pl : Plan) (b : PlanBucket) (raw : List Byte) (j : Nat) : Bool :=
  match (bucketRanges pl b)[j]? with
  | none => true
  | some r =>
    let nb := ceilDiv r.nelem 32
    !(decide (1 ≤ r.nelem ∧ r.elem0 + r.nelem ≤ 2 ^ 44 ∧ r.blk0 + nb ≤ b.nblk ∧ r.tid < 2 ^ 20) && !kernelTid r.tid &&
        fld (raw.drop (64 * (b.range0 + j))) 8 1 == 0 && !groupBad s x r.group &&
        !(((bucketRanges pl b).take j).any (fun q => decide (q.blk0 < r.blk0 + nb ∧ r.blk0 < q.blk0 + ceilDiv q.nelem 32))) &&
        [r.strm, r.master, r.mom1, r.mom2, r.land].all (fun o => o % 64 == 0 && decide (o < 2 ^ 44)) &&
        (b.owner != pl.myRank || (areaOk x b.lsaddle r.strm (strmBytes (streamFmt s x r.layer) r.nelem) &&
          areaOk x b.lsaddle r.master (4 * r.nelem) && areaOk x b.lsaddle r.mom1 (4 * r.nelem) && areaOk x b.lsaddle r.mom2 (4 * r.nelem) &&
          areaOk x b.lsaddle r.land (128 * nb))))

def convBad (x : Ctx) (pl : Plan) (raw : List Byte) (i : Nat) : Bool :=
  match pl.convs[i]? with
  | none => true
  | some v => !(fld (raw.drop (8 * i)) 5 3 == 0 && ((findGraph x v.graph).map (fun g => decide (v.task < g.tasks.length))).getD false)

/-- The first failing entry of a table that the buckets name by ranges of its index. -/
def namedBad (code : Nat) (pl : Plan) (f : PlanBucket → Nat × Nat) (bad : PlanBucket → Nat → Bool) : Option (Nat × Nat) :=
  pl.buckets.findSome? (fun b => ((List.range (f b).2).find? (bad b)).map (fun j => (code, (f b).1 + j)))

/-- The ranks that this rank sends to, and those that send to it (R300). -/
def nextRanks (pl : Plan) : List Nat :=
  (pl.buckets.flatMap (fun b => (List.range (min 4 (chunkCount b))).filterMap (fun c => pathNext pl b.owner c pl.myRank))).foldl
    (fun l r => addNew r l) []
def prevRanks (pl : Plan) : List Nat :=
  (List.range pl.ranks.length).filter (fun q => pl.buckets.any (fun b =>
    (List.range (min 4 (chunkCount b))).any (fun c => pathNext pl b.owner c q == some pl.myRank)))

/-- The spur on which an engine is reached. -/
def rankSpur (s : State) (pl : Plan) (r : Nat) : Option Nat := (findRoute s (rankEngine pl r)).map (·.spur)

/-- Do the port tiles of a spur's port dies lie in sheaves of the context? -/
def spurInSheaf (s : State) (c : BitVec 8) (j : Nat) : Bool :=
  (spurPorts j).all (fun p => (List.range 4).all (fun t =>
    (sheavesOf s c).any (fun h => (sheafTiles h.2).contains (reductionTile (gridW s) p (8 * t)))))

/-- May the plan not use a spur: the context does not own it, or its port tiles lie outside the context's sheaves (R295)? -/
def spurBad (s : State) (c : BitVec 8) (j : Nat) : Bool := (spurOf s j).owner != some c || !spurInSheaf s c j

/-- The hop to or from a rank: its spur. DEDUCED, log entry 30. -/
def hopBadRank (s : State) (c : BitVec 8) (pl : Plan) (r : Nat) : Bool := ((rankSpur s pl r).map (spurBad s c)).getD true

/-- Does a loaded graph have a task on a reduction tile with a window into the reserve (R297)? -/
def reserveUsed (s : State) (x : Ctx) : Bool :=
  x.graphs.any (fun g => g.tasks.any (fun t => (portOf (gridW s) (ixX t.tile) (ixY t.tile)).isSome && t.wins.any inReserve))

def planErr (s : State) (c : BitVec 8) (x : Ctx) (r : PlanRaw) (pl : Plan) : Option (Nat × Nat) :=
  let hops := (nextRanks pl ++ prevRanks pl).foldl (fun l r => addNew r l) []
  if viewSz x < pl.expOff + 2 * expSetLen pl ∨
      [((planOffs r.hdr).cov, r.covs.length), ((planOffs r.hdr).range, r.ranges.length), ((planOffs r.hdr).conv, r.convs.length)].any
        (fun p => decide (viewSz x < p.1 + p.2)) ∨ reserveUsed s x then some (0x11, 0)
  else
    (firstBad 0x12 pl.ranks.length (fun i => rankBad s pl r.ranks i)).orElse fun _ =>
      (firstBad 0x13 pl.buckets.length (fun i => bucketBad pl r.buckets i)).orElse fun _ =>
        (namedBad 0x14 pl (fun b => (b.cov0, b.ncov)) (fun b j => covBad pl b r.covs j)).orElse fun _ =>
          (namedBad 0x15 pl (fun b => (b.range0, b.nrange)) (fun b j => rangeBad s x pl b r.ranges j)).orElse fun _ =>
            (firstBad 0x16 pl.convs.length (convBad x pl r.convs)).orElse fun _ =>
              (firstBad 0x12 pl.ranks.length (fun i => hops.contains i && hopBadRank s c pl i)).orElse fun _ =>
                firstBad 0x13 pl.buckets.length (fun i => match pl.buckets[i]? with
                  | some b => b.owner == pl.myRank && spurBad s c b.cspur
                  | none => true)

/-- Granules of a port die that the context has and no block table entry uses. -/
def spareGranules (s : State) (c : BitVec 8) (p : Nat) : List Nat :=
  (List.range 32).filter (fun g => tabFind s.leases (32 * p + g) == some c.toNat &&
    (swathOf s p).table.all (fun e => !decide (e.2.base < 2 ^ 20 * (g + 1) ∧ 2 ^ 20 * g < e.2.base + 64 * e.2.len)))

/-- The port dies that a plan's frames leave on. -/
def portsUsed (s : State) (pl : Plan) : List Nat := (((nextRanks pl).filterMap (rankSpur s pl)).foldl (fun l j => addNew j l) []).flatMap spurPorts

def planNoRes (s : State) (c : BitVec 8) (x : Ctx) (pl : Plan) : Bool :=
  decide (1024 < slotsReserved s - (x.win.plan.map (fun q => 2 * q.window)).getD 0 + 2 * pl.window) ||
    (portsUsed s pl).any (fun p => decide ((spareGranules s c p).length < pl.rsg))

/-! ### Installing and clearing (R295, R296) -/

/-- The state that a plan's removal leaves; bucket slots and resend stores of the context are freed. -/
def dropPlan (s : State) (c : BitVec 8) : State :=
  let s := { s with bslots := s.bslots.filter (fun b => b.ctx != c)
                    links := tabMap s.links (fun _ l => { l with store := l.store.filter (fun h => h.ctx != c) }) }
  updCtx s c (fun x => { x with win := { WinnowCtx.init with stale := x.win.stale } })

/-- Port tiles in the context's sheaves. -/
def reductionTiles (s : State) (c : BitVec 8) : List Nat :=
  (ctxTiles s c).filter (fun i => (portOf (gridW s) (ixX i) (ixY i)).isSome)

/-- A checked plan with what it places: the kernel on the reduction tiles, the resend granules. -/
def placedPlan (s : State) (c : BitVec 8) (pl : Plan) : Plan :=
  { pl with kernel := (reductionTiles s c).map KernelTask.on
            stores := (portsUsed s pl).flatMap (fun p => ((spareGranules s c p).take pl.rsg).map (fun g => 32 * p + g)) }

/-- Installs a checked plan: the kernel (R297), the resend granules (R317), the initial exponents of FIRSTSTEP, the versions of owned
buckets at FIRSTSTEP − 1. -/
def installPlan (s : State) (c : BitVec 8) (pl : Plan) : State :=
  let s := dropPlan s c
  match ctxOf s c with
  | none => s
  | some x =>
    let exps := pl.buckets.flatMap (fun b => List.replicate b.nblk (BitVec.ofNat 8 (min 255 (initExp b))))
    let s := viewWrite s x (pl.expOff + (pl.firstStep.toNat % 2) * expSetLen pl) exps
    updCtx s c (fun x => { x with win := { x.win with
      plan := some (placedPlan s c pl), versions := (ownedBuckets pl).foldl (fun t p => tabSet t p.1 (pl.firstStep - 1)) [] } })

/-- A submission in progress, or an Open stook. -/
def planBusy (x : Ctx) : Bool := !(unfinished x).isEmpty || ((x.stook.map (fun k => k.st == .opened)).getD false)

def bucketPlan (s : State) (n : Nat) : State :=
  runCmd s n 0x0501 (fun m => !argBit m 2 8) fun s m =>
    let c : BitVec 8 := BitVec.ofNat 8 (argN m 2)
    onReady s n c false fun x =>
      let off := argN2 m 3
      if !argsOk m [(2, 0xFF), (3, m32), (4, 0xFFF)] ∨ (staged m ∧ off ≠ 0) then badArg s n
      else if planBusy x then denied s n 2
      else withStruct s n m (some x) (some (off, 128)) fun s h =>
        match ctxOf s c with
        | none => s
        | some x =>
          if off % 64 ≠ 0 ∨ !planHdrOk x h then badAt s n (0x11, 0)
          else
            let r := readPlan s x h
            let pl := planOf r
            match planErr s c x r pl with
            | some e => badAt s n e
            | none =>
              if pl.covs.any (fun v => v.partner != 0xFFFF) && !hasFeature s n 2 then denied s n 1
              else if planNoRes s c x pl then noRes s n 0
              else answer (installPlan s c pl) n okAns

/-- DEDUCED, log entry 30. -/
def bucketPlanClear (s : State) (n : Nat) : State :=
  runCmd s n 0x0501 (fun m => argBit m 2 8) fun s m =>
    let c : BitVec 8 := BitVec.ofNat 8 (argN m 2)
    onReady s n c false fun x =>
      if !argsOk m [(2, 0x1FF)] ∨ staged m then badArg s n
      else if x.win.plan.isNone then answer s n okAns
      else if planBusy x then denied s n 2
      else answer (dropPlan s c) n okAns

/-- BUCKET_PLAN (R295). -/
def execBucketPlan (chan : Nat) (s : State) : Host.Outcome State Fault Refusal :=
  .next (bucketPlan s chan)

/-- BUCKET_PLAN_CLEAR (R296). -/
def execBucketPlanClear (chan : Nat) (s : State) : Host.Outcome State Fault Refusal :=
  .next (bucketPlanClear s chan)

end Sys2Proof.Machine
end

