-- ==== Sys2Proof/Machine/CmdPeer.lean ====
section
/-! DEFINITION. PEER_TABLE (R364 to R372): the engine table and the tables of contexts. -/
namespace Sys2Proof.Machine

/-! ### The engine form (R371) -/

def readSpurEntry (v : Nat) : SpurEntry := ⟨BitVec.ofNat 24 v, bits v 26 24, bitOf v 27⟩
def readRoute (v : Nat) : Route := ⟨BitVec.ofNat 24 v, bits v 26 24, bits v 28 27⟩
def readEndpoint (d : List Byte) : Endpoint :=
  ⟨BitVec.ofNat 24 (fld d 0 3), fld d 3 1, bitOf (fld d 4 1) 0, BitVec.ofNat 128 (fld d 8 16), BitVec.ofNat 48 (fld d 24 6)⟩
def readPort (d : List Byte) : PortCfg :=
  let f := fld d 25 1
  ⟨bitOf f 0, bitOf f 1, bitOf f 2, fld d 26 1, fld d 27 1, fld d 28 2, fld d 30 2, BitVec.ofNat 32 (fld d 16 4), BitVec.ofNat 128 (fld d 0 16)⟩

def nRoute (d : List Byte) : Nat := fld d 44 2
def nEp (d : List Byte) : Nat := fld d 46 2
def routeRaw (d : List Byte) (i : Nat) : Nat := fld d (64 + 8 * i) 8
def epRaw (d : List Byte) (i : Nat) : List Byte := (d.drop (64 + 8 * nRoute d + 32 * i)).take 32
def portRaw (d : List Byte) (i : Nat) : List Byte := (d.drop (64 + 8 * nRoute d + 32 * nEp d + 64 * i)).take 64

def engHdrOk (s : State) (d : List Byte) : Bool :=
  let id := fld d 4 4
  decide (64 ≤ d.length) && fld d 0 2 == 1 && fld d 2 2 == 0 && decide (16 ≤ id ∧ id < 2 ^ 24) && id % 16 == s.straps.slot.toNat &&
    (List.range 8).all (fun j => decide (fld d (8 + 4 * j) 4 < 2 ^ 28)) && fld d 40 2 == 0 && decide (1024 ≤ fld d 42 2) &&
    decide (nRoute d ≤ 4096 ∧ nEp d ≤ 4096) && fld d 48 16 == 0 && d.length == 64 + 8 * nRoute d + 32 * nEp d + 4096

def routeBad (d : List Byte) (i : Nat) : Bool :=
  let v := routeRaw d i
  decide (2 ^ 29 ≤ v) || (readRoute v).pool == 3 || (List.range i).any (fun j => routeRaw d j % 2 ^ 24 == v % 2 ^ 24)

def epBad (d : List Byte) (i : Nat) : Bool :=
  let e := epRaw d i
  !(decide (fld e 3 1 < 64 ∧ fld e 4 1 < 2) && fld e 5 3 == 0 && fld e 30 2 == 0)

def portBad (d : List Byte) (i : Nat) : Bool :=
  let e := portRaw d i
  !(decide (fld e 25 1 < 8) && (if i % 8 = 0 then decide (fld e 26 1 < 4) else fld e 26 1 == 0) && fld e 20 5 == 0 &&
      decide (fld e 28 2 < 4096 ∧ fld e 30 2 < 4096) && fld e 32 32 == 0)

def engErr (s : State) (d : List Byte) : Option (Nat × Nat) :=
  if !engHdrOk s d then some (0x21, 0)
  else (firstBad 0x22 (nRoute d) (routeBad d)).orElse fun _ => (firstBad 0x23 (nEp d) (epBad d)).orElse fun _ => firstBad 0x24 64 (portBad d)

def engTable (d : List Byte) : EngineTable :=
  { id := BitVec.ofNat 24 (fld d 4 4), spurs := (List.range 8).map (fun j => readSpurEntry (fld d (8 + 4 * j) 4)), udp := fld d 42 2
    routes := (List.range (nRoute d)).map (fun i => readRoute (routeRaw d i))
    eps := (List.range (nEp d)).map (fun i => readEndpoint (epRaw d i)), ports := (List.range 64).map (fun i => readPort (portRaw d i)) }

/-- Installs the engine table: the ID, and the detach of every spur whose entry is disabled or changed (R366). -/
def installEngine (s : State) (t : EngineTable) : State :=
  let was := s.engine
  let s := { s with engine := some t, cairn := { s.cairn with engIdHi := BitVec.ofNat 20 (t.id.toNat / 16) } }
  (List.range 8).foldl (fun s j =>
    let e := t.spurs[j]?
    if (e.map (·.enable)).getD false && was.bind (fun w => w.spurs[j]?) == e then s else beginDetach s j) s

def anyAttached (s : State) : Bool := (List.range 8).any (fun j => spurState s j == spurAttached)

/-- DEDUCED, log entry 30. -/
def peerEngine (s : State) (n : Nat) : State :=
  runCmd s n 0x0502 (fun m => !argBit m 2 0) fun s m =>
    if !fromPf n then denied s n 0
    else if !argsOk m [(2, 0xFF01)] ∨ !staged m then badArg s n
    else withStruct s n m none none fun s d =>
      match engErr s d with
      | some e => badAt s n e
      | none =>
        let t := engTable d
        if t.id ≠ engineId s ∧ (anyAttached s ∨ !s.ctxs.isEmpty) then denied s n 0
        else answer (installEngine s t) n okAns

/-! ### The context form (R372) -/

def readPeer (v : Nat) : Peer := ⟨BitVec.ofNat 24 v, BitVec.ofNat 8 (v / 2 ^ 24), bits v 34 32⟩
def readBind (v : Nat) : Binding := ⟨bits v 5 0, bits v 15 8, bits v 31 16⟩

def nPeer (d : List Byte) : Nat := fld d 2 2
def nBind (d : List Byte) : Nat := fld d 4 2
def peerRaw (d : List Byte) (i : Nat) : Nat := fld d (64 + 8 * i) 8
def bindRaw (d : List Byte) (i : Nat) : Nat := fld d (64 + 8 * nPeer d + 8 * i) 8
def ctxTabLen (d : List Byte) : Nat := 64 + 8 * nPeer d + 8 * nBind d

def ctxHdrOk (s : State) (c : BitVec 8) (x : Ctx) (d : List Byte) : Bool :=
  let ring := fld d 8 8
  let cnt := fld d 16 4
  decide (64 ≤ d.length) && fld d 0 2 == 1 && decide (1 ≤ nPeer d ∧ nPeer d ≤ 4096 ∧ nBind d ≤ 2048) && fld d 7 1 == 0 && ring % 64 == 0 &&
    decide (ring < 2 ^ 44 ∧ 64 ≤ cnt ∧ cnt ≤ 65536 ∧ ring + 64 * (1 + cnt) ≤ viewSz x) && fld d 20 44 == 0 && d.length == ctxTabLen d &&
    (List.range 8).all (fun j => !bitOf (fld d 6 1) j || (spurOf s j).owner.all (· == c))

def peerBad (d : List Byte) (i : Nat) : Bool :=
  let v := peerRaw d i
  decide (2 ^ 35 ≤ v) || (List.range i).any (fun j => peerRaw d j % 2 ^ 24 == v % 2 ^ 24)

def bindBad (s : State) (c : BitVec 8) (d : List Byte) (i : Nat) : Bool :=
  let v := bindRaw d i
  let b := readBind v
  !(decide (v < 2 ^ 32) && bits v 7 6 == 0 && decide (b.peer < nPeer d) && bitOf (fld d 6 1) (b.port / 8) &&
      ((tabFind (swathOf s b.port).table b.entry).map (fun e => e.ctx == c)).getD false)

def ctxTabErr (s : State) (c : BitVec 8) (x : Ctx) (d : List Byte) : Option (Nat × Nat) :=
  if !ctxHdrOk s c x d then some (0x21, 0)
  else (firstBad 0x25 (nPeer d) (peerBad d)).orElse fun _ => firstBad 0x26 (nBind d) (bindBad s c d)

def ctxTable (d : List Byte) : PeerTable :=
  ⟨fld d 16 4, fld d 8 8, fld d 6 1, (List.range (nPeer d)).map (fun i => readPeer (peerRaw d i)), (List.range (nBind d)).map (fun i => readBind (bindRaw d i)), []⟩

/-- The streams that installed tables name, one for each peer of each context (R359, R372). DEDUCED, log entry 30. -/
def streamsNamed (s : State) (but : BitVec 8) : Nat :=
  (s.ctxs.map (fun p => if p.1 = but.toNat then 0 else ((p.2.peers.map (·.peers.length)).getD 0))).sum

/-- The port tiles of a spur's port dies. -/
def spurTiles (s : State) (j : Nat) : List Nat := (spurPorts j).flatMap (fun p => (List.range 4).map (fun t => reductionTile (gridW s) p (8 * t)))

/-- The kernel of a table (R369): on the port tiles of the owned spurs that lie in the context's sheaves. -/
def peerKernel (s : State) (c : BitVec 8) (mask : Nat) : List KernelTask :=
  let mine := ctxTiles s c
  ((List.range 8).flatMap (fun j => if bitOf mask j then (spurTiles s j).filter mine.contains else [])).map KernelTask.on

/-- Do frames of a context, sent or received, still stand at a spur? -/
def spurHolds (s : State) (c : BitVec 8) (j : Nat) : Bool :=
  spurSends s c j || (spurPorts j).any (portsHolding s c).contains

/-- Does a spur change hands while frames of its owner have still to drain (R367)? -/
def ownerStays (s : State) (c : BitVec 8) (mask : Nat) : Bool :=
  (List.range 8).any (fun j => !bitOf mask j && (spurOf s j).owner == some c && spurHolds s c j)

/-- The streams toward peers whose EPOCH a new table changes start anew (R359). -/
def restartPeers (s : State) (old : Option PeerTable) (t : PeerTable) : State :=
  t.peers.foldl (fun s p =>
    if ((old.map (·.peers)).getD []).any (fun o => o.engine == p.engine && o.ctx == p.ctx && o.epoch != p.epoch) then restartStreams s p.engine p.ctx p.epoch
    else s) s

/-- Installs a context's table: peers, the kernel, the spurs it owns, one credit for each fill binding, and the transfer ring, which is
taken up where its RD stands. DEDUCED, log entry 30. -/
def installPeers (s : State) (c : BitVec 8) (t : PeerTable) : State :=
  let t := { t with kernel := peerKernel s c t.spurMask }
  let s := (bindsOf s c).foldl (fun s b => updLink s b.port (fun l => { l with fillCred := tabDel l.fillCred b.entry })) s
  let s := restartPeers s ((ctxOf s c).bind (·.peers)) t
  let s := updCtx s c (fun x =>
    let same := match x.peers with
      | some o => o.xring == t.xring && o.xcount == t.xcount
      | none => false
    { x with peers := some t, xrd := if same then x.xrd else viewRead s x (t.xring + 4) 4 })
  let s := (List.range 8).foldl (fun s j =>
    if bitOf t.spurMask j then setSpurOwner s j (some c) else if (spurOf s j).owner = some c then setSpurOwner s j none else s) s
  grantBinds s c

/-- PEER_TABLE of a context: while frames of a spur that changes hands have to drain, it waits. -/
def peerContext (s : State) (n : Nat) : State :=
  runCmd s n 0x0502 (fun m => argBit m 2 0) fun s m =>
    let c : BitVec 8 := BitVec.ofNat 8 (argBits m 2 15 8)
    onReady s n c false fun x =>
      let off := argN2 m 3
      let d0 := viewBytes s x off 64
      if !argsOk m [(2, 0xFF01), (3, m32), (4, 0xFFF)] ∨ (staged m ∧ off ≠ 0) then badArg s n
      else withStruct s n m (some x) (some (off, ctxTabLen d0)) fun s' d =>
        match ctxOf s' c with
        | none => s'
        | some x =>
          match ctxTabErr s' c x d with
          | some e => badAt s' n e
          | none =>
            if 32768 < streamsNamed s' c + nPeer d then noRes s' n 0
            else if ownerStays s' c (ctxTable d).spurMask then s
            else answer (installPeers s' c (ctxTable d)) n okAns

/-- PEER_TABLE_ENGINE (R371). -/
def execPeerTableEngine (chan : Nat) (s : State) : Host.Outcome State Fault Refusal :=
  .next (peerEngine s chan)

/-- PEER_TABLE_CONTEXT (R372). -/
def execPeerTableContext (chan : Nat) (s : State) : Host.Outcome State Fault Refusal :=
  .next (peerContext s chan)

end Sys2Proof.Machine
end

