-- ==== Sys2Proof/Machine/CmdStook.lean ====
section
/-! DEFINITION. The stook commands (R469, R478, R479, R481): STOOK_TAKE, STOOK_RESTORE, STOOK_VERIFY. -/
namespace Sys2Proof.Machine

def stookFeature : Nat := 3

/-! ### STOOK_TAKE (R469) -/

/-- The later of two steps. -/
def laterStep (a b : W32) : W32 := if (a - b).toNat < 2 ^ 31 then a else b

/-- The first step of which no Saddle die has begun an update: after every step whose schedule entry one has fixed and every
step whose boundary has passed. -/
def firstUnbegun (x : Ctx) (first : W32) : W32 :=
  let done := x.boundaryDone.toList ++ x.sched.map (·.step)
  match done with
  | [] => first
  | a :: l => l.foldl laterStep a + 1

/-- DEDUCED, log entry 31. -/
def stookTake (s : State) (n : Nat) : State :=
  runCmd s n 0x0601 (fun _ => true) fun s m =>
    let c : BitVec 8 := BitVec.ofNat 8 (argN m 2)
    onReady s n c false fun x =>
      let ep : BitVec 24 := BitVec.ofNat 24 (argN m 5)
      let base := argN2 m 6
      let first := w32 (argN m 4)
      if !hasFeature s n stookFeature then denied s n 1
      else if !argsOk m [(2, 0xFF), (3, m32), (4, m32), (5, 0xFFFFFF), (6, m32), (7, m32)] then badArg s n
      else if base % 2 ^ 44 ≠ 0 ∨ (endpointOf s ep (fun _ => true)).isNone then answer s n (ans stBadArg 0x35)
      else if x.win.plan.isNone then answer s n (ans stBadArg 0x31)
      else answer (setCtx s c { x with cad := some ⟨argN m 3, first, ep, BitVec.ofNat 64 base, firstUnbegun x first⟩ }) n okAns

/-! ### STOOK_RESTORE (R478, R479) -/

/-- A section entry of a manifest: offset, length, digest. -/
def sectEntry (man : List Byte) (k : Nat) : Nat × Nat × Nat := (fld man (256 + 32 * k) 8, fld man (264 + 32 * k) 8, fld man (272 + 32 * k) 8)
def sectBytes (a : StoreAnswer) (k : Nat) : Option (List Byte) := (a.sects[k]?).bind id

/-- The manifest's own checks. -/
def manifestOk (s : State) (man : List Byte) : Bool :=
  man.length == 4096 && fld man 0 4 == 0xA7E50E01 && fld man 4 2 == 1 && man.drop 4064 == sha256 (man.take 4064) &&
    fld man 12 4 == (engineId s).toNat

/-- Does a manifest belong to the context: rank, plan, and the health window W where one is set? -/
def manifestFits (s : State) (x : Ctx) (pl : Plan) (man health : List Byte) : Bool :=
  fld man 16 2 == pl.myRank && fld man 64 32 == pl.digest.toNat && (!x.hwSet || fld health 0 1 == viewRead s x cbHwW 1)

/-- The loss of a valid seal line of a step. -/
def sealLoss (step : Nat) (l : Option (List Byte)) : Option (BitVec 32) :=
  l.bind (fun b => if fld b 0 4 = 0xA7E50E02 ∧ fld b 4 4 = step ∧ fld b 12 8 = crc64 (b.take 12) then some (w32 (fld b 8 4)) else none)

/-- The streams of a boundary structure, as (number, draw count). -/
def hostStreams (b : List Byte) : List (Nat × Nat) := (List.range (fld b 8 2)).map (fun i => (fld b (64 + 16 * i) 2, fld b (72 + 16 * i) 8))

/-- The first inconsistent stream: number, recorded count, presented count. -/
def streamClash (rec pres : List (Nat × Nat)) : Option (Nat × Nat × Nat) :=
  let none64 := 2 ^ 64 - 1
  let cnt (l : List (Nat × Nat)) (n : Nat) : Nat := ((l.find? (fun p => p.1 == n)).map (·.2)).getD none64
  let has (l : List (Nat × Nat)) (n : Nat) : Bool := l.any (fun p => p.1 == n)
  ((List.range 65536).find? (fun n => (has rec n || has pres n) && !(has rec n && has pres n && cnt rec n == cnt pres n))).map
    (fun n => (n, cnt rec n, cnt pres n))

/-- Section 0's entries over the list in the view. DEDUCED, log entry 31. -/
def rewind (s : State) (x : Ctx) (off : Nat) (b : List Byte) : State :=
  if off = 0 then s else viewWrite (viewPut s x (off + 8) 2 (fld b 8 2)) x (off + 64) ((b.drop 64).take (16 * fld b 8 2))

/-- Step 3: EPOCH, scrub of the sheaves, glean log, bucket slots, block table entries and resend stores. -/
def restoreFence (s : State) (c : BitVec 8) : State :=
  let s := advanceEpoch s c 1 0
  let s := onTiles s (ctxTiles s c) (fun _ t => resetOnTile c t)
  let s := resetPorts (resetSaddles s c) c
  match ctxOf s c with
  | none => s
  | some x =>
    let s := (List.range 2).foldl (fun s k => match viewPhys x (atGlean + 2 ^ 27 * k) with
      | some a => { s with hbm := memZero s.hbm a (2 ^ 27) }
      | none => s) s
    let s := { s with upd := s.upd.filter (fun u => u.ctx != c)
                      saddles := tabMap s.saddles (fun _ d => { d with walks := tabDel d.walks c.toNat, bad := tabDel d.bad c.toNat }) }
    setCtx s c { x with gsn := 0, gleanMarks := [], lastLayerTab := 0, itemLogs := [], faults := [], stook := none, sealing := [], parts := [], reset := none
                        clip := [], sched := [], layerPol := [], restored := none }

/-- Where the bytes of a section go: pieces of (view offset, bytes). -/
def sectPieces (pl : Plan) (step : W32) (k : Nat) (b : List Byte) : List (Nat × List Byte) :=
  if k = 1 then [(atLayers, b)]
  else if k = 2 then
    let w := fld b 0 1 + 1
    let nt := fld b 2 2
    [(cbHwW, b.take 1), (cbHwNt, toBytes 2 nt), (atTids, (b.drop 64).take (4 * nt)), (atWindow, (b.drop (up (64 + 4 * nt) 64)).take (w * nt * 32))]
  else if k = 3 then [(pl.expOff + ((step + 1).toNat % 2) * expSetLen pl, b)]
  else if k = 4 then
    (((ownedBuckets pl).flatMap (fun p => bucketRanges pl p.2)).foldl (fun (a : List (Nat × List Byte) × List Byte) r =>
      let n := 4 * r.nelem
      (a.1 ++ [(r.master, a.2.take n), (r.mom1, (a.2.drop n).take n), (r.mom2, (a.2.drop (2 * n)).take n)], a.2.drop (3 * n))) ([], b)).1
  else []

/-- The places of the sections with the lengths that the manifest gives. -/
def sectRoom (pl : Plan) (step : W32) (man : List Byte) : List (Nat × List Byte) :=
  ([1, 2, 3, 4].flatMap (fun k => sectPieces pl step k (List.replicate (sectEntry man k).2.1 0))).filter (fun p => !p.2.isEmpty)

/-- A failure at step 4 or later: what the sections were to fill holds bytes that nothing states. DESIGN CHOICE, log entry 10. -/
def restoreUndefined (s : State) (x : Ctx) (l : List (Nat × List Byte)) : State :=
  l.foldl (fun s p =>
    let n := p.2.length
    viewWrite { s with free := s.free + n } x p.1 ((List.range n).map (fun i => Config.freeByte (s.free + i)))) s

/-- Step 5: seed, streaming copies, versions. -/
def restoreState (s : State) (c : BitVec 8) (pl : Plan) (step : W32) (seed : BitVec 64) (loss : Option (BitVec 32)) : State :=
  let set (r : Option RoleCtx) : Option RoleCtx := r.map (fun y => if y.ctx = c then { y with seed := seed } else y)
  let s := onTiles s (ctxTiles s c) (fun _ t => { t with pri := set t.pri, snd := set t.snd })
  let s := (((ctxOf s c).map (fun x => stacksOf x.mask)).getD []).foldl (fun s k => updSaddle s k (fun d => { d with seeds := tabSet d.seeds c.toNat seed })) s
  let owned := ownedBuckets pl
  let s := updCtx s c (fun x => { x with
    seed := seed, hwSet := true, boundaryDone := some step, restored := some (step, loss)
    win := { WinnowCtx.init with plan := some pl, stale := x.win.stale, front := orderIx pl (step + 1) 0
                                 versions := owned.foldl (fun t p => tabSet t p.1 step) [] } })
  let s := replaceGraphs s c
  (owned.flatMap (fun p => bucketRanges pl p.2)).foldl (fun s r =>
    match ctxOf s c with
    | some x => (emitRange s c x r (optGroup s x r.group).emit step).1
    | none => s) s

/-- Step 6: RESUME to every engine of the peer table. -/
def sendResume (s : State) (c : BitVec 8) (oldest : W32) : State :=
  let rno := s.cairn.rno
  sendNotices { s with cairn := { s.cairn with rno := (rno + 1) % 2 ^ 16 } } c (engineId s) rno oldest 4

/-- Steps 3 to 6. DEDUCED, log entry 31. -/
def restoreRun (s : State) (n : Nat) (c : BitVec 8) (pl : Plan) (a : StoreAnswer) (man : List Byte) : State :=
  let step := w32 (fld man 8 4)
  let s := restoreFence s c
  match ctxOf s c with
  | none => s
  | some x =>
    let bad (k : Nat) : Bool := match sectBytes a k with
      | some b => b.length != (sectEntry man k).2.1 || (sectEntry man k).2.2 != secDigest (memWriteBytes [] (sectEntry man k).1 b) (sectEntry man k).1 b.length
      | none => false
    if (List.range 5).any (fun k => (sectBytes a k).isNone) then answer (restoreUndefined s x (sectRoom pl step man)) n (ans stBadArg 0x33)
    else if (List.range 5).any bad then answer (restoreUndefined s x (sectRoom pl step man)) n (ans stBadArg 0x34)
    else
      let pieces := (List.range 5).flatMap (fun k => sectPieces pl step k ((sectBytes a k).getD []))
      let s := pieces.foldl (fun s p => viewWrite s x p.1 p.2) s
      let s := restoreState s c pl step (BitVec.ofNat 64 (fld man 32 8)) (sealLoss step.toNat a.sealLine)
      sendResume (answer s n okAns) c (step + 1)

/-- Abandons the replay of a FAULTED context and cancels its submissions; the restore goes on once the cancel is complete.
DEDUCED, log entry 31. -/
def abandonReplay (s : State) (c : BitVec 8) (x : Ctx) : State :=
  let nos := ((unfinished x).filter (fun b => !b.cancelling)).map (·.no)
  if nos.isEmpty then s else beginCancel s c nos

/-- DEDUCED, log entry 31. -/
def stookRestore (s : State) (n : Nat) (a : StoreAnswer) : State :=
  runCmd s n 0x0602 (fun _ => true) fun s m =>
    let c : BitVec 8 := BitVec.ofNat 8 (argN m 2)
    onReady s n c true fun x =>
      let ep : BitVec 24 := BitVec.ofNat 24 (argN m 3)
      let list := argN2 m 6
      if !hasFeature s n stookFeature then denied s n 1
      else if !argsOk m [(2, 0x1FF), (3, 0xFFFFFF), (4, m32), (5, m32), (6, m32), (7, m32)] then badArg s n
      else match x.win.plan with
        | none => denied s n 2
        | some pl =>
          if !(unfinished x).isEmpty then (if x.reset.isSome then abandonReplay s c x else denied s n 2)
          else if list ≠ 0 ∧ (viewSz x < list + 64 ∨ viewSz x < list + 64 + 16 * viewRead s x (list + 8) 2) then badArg s n
          else match a.manifest, sectBytes a 0, sectBytes a 2 with
            | some man, some b0, some b2 =>
              if (endpointOf s ep (fun _ => true)).isNone then answer s n (ans stBadArg 0x33)
              else if !manifestOk s man then answer s n (ans stBadArg 0x32)
              else if !manifestFits s x pl man b2 then answer s n (ans stBadArg 0x31)
              else
                let pres := if list = 0 then [] else hostStreams (viewBytes s x list (64 + 16 * viewRead s x (list + 8) 2))
                match (if argBit m 2 8 then none else streamClash (hostStreams b0) pres) with
                | some e => answer s n (ansBody stStookInconsistent 0
                    [w32 e.1, w32 e.2.1, w32 (e.2.1 / 2 ^ 32), w32 e.2.2, w32 (e.2.2 / 2 ^ 32)])
                | none =>
                  if !maySpace s c then s
                  else restoreRun (if argBit m 2 8 then rewind s x list b0 else s) n c pl a man
            | _, _, _ => answer s n (ans stBadArg 0x33)

/-! ### STOOK_VERIFY (R481) -/

def stookVerify (s : State) (n : Nat) : State :=
  runCmd s n 0x0603 (fun _ => true) fun s m =>
    let c : BitVec 8 := BitVec.ofNat 8 (argN m 2)
    onReady s n c false fun x =>
      if !hasFeature s n stookFeature then denied s n 1
      else if !argsOk m [(2, 0xFF)] then badArg s n
      else match x.restored with
        | some (_, some _) => verifyTry (setAwait s n (.verify c)) c
        | _ => answer s n (ans stBadArg 0x36)

/-- STOOK_TAKE (R469). -/
def execStookTake (chan : Nat) (s : State) : Host.Outcome State Fault Refusal :=
  .next (stookTake s chan)

/-- STOOK_RESTORE (R478). -/
def execStookRestore (chan : Nat) (store : StoreAnswer) (s : State) : Host.Outcome State Fault Refusal :=
  .next (stookRestore s chan store)

/-- STOOK_VERIFY (R481). -/
def execStookVerify (chan : Nat) (s : State) : Host.Outcome State Fault Refusal :=
  .next (stookVerify s chan)

end Sys2Proof.Machine
end

