-- ==== Sys2Proof/Machine/SlhDsa.lean ====
section
/-! DEFINITION. SLH-DSA-SHA2-192s and SLH-DSA-SHA2-192f (R416, R419, R424, R427, R428): the functions of FIPS 205 in their pure form with an
empty context string. -/
namespace Sys2Proof.Machine

/-- A parameter set: height of the hypertree and its layers, height and number of FORS trees. Values have 24 bytes, digits 4 bits. -/
structure Slh where
  h : Nat
  d : Nat
  a : Nat
  k : Nat
deriving DecidableEq, Repr

def slh192s : Slh := ⟨63, 7, 14, 17⟩
def slh192f : Slh := ⟨66, 22, 8, 33⟩

def slhN : Nat := 24
/-- Digits of a value that WOTS+ signs, with its checksum's. -/
def wotsLen : Nat := 51
/-- The height of one layer's tree. -/
def Slh.ht (p : Slh) : Nat := p.h / p.d
/-- The values of a FORS signature and of one layer's. -/
def Slh.forsVals (p : Slh) : Nat := p.k * (p.a + 1)
def Slh.layerVals (p : Slh) : Nat := wotsLen + p.ht
/-- The bytes of a signature. -/
def Slh.sigLen (p : Slh) : Nat := slhN * (1 + p.forsVals + p.d * p.layerVals)

/-! ### Addresses and tweaked hashes -/

/-- Where a hash stands: layer, tree, type (0 WOTS+ chain, 1 WOTS+ key, 2 tree, 3 FORS tree, 4 FORS roots, 5 WOTS+ secret, 6 FORS secret) and
its three type words, compressed. -/
def slhAddr (layer tree type w1 w2 w3 : Nat) : List Byte :=
  beBytes 1 layer ++ beBytes 8 tree ++ beBytes 1 type ++ beBytes 4 w1 ++ beBytes 4 w2 ++ beBytes 4 w3

/-- One value hashed, under the public seed. -/
def slhF (seed addr m : List Byte) : List Byte := (sha256 (seed ++ List.replicate (64 - slhN) 0 ++ addr ++ m)).take slhN
/-- Two and more values hashed. -/
def slhH (seed addr m : List Byte) : List Byte := (sha512 (seed ++ List.replicate (128 - slhN) 0 ++ addr ++ m)).take slhN

/-- Digit i of b bits, from the highest. -/
def slhDigit (m : List Byte) (b i : Nat) : Nat := beNat m / 2 ^ (8 * m.length - b * (i + 1)) % 2 ^ b

/-! ### WOTS+ -/

/-- The digits of a value and of its checksum. -/
def wotsDigits (m : List Byte) : List Nat :=
  let l := (List.range (2 * slhN)).map (slhDigit m 4)
  let c := (l.map (15 - ·)).sum
  l ++ [c / 256 % 16, c / 16 % 16, c % 16]

/-- A value moved along its chain by n steps from place i. -/
def wotsChain (seed : List Byte) (layer tree pair c : Nat) (i n : Nat) (x : List Byte) : List Byte :=
  (List.range n).foldl (fun x j => slhF seed (slhAddr layer tree 0 pair c (i + j)) x) x

/-- The public key that the ends of the chains make. -/
def wotsKey (seed : List Byte) (layer tree pair : Nat) (ends : List (List Byte)) : List Byte := slhH seed (slhAddr layer tree 1 pair 0 0) ends.flatten

/-- The public key that a signature of m implies. -/
def wotsFrom (seed : List Byte) (layer tree pair : Nat) (sig : List (List Byte)) (m : List Byte) : List Byte :=
  wotsKey seed layer tree pair ((List.zip sig (wotsDigits m)).zipIdx.map (fun p => wotsChain seed layer tree pair p.2 p.1.2 (15 - p.1.2) p.1.1))

/-- The secret value of a chain. -/
def wotsSecret (sk seed : List Byte) (layer tree pair c : Nat) : List Byte := slhF seed (slhAddr layer tree 5 pair c 0) sk

def wotsPublic (sk seed : List Byte) (layer tree pair : Nat) : List Byte :=
  wotsKey seed layer tree pair ((List.range wotsLen).map (fun c => wotsChain seed layer tree pair c 0 15 (wotsSecret sk seed layer tree pair c)))

def wotsSign (sk seed : List Byte) (layer tree pair : Nat) (m : List Byte) : List (List Byte) :=
  (wotsDigits m).zipIdx.map (fun p => wotsChain seed layer tree pair p.2 0 p.1 (wotsSecret sk seed layer tree pair p.2))

/-! ### Trees -/

/-- The node that a leaf and its authentication path give; `at_` is the address of a node by height and index. -/
def treeClimb (seed : List Byte) (at_ : Nat → Nat → List Byte) (ix : Nat) (path : List (List Byte)) (leaf : List Byte) : List Byte :=
  path.zipIdx.foldl (fun x p =>
    slhH seed (at_ (p.2 + 1) (ix / 2 ^ (p.2 + 1))) (if bitOf ix p.2 then p.1 ++ x else x ++ p.1)) leaf

/-- Node i of a height. -/
def treeNode (seed : List Byte) (at_ : Nat → Nat → List Byte) (leaf : Nat → List Byte) : Nat → Nat → List Byte
  | 0, i => leaf i
  | z + 1, i => slhH seed (at_ (z + 1) i) (treeNode seed at_ leaf z (2 * i) ++ treeNode seed at_ leaf z (2 * i + 1))

/-- The sibling of node i. -/
def sibling (i : Nat) : Nat := if i % 2 = 0 then i + 1 else i - 1
/-- The authentication path of a leaf. -/
def treePath (seed : List Byte) (at_ : Nat → Nat → List Byte) (leaf : Nat → List Byte) (n ix : Nat) : List (List Byte) :=
  (List.range n).map (fun z => treeNode seed at_ leaf z (sibling (ix / 2 ^ z)))

/-- The layers of the hypertree: which tree and which leaf of it. -/
def layerAt (p : Slh) (tree leaf : Nat) : Nat → Nat × Nat
  | 0 => (tree, leaf)
  | j + 1 => let q := layerAt p tree leaf j; (q.1 / 2 ^ p.ht, q.1 % 2 ^ p.ht)

/-- The root that one layer's signature of m implies. -/
def layerRoot (seed : List Byte) (layer tree leaf : Nat) (sig : List (List Byte)) (m : List Byte) : List Byte :=
  treeClimb seed (fun z i => slhAddr layer tree 2 0 z i) leaf (sig.drop wotsLen) (wotsFrom seed layer tree leaf (sig.take wotsLen) m)

def layerSign (p : Slh) (sk seed : List Byte) (layer tree leaf : Nat) (m : List Byte) : List (List Byte) :=
  wotsSign sk seed layer tree leaf m ++
    treePath seed (fun z i => slhAddr layer tree 2 0 z i) (wotsPublic sk seed layer tree) p.ht leaf

/-! ### FORS -/

def forsAt (tree pair : Nat) (z i : Nat) : List Byte := slhAddr 0 tree 3 pair z i
def forsSecret (sk seed : List Byte) (tree pair i : Nat) : List Byte := slhF seed (slhAddr 0 tree 6 pair 0 i) sk
/-- The leaf of a secret value. -/
def forsLeaf (seed : List Byte) (tree pair i : Nat) (x : List Byte) : List Byte := slhF seed (forsAt tree pair 0 i) x

/-- Which leaf of tree t a digest chooses, among those of all trees. -/
def forsIx (p : Slh) (md : List Byte) (t : Nat) : Nat := t * 2 ^ p.a + slhDigit md p.a t

/-- The public key that a FORS signature of a digest implies. -/
def forsFrom (p : Slh) (seed : List Byte) (tree pair : Nat) (sig : List (List Byte)) (md : List Byte) : List Byte :=
  slhH seed (slhAddr 0 tree 4 pair 0 0) ((List.range p.k).flatMap (fun t =>
    let v := (sig.drop (t * (p.a + 1))).take (p.a + 1)
    let ix := forsIx p md t
    treeClimb seed (forsAt tree pair) ix (v.drop 1) (forsLeaf seed tree pair ix (v.headD []))))

def forsSign (p : Slh) (sk seed : List Byte) (tree pair : Nat) (md : List Byte) : List (List Byte) :=
  (List.range p.k).flatMap (fun t =>
    let ix := forsIx p md t
    forsSecret sk seed tree pair ix ::
      treePath seed (forsAt tree pair) (fun i => forsLeaf seed tree pair i (forsSecret sk seed tree pair i)) p.a ix)

/-! ### Keys, signatures, verification -/

/-- What the randomized digest of a message chooses: the FORS digest, the tree and the leaf that sign it. -/
structure SlhPick where
  md : List Byte
  tree : Nat
  leaf : Nat
deriving DecidableEq, Repr

def slhPick (p : Slh) (r seed root m : List Byte) : SlhPick :=
  let n1 := (p.k * p.a + 7) / 8
  let n2 := (p.h - p.ht + 7) / 8
  let n3 := (p.ht + 7) / 8
  let x := mgf512 (r ++ seed ++ sha512 (r ++ seed ++ root ++ m)) (n1 + n2 + n3)
  ⟨x.take n1, beNat ((x.drop n1).take n2) % 2 ^ (p.h - p.ht), beNat ((x.drop (n1 + n2)).take n3) % 2 ^ p.ht⟩

/-- The message with its prefix: pure form, empty context. -/
def slhMsg (m : List Byte) : List Byte := 0 :: 0 :: m

/-- Verifies a signature of a message under a public key of seed and root. -/
@[irreducible] def slhVerify (p : Slh) (pk m sig : List Byte) : Bool :=
  let seed := pk.take slhN
  let root := pk.drop slhN
  let v := piecesOf slhN (1 + p.forsVals + p.d * p.layerVals) sig
  let c := slhPick p (v.headD []) seed root (slhMsg m)
  let fors := forsFrom p seed c.tree c.leaf ((v.drop 1).take p.forsVals) c.md
  let top := (List.range p.d).foldl (fun x j =>
    let q := layerAt p c.tree c.leaf j
    layerRoot seed j q.1 q.2 ((v.drop (1 + p.forsVals + j * p.layerVals)).take p.layerVals) x) fors
  pk.length == 2 * slhN && sig.length == p.sigLen && top == root

/-- The root of the hypertree of a key: its top layer's tree. -/
def slhRoot (p : Slh) (sk seed : List Byte) : List Byte :=
  treeNode seed (fun z i => slhAddr (p.d - 1) 0 2 0 z i) (wotsPublic sk seed (p.d - 1) 0) p.ht 0

/-- The public key of SK.seed, SK.prf and PK.seed, given in that order. -/
@[irreducible] def slhPublic (p : Slh) (key : List Byte) : List Byte :=
  let seed := (key.drop (2 * slhN)).take slhN
  seed ++ slhRoot p (key.take slhN) seed

/-- The signature of a message by such a key; `rand`: the signer's fresh random value, or PK.seed. -/
@[irreducible] def slhSign (p : Slh) (key m rand : List Byte) : List Byte :=
  let sk := key.take slhN
  let seed := (key.drop (2 * slhN)).take slhN
  let m := slhMsg m
  let r := (hmacOf sha2of64 ((key.drop slhN).take slhN) (rand ++ m)).take slhN
  let c := slhPick p r seed (slhRoot p sk seed) m
  let fors := forsSign p sk seed c.tree c.leaf c.md
  let all := (List.range p.d).foldl (fun (y : List (List Byte) × List Byte) j =>
    let q := layerAt p c.tree c.leaf j
    let sig := layerSign p sk seed j q.1 q.2 y.2
    (y.1 ++ sig, layerRoot seed j q.1 q.2 sig y.2)) (fors, forsFrom p seed c.tree c.leaf fors c.md)
  r ++ all.1.flatten

end Sys2Proof.Machine
end

