-- ==== Sys2Proof/Machine/CmdMisc.lean ====
section
/-! DEFINITION. Field tests (R411, R462, R463), POWER_POLICY and FALLOW (R411, R216), ATTEST (R428, R429) and LOG_READ (R412). -/
namespace Sys2Proof.Machine

/-! ### FIELD_TEST (R411, R462) -/

def fieldTest (s : State) (n : Nat) : State :=
  runCmd s n 0x0701 (fun _ => true) fun s m =>
    if !fromPf n then denied s n 0
    else
      let h := argBits m 2 7 0
      onSheaf s n h false fun b _ =>
        let cats := argBits m 3 5 0
        if !argsOk m [(2, 0xFF), (3, 0x3F)] ∨ cats = 0 ∨ b.testing.isSome then badArg s n
        else setAwait (orderTest s h b cats true) n (.test h)

/-- Has a context come to rest on a sheaf: every instance begun is done, the buckets of its steps are committed, no stook is Open? -/
def atRest (s : State) (h : Nat) (b : Sheaf) (c : BitVec 8) : Bool :=
  match ctxOf s c with
  | none => true
  | some x =>
    let done := (unfinished x).all (fun u => u.sheaf != h || !begunInst s b (isSecond b c) u.no u.done)
    let steps := match x.win.plan, tabFind b.steps c.toNat with
      | some pl, some w => decide ((w.2 - pl.firstStep).toNat ≥ 2 ^ 31 ∨ orderIx pl w.2 (pl.buckets.length) ≤ x.win.front)
      | _, _ => true
    let emitting := (x.stook.map (fun k => k.st == .opened)).getD false
    x.reset.isNone && done && steps && !emitting

def sheafCtxs (b : Sheaf) : List (BitVec 8) := b.ctx :: b.second.toList

/-- FIELD_TEST_START: a test that was ordered begins once the sheaf's contexts have come to rest. DEDUCED, log entry 38. -/
def testStart (s : State) (h : Nat) : State :=
  match tabFind s.sheaves h with
  | none => s
  | some b => match b.testing with
    | some (cats, false, host) =>
      if (sheafCtxs b).all (atRest s h b) then { s with sheaves := tabSet s.sheaves h { b with testing := some (cats, true, host) } } else s
    | _ => s

/-- The remaining instances of an interrupted submission as a new one. DEDUCED, log entry 38. -/
def resubmit (s : State) (c : BitVec 8) (b : Submission) : State :=
  match ctxOf s c with
  | none => s
  | some x =>
    let y : Submission := ⟨x.nextSub, b.sheaf, b.graph, instStep b b.done, b.count - b.done, b.notify, false, 0, [], false, false, false⟩
    setCtx s c { x with subs := x.subs ++ [y], nextSub := x.nextSub + 1, newest := tabSet x.newest b.sheaf x.nextSub }

/-- After a passed test: each interrupted submission of the sheaf is CANCELLED and its remaining instances are submitted afresh. -/
def resumeWork (s : State) (h : Nat) (c : BitVec 8) : State :=
  match ctxOf s c with
  | none => s
  | some x =>
    if x.reset.isSome then s
    else
      let l := (unfinished x).filter (fun b => b.sheaf == h && !b.cancelling)
      l.foldl (fun s b => resubmit s c b) (cancelRecs s c l)

/-- The banks of a tested tile are scrubbed, and what its contexts held there of the next instances goes. -/
def testedTile (cs : List (BitVec 8)) (t : Tile) : Tile :=
  let t := (List.range 12).foldl (fun t k => scrubBank k t) t
  rxTidy { t with accA := .init, accB := .init, rx := t.rx.filter (fun r => !cs.contains r.ctx), early := t.early.filter (fun p => !cs.contains p.1) }

/-- The graphs of a sheaf are placed again after a scrub. -/
def placeSheaf (s : State) (h : Nat) (cs : List (BitVec 8)) : State :=
  cs.foldl (fun s c => (((ctxOf s c).map (·.graphs)).getD []).foldl (fun s g => if g.sheaf = h then placeGraph s g else s) s) s

/-- FIELD_TEST_COMPLETE: `failed` categories and the failing tiles; a category of the tile core fails on a tile. DEDUCED, log entry 38. -/
def testComplete (s : State) (h : Nat) (failed : BitVec 6) (tiles : List Nat) : State :=
  match tabFind s.sheaves h with
  | none => s
  | some b => match b.testing with
    | some (cats, true, _) =>
      let f := failed.toNat
      if f &&& cats ≠ f ∨ !tiles.all (inSheafOf b) ∨ tiles.isEmpty ≠ (f % 16 == 0) ∨ !tiles.Nodup then s
      else
        let cs := sheafCtxs b
        let n := tiles.length
        let one := (tiles.head?).getD 0
        let s := placeSheaf (onTiles s (sheafTiles b) (fun _ t => testedTile cs t)) h cs
        let s := logCairn s 0x0503 (some b.ctx) (cats + 2 ^ 8 * f + 2 ^ 16 * n + 2 ^ 32 * one)
        let s := suspectWindow s h
        let s := { s with sheaves := tabSet s.sheaves h { b with testing := none, steps := if f = 0 then [] else b.steps } }
        let s := if f = 0 then cs.foldl (fun s c => resumeWork s h c) s else s
        let s := cs.foldl (fun s c => unquiesce s c (.test h)) s
        let s := answerAwaiting s (.test h) (ansBody stOk 0 [w32 f, w32 n, w32 one])
        let s := tiles.foldl (fun s i => if s.cairn.engState = 6 then tileFailed s i 1 else hardFail s i 1) s
        if f / 16 ≠ 0 then takeOutOfService s 8 else s
    | _ => s

/-! ### POWER_POLICY (R411, R505, R506) -/

def powerPolicy (s : State) (n : Nat) : State :=
  runCmd s n 0x0801 (fun _ => true) fun s m =>
    if !fromPf n then denied s n 0
    else
      let cap := argBits m 2 15 0
      let fmax := argBits m 3 4 0
      let ok := argBit m 3 8
      if !argsOk m [(2, 0xFFFF), (3, 0x11F)] ∨ (cap ≠ 0 ∧ (cap < 120 ∨ 280 < cap)) ∨ (fmax ≠ 0 ∧ (fmax < 10 ∨ 27 < fmax)) then badArg s n
      else
        let cap := if cap = 0 then powerClass s else min cap (powerClass s)
        let fmax := if fmax = 0 then 27 else fmax
        let s := { s with module := { s.module with cap := cap, fmax := fmax, fallowOk := ok } }
        let s := if ok then s else autoWake s s.module.autoFallow
        answer s n (ansBody stOk 0 [w32 (capNow s), w32 fmax])

/-! ### FALLOW (R411, R216) -/

/-- The power state of a MODE. DEDUCED, log entry 39. -/
def modePower (k : Nat) : TilePower := if k = 0 then .run else if k = 1 then .fallow else .deep

/-- Sets tiles to a mode; a change sets THERMAL. -/
def setPower (s : State) (k : Nat) (l : List Nat) : State :=
  let p := modePower k
  let s' := l.foldl (fun s i => if k = 0 then wakeTile s i else sleepTile s p i) s
  if l.any (fun i => (tileOf s i).power != p) then setEvt s' evtThermal else s'

/-- DEDUCED, log entry 40. -/
def fallowSheaf (s : State) (n : Nat) : State :=
  runCmd s n 0x0802 (fun m => !argBit m 2 0) fun s m =>
    let h := argBits m 2 15 8
    let mode := argBits m 2 17 16
    onSheaf s n h false fun b _ =>
      let l := rectTiles b.x0 b.y0 b.w b.h
      if !argsOk m [(2, 0x3FF01), (3, 0xFFFF), (4, 0x1FF01FF)] ∨ mode = 3 then badArg s n
      else if (sheafCtxs b).any (fun c => workOn s c h) then denied s n (tileIx b.x0 b.y0)
      else match (if mode = 2 then l.find? (deepBlocked s (some h)) else none) with
        | some i => denied s n i
        | none =>
          let slept := (sheafTiles b).filter (fun i => (tileOf s i).power != .run)
          let s := setPower s mode l
          let s := if mode = 0 then onTiles s slept (fun _ t => loadSheafTile s b t) else s
          answer s n okAns

/-- DEDUCED, log entry 40. -/
def fallowRectangle (s : State) (n : Nat) : State :=
  runCmd s n 0x0802 (fun m => argBit m 2 0) fun s m =>
    if !fromPf n then denied s n 0
    else
      let mode := argBits m 2 17 16
      let x0 := argBits m 3 7 0
      let y0 := argBits m 3 15 8
      let w := argBits m 4 8 0
      let h := argBits m 4 24 16
      let l := rectTiles x0 y0 w h
      if !argsOk m [(2, 0x3FF01), (3, 0xFFFF), (4, 0x1FF01FF)] ∨ mode = 3 ∨ x0 % 8 ≠ 0 ∨ y0 % 8 ≠ 0 ∨ w % 8 ≠ 0 ∨ h % 8 ≠ 0 ∨
          w = 0 ∨ h = 0 ∨ gridW s < x0 + w ∨ 256 < y0 + h then badArg s n
      else match l.find? (fun i => boundTile s i || (decide (mode = 2) && deepBlocked s none i)) with
        | some i => denied s n i
        | none =>
          let bl := blocksOf x0 y0 w h
          let s := { s with module := { s.module with autoFallow := s.module.autoFallow.filter (fun o => !bl.contains o) } }
          answer (setPower s mode l) n okAns

/-! ### ATTEST (R427 to R429) -/

/-- DEDUCED, log entry 41. -/
def identityAt : Nat := 0x3FF0000
def certLen : Nat := 16480

/-- The device certificate: from device 0, or from device 1 where device 0's sector is erased (R427). -/
def deviceCert (s : State) : List Byte :=
  let a := memBytes s.flash0 identityAt certLen
  if a.all (· == 0) then memBytes s.flash1 identityAt certLen else a

/-- The ASCII bytes of "Yalba identity 1". -/
def identityInfo : List Byte := [0x59, 0x61, 0x6C, 0x62, 0x61, 0x20, 0x69, 0x64, 0x65, 0x6E, 0x74, 0x69, 0x74, 0x79, 0x20, 0x31]

/-- The 72 bytes from which the device identity key pair is formed. -/
def identitySeed (s : State) : List Byte := hkdf (toBytes 32 s.shadow.idseed.toNat) identityInfo 72

/-- The number of SVN fuses set. -/
def svnCount (f : Fuses) : Nat := ((List.range 64).filter (fun i => bitOf f.svn.toNat i)).length

def reportLen : Nat := 52560

/-- Bytes [16895:0] of a report over a nonce. -/
def reportBody (s : State) (nonce : List Byte) : List Byte :=
  let k := s.cairn
  toBytes 4 0xA7E50D01 ++ toBytes 2 1 ++ toBytes 2 (flagBit k.debugOpen 0 + flagBit k.certBad 1 + flagBit s.straps.sec 2) ++
    toBytes 4 reportLen ++ toBytes 4 0 ++ toBytes 4 k.restarts ++ toBytes 4 (svnCount s.shadow) ++
    toBytes 4 ((k.maelec.map (·.imgVer)).getD 0) ++ toBytes 4 ((k.nuarn.map (·.imgVer)).getD 0) ++ toBytes 4 (k.rseq + 1) ++
    toBytes 4 (engineId s).toNat ++ toBytes 8 s.shadow.serial.toNat ++ toBytes 2 (engDev s / 2 ^ 16) ++ toBytes 2 (engDev s) ++
    toBytes 4 (engCaps s) ++ toBytes 72 0 ++ nonce ++ k.meas.flatMap (fun d => toBytes 32 d.toNat) ++ deviceCert s

/-- A signed report; the signer's random value is free. -/
def reportOf (s : State) (nonce : List Byte) : List Byte :=
  let b := reportBody s nonce
  let sig := slhSign slh192f (identitySeed s) b (toBytes 24 (Config.signRand s.free).toNat)
  b ++ (List.range 35664).map (fun i => sig.getD i 0)

def attest (s : State) (n : Nat) : State :=
  runCmd s n 0x0901 (fun _ => true) fun s m =>
    let off := argN m 10
    if !argsOk m [(2, m32), (3, m32), (4, m32), (5, m32), (6, m32), (7, m32), (8, m32), (9, m32), (10, m32)] then badArg s n
    else
      let nonce := (List.range 8).flatMap (fun i => toBytes 4 (argN m (i + 2)))
      let s := if off = 0 then
          let r := reportOf s nonce
          updChan { s with free := s.free + 1, cairn := { s.cairn with rseq := s.cairn.rseq + 1 } } n (fun c => { c with report := r })
        else s
      let r := (chanOf s n).report
      if off % 2016 ≠ 0 ∨ r.length ≤ off then badArg s n
      else answer s n ⟨stOk, 0, [w32 r.length, w32 off], (r.drop off).take 2016⟩

/-! ### LOG_READ (R412) -/

/-- The 32 bytes of a log record (R436). -/
def recBytes (r : LogRec) : List Byte :=
  toBytes 2 r.kind ++ toBytes 1 (flagBit r.ctx.isSome 0 + flagBit r.step.isSome 1 + flagBit r.stamp.isSome 2) ++
    toBytes 1 ((r.ctx.map (·.toNat)).getD 0) ++ toBytes 4 r.ms ++ toBytes 4 ((r.step.map (·.toNat)).getD 0) ++
    toBytes 4 (r.index + 2 ^ 28 * r.unit) ++ toBytes 2 ((r.stamp.map (·.1)).getD 0) ++ toBytes 6 ((r.stamp.map (·.2)).getD 0) ++
    toBytes 8 r.arg

/-- The reply with records from an index: those held begin at `old`. -/
def logAns (old first want : Nat) (recs : List (List Byte)) : Ans :=
  let lo := max first old
  let l := (recs.drop (lo - old)).take want
  ⟨stOk, 0, [w32 l.length, w32 (lo + l.length), w32 (lo - first)], l.flatten⟩

def ringAns (first want : Nat) (r : LogRing) : Ans := logAns (r.written - r.recs.length) first want (r.recs.map recBytes)

/-- The neighbours heard by LLDP, in port order, as records of 252 bytes. -/
def lldpRecs (s : State) : List (List Byte) :=
  (s.eth.ports.filter (fun p => !p.2.lldp.isEmpty)).map (fun p =>
    let b := toBytes 2 p.1 ++ p.2.lldp
    (b ++ List.replicate (252 - b.length) 0).take 252)

def logRead (s : State) (n : Nat) : State :=
  runCmd s n 0x0A01 (fun _ => true) fun s m =>
    let log := argBits m 2 7 0
    let first := argN m 3
    let want := argN m 4
    let bad := !argsOk m [(2, 0xFFFF), (3, m32), (4, m32)] || decide (want < 1 ∨ 63 < want)
    if log = 2 then
      let c : BitVec 8 := BitVec.ofNat 8 (argBits m 2 15 8)
      onCtx s n c true fun x =>
        if bad then badArg s n
        else
          let wr := viewRead s x cbNlWr 4
          let old := wr - 4096
          answer s n (logAns old first want ((List.range (wr - old)).map (fun i => viewBytes s x (atNumLog + 32 * ((old + i) % 4096)) 32)))
    else if log = 0 ∨ 4 < log then badArg s n
    else if !fromPf n then denied s n 0
    else if bad then badArg s n
    else answer s n (if log = 1 then ringAns first want s.faultLog else if log = 3 then ringAns first want s.eventLog
      else logAns 0 first (min want 8) (lldpRecs s))

/-- FIELD_TEST (R411). -/
def execFieldTest (chan : Nat) (s : State) : Host.Outcome State Fault Refusal :=
  .next (fieldTest s chan)

/-- FIELD_TEST_START (R462). -/
def execFieldTestStart (sheaf : Nat) (s : State) : Host.Outcome State Fault Refusal :=
  .next (testStart s sheaf)

/-- FIELD_TEST_COMPLETE (R462). -/
def execFieldTestComplete (sheaf : Nat) (failed : BitVec 6) (tiles : List Nat) (s : State) : Host.Outcome State Fault Refusal :=
  .next (testComplete s sheaf failed tiles)

/-- POWER_POLICY (R411). -/
def execPowerPolicy (chan : Nat) (s : State) : Host.Outcome State Fault Refusal :=
  .next (powerPolicy s chan)

/-- FALLOW_SHEAF (R411). -/
def execFallowSheaf (chan : Nat) (s : State) : Host.Outcome State Fault Refusal :=
  .next (fallowSheaf s chan)

/-- FALLOW_RECTANGLE (R216). -/
def execFallowRectangle (chan : Nat) (s : State) : Host.Outcome State Fault Refusal :=
  .next (fallowRectangle s chan)

/-- ATTEST (R429). -/
def execAttest (chan : Nat) (s : State) : Host.Outcome State Fault Refusal :=
  .next (attest s chan)

/-- LOG_READ (R412). -/
def execLogRead (chan : Nat) (s : State) : Host.Outcome State Fault Refusal :=
  .next (logRead s chan)

end Sys2Proof.Machine
end

