-- ==== Sys2Proof/Machine/Boot.lean ====
section
/-! DEFINITION. Boot and power (R416 to R433, R488 to R496): firmware images and the ROM's checks, measurements, standby reset and straps,
recovery, the loss of main power, the way to ready, and the engine restart after a warden failure (R465). -/
namespace Sys2Proof.Machine

/-! ### Images (R418 to R420) -/

def hdrSize : Nat := 16480
def codeAt : Nat := 0x10000
def compAt : Nat := 0x200000
def codeMax : Nat := 1572864
def compMax : Nat := 64946176

def imMaelen (h : List Byte) : Nat := fld h 16 4
def imComplen (h : List Byte) : Nat := fld h 20 4
def imSvn (h : List Byte) : Nat := fld h 12 2
def imKey (h : List Byte) : Nat := fld h 6 2

/-- The magic number, version, reserved fields and lengths of a header. -/
def hdrValid (h : List Byte) : Bool :=
  fld h 0 4 == 0xA7E50B01 && fld h 4 2 == 1 && fld h 14 1 == 0 && decide (fld h 15 1 < 16) && ((h.drop 136).take 120).all (· == 0) &&
    decide (1 ≤ imMaelen h ∧ imMaelen h ≤ codeMax ∧ 1 ≤ imComplen h ∧ imComplen h ≤ compMax ∧ imSvn h ≤ 64)

/-- The key index is not revoked and the public key is the one that the fuses name. -/
def keyValid (f : Fuses) (h : List Byte) : Bool :=
  !bitOf f.keyrev.toNat (imKey h) && f.keyhash[imKey h]? == some (digestOf ((h.drop 88).take 48))

/-- The first check of R420 that an image fails, numbered from 1; none where the ROM accepts it. DEDUCED, log entry 41. -/
def imageFail (f : Fuses) (floor : Nat) (h code : List Byte) : Option Nat :=
  if !hdrValid h then some 1
  else if !keyValid f h then some 2
  else if !slhVerify slh192s ((h.drop 88).take 48) (h.take 256) ((h.drop 256).take 16224) then some 3
  else if imSvn h < floor then some 4
  else if sha256 (code.take (imMaelen h)) ≠ (h.drop 24).take 32 then some 5
  else none

def compValid (h comp : List Byte) : Bool := sha256 (comp.take (imComplen h)) == (h.drop 56).take 32
/-- COMPDIG, checked by Maelec after the ROM's checks. -/
def compCheck : Nat := 6

def flashOf (s : State) (k : Nat) : Mem := if k = 0 then s.flash0 else s.flash1
def setFlash (s : State) (k : Nat) (m : Mem) : State := if k = 0 then { s with flash0 := m } else { s with flash1 := m }
@[irreducible] def hdrOf (m : Mem) : List Byte := memBytes m 0 hdrSize
@[irreducible] def codeOf (m : Mem) : List Byte := memBytes m codeAt (min codeMax (imMaelen (hdrOf m)))
@[irreducible] def compOf (m : Mem) : List Byte := memBytes m compAt (min compMax (imComplen (hdrOf m)))

/-- Writes an image to a device in the order of R431: header erased, code and companion area written and read back, header last. The
identity sector stays. Whether the digests held. -/
def writeImage (m : Mem) (img : List Byte) : Mem × Bool :=
  let h := img.take hdrSize
  let m := memZero m 0 identityAt
  let m := memWriteBytes m codeAt ((img.drop codeAt).take (imMaelen h))
  let m := memWriteBytes m compAt ((img.drop compAt).take (imComplen h))
  let ok := sha256 (memBytes m codeAt (imMaelen h)) == (h.drop 24).take 32 && compValid h (memBytes m compAt (imComplen h))
  if ok then (memWriteBytes m 0 (img.take codeAt), true) else (m, false)

/-! ### Measurements (R426) -/

/-- Extends a measurement register that is still zero. -/
def extend (s : State) (k : Nat) (d : BitVec 256) : State :=
  let m := s.cairn.meas.getD k 0
  if m ≠ 0 then s
  else { s with cairn := { s.cairn with meas := s.cairn.meas.set k (digestOf (toBytes 32 m.toNat ++ toBytes 32 d.toNat)) } }

/-- The boot record of M2. -/
def bootRecord (s : State) (image key : Nat) : List Byte :=
  let t := s.straps
  let l := [image, key, svnCount s.shadow, t.boot.toNat, t.host.toNat, flagBit t.sec 0, t.pwr.toNat, flagBit t.spur 0, t.eth.toNat
           , t.slot.toNat, flagBit t.dbg 0]
  l.map (BitVec.ofNat 8) ++ List.replicate 21 0

/-! ### The ROM (R420, R421) -/

def bootFailed (s : State) (image check : Nat) : State := logCairn s 0x0101 none (image + 2 ^ 8 * check)
def engineFailed (s : State) : State := setEngState { s with cairn := { s.cairn with maelec := none } } 15

/-- Maelec of an accepted image starts: the measurements are formed for it. -/
def startMaelec (s : State) (k : Nat) (h : List Byte) : State :=
  let s := { s with cairn := { s.cairn with meas := List.replicate 8 0, rseq := 0, restarts := 0, compOk := false, wasReady := false
                                            maelec := some ⟨k, fld h 8 4, imKey h, imSvn h, fld h 15 1, []⟩ } }
  extend (extend (extend s 0 Config.romDigest) 1 (digestOf (h.take 256))) 2 (digestOf (bootRecord s k (imKey h)))

/-- The ROM tries images in turn. -/
def tryImages (s : State) : List Nat → State
  | [] => engineFailed s
  | k :: l =>
    let m := flashOf s k
    match imageFail s.shadow (svnCount s.shadow) (hdrOf m) (codeOf m) with
    | some c => tryImages (bootFailed s k c) l
    | none => startMaelec s k (hdrOf m)

/-- The images that STRAP_BOOT selects; recovery boots none. -/
def bootList (s : State) : List Nat := [[0], [1], [0, 1], []].getD s.straps.boot.toNat []
def romBoot (s : State) : State := if s.straps.boot = 3 then s else tryImages s (bootList s)

/-! ### Event 8 of main power-up (R427, R490) -/

/-- Maelec checks the companion area of its image, derives the identity key and starts the mapping; on a mismatch the ROM tries what
STRAP_BOOT still allows. `n` bounds the images tried. -/
def companion : Nat → State → State
  | 0, s => s
  | n + 1, s =>
    match s.cairn.maelec with
    | none => s
    | some u =>
      if !s.module.pgMain ∨ s.cairn.compOk ∨ s.cairn.engState ≠ 0 then s
      else
        let m := flashOf s u.image
        if compValid (hdrOf m) (compOf m) then
          let bad := (deviceCert s).drop 8 |>.take 48 |> fun k => k != slhPublic slh192f (identitySeed s)
          let s := { s with cairn := { s.cairn with compOk := true, certBad := bad, maelec := some { u with companion := compOf m } } }
          setEngState (if bad then logCairn s 0x0103 none 0 else s) 1
        else
          let s := bootFailed s u.image compCheck
          if s.straps.boot = 2 ∧ u.image = 0 then companion n (tryImages s [1]) else engineFailed s

/-- Event 8 where it is due. -/
def eventEight (s : State) : State := companion 2 s

/-! ### Loss of state -/

/-- A link that has lost its state; what it has sent is gone out. -/
def offLink (l : PortLink) : PortLink := { PortLink.init with ctl := l.ctl, sentFrames := l.sentFrames, kernel := l.kernel }

/-- Spurs with nothing connected: Down where the strap enables them. -/
def freshSpurs (s : State) : Tab Spur := if s.straps.spur then (List.range 8).map (fun j => (j, { Spur.init with st := spurDown })) else []

/-- Spurs that lose their state; a change of a SPURSTAT sets SPUR_CHG (R380). -/
def resetSpurs (s : State) : State :=
  let t := { s with spurs := freshSpurs s }
  let seen (s : State) (j : Nat) : Nat × Bool × BitVec 24 × Nat := let u := spurOf s j; (spurState s j, u.owner.isSome, u.nbr, u.nbrSpur)
  if (List.range 8).all (fun j => seen s j == seen t j) then t else setEvt t evtSpur

/-- Everything is cleared by a standby reset but fuses, flash and the levels of the pins (R494). -/
def clearAll (s : State) : State :=
  { State.reset with
    pending := s.pending, free := s.free, dev := s.dev, ticks := s.ticks, periods := s.periods, hotPeriods := s.hotPeriods, fuses := s.fuses, flash0 := s.flash0, flash1 := s.flash1
    module := { Module.init with stbyGood := s.module.stbyGood, stbyOff := s.module.stbyOff, mainEn := s.module.mainEn }
    pcie := { Pcie.init with perst := s.pcie.perst }
    eth := { Eth.init with cages := s.eth.cages, out := s.eth.out }, links := tabMap s.links (fun _ l => offLink l)
    msiOut := s.msiOut, mgmtOut := s.mgmtOut, cfgOut := s.cfgOut }

/-- Nuarn is gone: its channels, agreements, stewards and the doorbells. DEDUCED, log entry 43. -/
def dropNuarn (s : State) : State :=
  { s with chans := s.chans.filter (fun p => isSecure p.1), agree := [], pcie := { s.pcie with fifo := [] }
           cairn := { s.cairn with nuarn := none, ready := false, stewards := [] } }

/-- What commands of secure channels wait for ends with the contexts. -/
def endAwaits (s : State) : State :=
  s.chans.foldl (fun s p => match p.2.await with
    | some (.verify _) => answer s p.1 (ans stBadArg 0)
    | some (.test _) => answer s p.1 (ans stBadArg 0)
    | some _ => answer s p.1 okAns
    | none => s) s

/-- Every context is closed without more; EPOCHs are kept (R452). -/
def closeAll (s : State) : State := { s with ctxs := [], sheaves := [], leases := [], bslots := [], upd := [], spaced := [] }

/-- The main domain loses its power (R492, R494): wafer, HBM and every die outside the standby domain; contexts; Nuarn.
DEDUCED, log entry 43. -/
def mainOff (s : State) : State :=
  let s := resetSpurs (endAwaits (closeAll s))
  let s := dropNuarn
    { s with tiles := [], swaths := [], saddles := [], hbm := [], hbmBad := [], ring := [], links := tabMap s.links (fun _ l => offLink l)
             engine := none, eth := { Eth.init with cages := s.eth.cages, out := s.eth.out }
             pcie := { s.pcie with vecs := [] }
             cairn := { s.cairn with oos := none, restart := none, compOk := false, engIdHi := 0, errs := [], failedTiles := [], probing := [], probeSeen := [] }
             module := { s.module with phase := .off, pgMain := false, level := 0, hbmHot := [], hbmVery := [], hotActed := [], autoFallow := []
                                       winHigh := false, winSum := 0, winN := 0 } }
  followLink (if s.cairn.engState = 15 ∧ s.cairn.maelec.isNone then s else setEngState s 0)

/-- MAIN_POWER_LOST with its cause (R516). -/
def powerLost (s : State) (cause : Nat) : State := mainOff (logCairn s 0x0701 none cause)

/-- An immediate power-down (R492, R493). DEDUCED, log entry 43. -/
def powerCut (s : State) (cause : Nat) : State :=
  if s.module.phase = .off ∨ s.module.rst then s
  else powerLost { s with module := { s.module with alertLatch := true } } cause

/-! ### Standby (R489, R490, R494, R496) -/

/-- STANDBY_POWER_GOOD. -/
def standbyGood (s : State) : State := { s with module := { s.module with stbyGood := true, stbyOff := false } }
/-- STANDBY_BROWNOUT. -/
def brownout (s : State) : State := let s := clearAll s; followLink { s with module := { s.module with stbyGood := false } }
/-- STANDBY_OVERVOLTAGE. -/
def overvoltage (s : State) : State := let s := clearAll s; followLink { s with module := { s.module with stbyGood := false, stbyOff := true } }
/-- STBY_RST_ASSERT. -/
def rstAssert (s : State) : State := followLink (clearAll s)

/-- The contact D(i + 1) as latched: a bit that changes around the release takes either value. DESIGN CHOICE, log entry 9. -/
def strapBit (s : State) (contacts changed : BitVec 16) (i : Nat) : Bool :=
  if bitOf changed.toNat i then Config.freeBit (s.free + i) else bitOf contacts.toNat i

def latchStraps (b : Nat → Bool) : Straps :=
  let f (i : Nat) : Nat := flagBit (b i) 0
  { boot := BitVec.ofNat 2 (f 0 + 2 * f 1), host := BitVec.ofNat 2 (f 2 + 2 * f 3), sec := b 4
    pwr := BitVec.ofNat 3 (f 5 + 2 * f 6 + 4 * f 7), spur := b 8, eth := BitVec.ofNat 2 (f 9 + 2 * f 10)
    slot := BitVec.ofNat 4 (f 11 + 2 * f 12 + 4 * f 13 + 8 * f 14), dbg := b 15 }

/-- STBY_RST_RELEASE: straps latched, the fuse shadow copied, the policy at its defaults, the debug port opened or closed (R430), and the
ROM starts. -/
def rstRelease (s : State) (contacts changed : BitVec 16) : State :=
  if !s.module.rst ∨ !s.module.stbyGood then s
  else
    let st := latchStraps (strapBit s contacts changed)
    let s := { s with straps := st, shadow := s.fuses, free := s.free + 16 }
    let s := { s with spurs := freshSpurs s, module := { s.module with rst := false, cap := powerClass s }
                      cairn := { s.cairn with debugOpen := !st.dbg && !s.shadow.dbgdis } }
    romBoot s

/-- RECOVERY_IMAGE (R432). DEDUCED, log entry 41. -/
def recovery (s : State) (img : List Byte) : State :=
  let h := img.take hdrSize
  if s.module.rst ∨ s.straps.boot ≠ 3 ∨ s.cairn.engState ≠ 0 ∨ img.length ≠ compAt + imComplen h ∨
      (imageFail s.shadow (svnCount s.shadow) h ((img.drop codeAt).take (imMaelen h))).isSome then s
  else
    let a := writeImage s.flash0 img
    let b := writeImage s.flash1 img
    let s := { s with flash0 := a.1, flash1 := b.1 }
    if a.2 && b.2 then setEngState (logCairn s 0x0102 none 0) 15 else s

/-! ### The engine restart after a warden failure (R388, R465) -/

/-- A context of an engine whose warden fails is FAULTED, its reset held until it reopens. -/
def holdCtx (s : State) (c : BitVec 8) : State :=
  let rno := s.cairn.rno
  let s := updCtx s c (fun x =>
    { x with reset := some ⟨rno, 6, engineId s, true, false, [], 0, none, false, none, none⟩
             quiesced := x.quiesced.filter (fun q => match q with
               | .peer _ => true
               | _ => false) })
  { s with cairn := { s.cairn with rno := (rno + 1) % 2 ^ 16 } }

/-- The warden fails, by its watchdog or an SRAM error: the ROM boots, HBM stays in self-refresh.
DEDUCED, log entry 34; DEDUCED, log entry 43. -/
def wardenFail (s : State) (watchdog : Bool) : State :=
  if s.module.rst ∨ s.cairn.maelec.isNone then s
  else
    let k := s.cairn
    let s := dropNuarn { s with cairn := { Cairn.init with
      engState := k.engState, rno := k.rno, engIdHi := k.engIdHi, ms := k.ms, debugOpen := k.debugOpen, restart := if s.module.pgMain then some watchdog else none } }
    let s := { s with chans := [], spaced := [], ring := [], links := tabMap s.links (fun _ l => offLink l)
                      sheaves := tabMap s.sheaves (fun _ b => { b with testing := none, releasing := none }) }
    let s := (ctxNames s).foldl holdCtx (resetSpurs s)
    romBoot (setEngState s 0)

/-- Do Maelec's tables check: is no line of its carve-out lost (R385, R465)?. DEDUCED, log entry 43. -/
def tablesOk (s : State) : Bool :=
  let lo := (2 ^ 36 + 472 * 2 ^ 27) / 64
  !s.hbmBad.any (fun l => decide (lo ≤ l ∧ l < lo + 4 * 2 ^ 21))

/-- Sheaves are bound again to fresh tiles at the same logical positions. -/
def rebindAll (s : State) : State :=
  let s := { s with sheaves := tabMap s.sheaves (fun _ b => { b with shifts := [], steps := [] }) }
  s.sheaves.foldl (fun s p => onTiles s (sheafTiles p.2) (fun _ t => loadSheafTile s p.2 t)) s

/-- Contexts reopen with their numbers and partitions, or are all closed and every slab scrubbed. -/
def reopenAll (s : State) : State :=
  match s.cairn.restart with
  | none => s
  | some wd =>
    let ok := tablesOk s
    let s := logCairn { s with cairn := { s.cairn with restart := none } } 0x0603 none (flagBit wd 0 + flagBit ok 8)
    if ok then (ctxNames s).foldl runReset (rebindAll s)
    else closeAll { s with saddles := [], swaths := [], hbm := [], hbmBad := [], engine := none, cairn := { s.cairn with engIdHi := 0 } }

/-! ### From mapping to ready (R433) -/

/-- A start-up mapping leaves every tile reset (R71). -/
def freshTiles (s : State) : State :=
  { s with tiles := [], mapPeriods := s.periods, cairn := { s.cairn with failedTiles := [], probing := [], probeSeen := [], errs := [] }
           module := { s.module with autoFallow := [], hotActed := [] } }

/-- SHOT_UNMAPPABLE for every shot in a list of shots and, from 64 on, stacks. -/
def lostShots (s : State) (lost : List Nat) : State := lost.foldl (fun s i => if i < 64 then logCairn s 0x0104 none i else s) s

/-- WAFER_MAPPING_COMPLETE: `lost` are the shots that cannot be presented (R12). -/
def mappingDone (s : State) (lost : List Nat) : State :=
  let s := eventEight s
  if s.cairn.engState ≠ 1 then s
  else if lost.isEmpty then setEngState (freshTiles s) 2
  else setEngState (lostShots s (lost.map (· % 64))) 15

/-- HBM_TRAINING_COMPLETE: stacks that cannot be presented leave the engine failed. DEDUCED, log entry 41. -/
def hbmTrained (s : State) (lost : List Nat) : State :=
  if s.cairn.engState ≠ 2 then s
  else if !lost.isEmpty then setEngState s 15
  else setEngState (reopenAll s) 3

/-- LINK_TRAINING_PHASE_END: unfinished links stay in Training. -/
def trainingEnd (s : State) : State := if s.cairn.engState = 3 then setEngState s 4 else s

/-- STEWARDS_READY. -/
def stewardsUp (s : State) : State :=
  if s.cairn.nuarn.isNone ∨ s.cairn.ready ∨ s.cairn.engState ≠ 4 then s
  else setEngState { s with cairn := { s.cairn with ready := true, wasReady := true } } 5

/-! ### Rollback fuses (R422) -/

/-- Sets fuses, lowest first, until n are set. DEDUCED, log entry 42. -/
def burnSvn (v : BitVec 64) (n : Nat) : BitVec 64 :=
  (List.range 64).foldl (fun v i =>
    if ((List.range 64).filter (fun j => bitOf v.toNat j)).length < n then v ||| BitVec.ofNat 64 (2 ^ i) else v) v

/-- SVN_BURN, once the image has reached ready. Every value read is the shadow's, so that a burn shows from the next standby reset on (R417). -/
def svnBurn (s : State) : State :=
  match s.cairn.maelec with
  | none => s
  | some u =>
    if !s.cairn.wasReady then s
    else
      let m := flashOf s (1 - u.image)
      let h := hdrOf m
      let n := if (imageFail s.shadow 0 h (codeOf m)).isNone then min u.svn (imSvn h) else u.svn
      let rev := BitVec.ofNat 4 (setBits u.revoke u.keyIdx 1 0)
      { s with fuses := { s.fuses with svn := s.fuses.svn ||| burnSvn s.shadow.svn n, keyrev := s.fuses.keyrev ||| rev } }

/-- STANDBY_POWER_GOOD (R490). -/
def execStandbyPowerGood (s : State) : Host.Outcome State Fault Refusal :=
  .next (standbyGood s)

/-- STANDBY_BROWNOUT (R489). -/
def execStandbyBrownout (s : State) : Host.Outcome State Fault Refusal :=
  .next (brownout s)

/-- STANDBY_OVERVOLTAGE (R489). -/
def execStandbyOvervoltage (s : State) : Host.Outcome State Fault Refusal :=
  .next (overvoltage s)

/-- STBY_RST_ASSERT (R494). -/
def execStbyRstAssert (s : State) : Host.Outcome State Fault Refusal :=
  .next (rstAssert s)

/-- STBY_RST_RELEASE (R496). -/
def execStbyRstRelease (contacts changed : BitVec 16) (s : State) : Host.Outcome State Fault Refusal :=
  .next (rstRelease s contacts changed)

/-- RECOVERY_IMAGE (R432). -/
def execRecoveryImage (image : List Byte) (s : State) : Host.Outcome State Fault Refusal :=
  .next (recovery s image)

/-- WAFER_MAPPING_COMPLETE (R433). -/
def execWaferMappingComplete (lost : List Nat) (s : State) : Host.Outcome State Fault Refusal :=
  .next (mappingDone s lost)

/-- HBM_TRAINING_COMPLETE (R433). -/
def execHbmTrainingComplete (lost : List Nat) (s : State) : Host.Outcome State Fault Refusal :=
  .next (hbmTrained s lost)

/-- LINK_TRAINING_PHASE_END (R433). -/
def execLinkTrainingPhaseEnd (s : State) : Host.Outcome State Fault Refusal :=
  .next (trainingEnd s)

/-- SVN_BURN (R422). -/
def execSvnBurn (s : State) : Host.Outcome State Fault Refusal :=
  .next (svnBurn s)

/-- STEWARDS_READY (R425). -/
def execStewardsReady (s : State) : Host.Outcome State Fault Refusal :=
  .next (stewardsUp s)

/-- WARDEN_WATCHDOG_EXPIRY (R388). -/
def execWardenWatchdogExpiry (s : State) : Host.Outcome State Fault Refusal :=
  .next (wardenFail s true)

end Sys2Proof.Machine
end

