-- ==== Sys2Proof/Machine/Cairn.lean ====
section
/-! DEFINITION. The steward cores (R386 to R389, R415): deaths and restarts, sleep and wake, the access table and the call interface. -/
namespace Sys2Proof.Machine

def setSteward (s : State) (k : Nat) (w : Steward) : State := { s with cairn := { s.cairn with stewards := tabSet s.cairn.stewards k w } }

/-- Is steward k a running core? -/
def stewardRuns (s : State) (k : Nat) : Bool := decide (k < 4) && s.cairn.nuarn.isSome && !(stewardOf s k).restarting && !(stewardOf s k).retired

/-- The leases that a steward's restart revokes (R453): commands taken, and assemblies. -/
def stewardLeases (s : State) (k : Nat) : State :=
  let mine := s.chans.filter (fun p => chanSteward p.1 == some k)
  leaseLog (leaseLog s none 8 ((mine.map (fun p => p.2.queue.length)).sum)) none 9 (mine.filter (fun p => p.2.asm.isSome)).length

/-- A steward is declared dead: held in reset and started again, but for the third time within 60 s it is retired and the engine
waits for repair (R388, R415, R438). DEDUCED, log entry 44. -/
def stewardDies (s : State) (k : Nat) : State :=
  if !stewardRuns s k then s
  else
    let w := stewardOf s k
    let deaths := w.deaths.filter (fun t => decide (s.cairn.ms < 60000 + t)) ++ [s.cairn.ms]
    let n := deaths.length
    if n < 3 then
      let s := setSteward s k { w with restarting := true, awake := true, deaths := deaths }
      let s := { s with cairn := { s.cairn with restarts := s.cairn.restarts + 1 } }
      setEvt (logAt (stewardLeases s k) 0x0601 5 (k + 1) none none (k + n * 4)) evtSteward
    else
      let s := setSteward s k { w with retired := true, deaths := deaths }
      waitForRepair (setEvt (logAt s 0x0602 5 (k + 1) none none k) evtSteward) 12

/-- The answer to a command that the steward had taken. One that ends its work by itself has executed: its number is in the journal. -/
def restartAnswer (s : State) (n : Nat) : State :=
  let c := chanOf s n
  match c.queue with
  | [] => s
  | m :: _ =>
    let e : JEntry := ⟨m.cseq, stOk, 0, [], []⟩
    let s := match c.await with
      | some (.cancel _) => updChan s n (fun c => { c with journal := journalAdd c.journal e })
      | some (.close _) => updChan s n (fun c => { c with journal := journalAdd c.journal e })
      | some (.release _ _) => updChan s n (fun c => { c with journal := journalAdd c.journal e })
      | _ => s
    answerOne s n false (ans stRestarted 0) 0

/-- A host's field test that has not begun is rolled back with its command. DEDUCED, log entry 44. -/
def rollTest (s : State) (n : Nat) : State :=
  match (chanOf s n).await with
  | some (.test h) => match tabFind s.sheaves h with
    | some b => match b.testing with
      | some (_, false, true) =>
        let s := { s with sheaves := tabSet s.sheaves h { b with testing := none } }
        (sheafCtxs b).foldl (fun s c => unquiesce s c (.test h)) s
      | _ => s
    | none => s
  | _ => s

/-- A reply that was never written: the command has executed, its number is in the journal. -/
def Reply.restarted (r : Reply) : Reply := ⟨r.seq, r.cseq, stRestarted, 0, [], 0, []⟩

/-- A channel of a restarted steward: RESPONDER_RESTARTED, the assembly gone, every command taken and not answered, also one whose reply
still waited, answered RESTARTED in take order. DEDUCED, log entry 44. -/
def restartChan (s : State) (n : Nat) : State :=
  let s := updChan (rollTest s n) n (fun c => { c with restarted := true, asm := none, replies := c.replies.map Reply.restarted })
  let s := writeReply s n
  (List.range (chanOf s n).queue.length).foldl (fun s _ => restartAnswer s n) s

/-- STEWARD_RESTART_COMPLETE. -/
def stewardBack (s : State) (k : Nat) : State :=
  let w := stewardOf s k
  if 4 ≤ k ∨ !w.restarting then s
  else (servedBy k).foldl restartChan (setSteward s k { w with restarting := false, awake := true })

/-- Has a context work for its home steward: a reset, a fault, an escalation request not yet read, a submission not yet loaded (R413)? -/
def ctxWork (s : State) (x : Ctx) : Bool :=
  x.reset.isSome || !x.faults.isEmpty || viewRead s x cbEsWr 4 != viewRead s x cbEsRd 4 ||
    (unfinished x).any (fun b => !b.onTiles && !b.cancelling)

/-- Has a steward work: a message pending or taken, a doorbell, work of a context of its own? -/
def stewardBusy (s : State) (k : Nat) : Bool :=
  s.chans.any (fun p => chanSteward p.1 == some k && (p.2.busy || !p.2.queue.isEmpty)) ||
    s.pcie.fifo.any (fun b => homeSteward b.ctx == k) ||
    s.ctxs.any (fun p => p.1 % 4 == k && ctxWork s p.2)

/-- STEWARD_IDLE_TIMEOUT. -/
def stewardSleeps (s : State) (k : Nat) : State :=
  if !stewardRuns s k ∨ !s.cairn.ready ∨ stewardBusy s k then s else setSteward s k { stewardOf s k with awake := false }

/-- STEWARD_WAKE. -/
def stewardWakes (s : State) (k : Nat) : State := if stewardRuns s k then wakeSteward s k else s

/-! ### The access table (R386, R387) -/

/-- Bytes of a steward's SRAM and carve-out (R385). -/
def stewardSram : Nat := 1536 * 1024
def stewardCarve : Nat := 3 * 2 ^ 27

/-- What a steward's entries allow, for n bytes from an address on. -/
def accessOk (k addr n : Nat) : CairnTarget → Bool
  | .ownSram => decide (addr + n ≤ stewardSram)
  | .carveOut j => j == k && decide (addr + n ≤ stewardCarve)
  | .mailbox c => chanSteward c == some k
  | .doorbell => true
  | .headRegion _ => decide (addr + n ≤ freeArea)
  | .freeArea _ => decide (freeArea ≤ addr)
  | .blockTable => true
  | .streamPlan => true
  | .callIf => true
  | .badCall _ => true
  | .accessTable => false
  | .ownerTags => false
  | .seeds => false
  | .slabOwners => false
  | .swathLeases => false
  | .spurOwner => false
  | .bar2 => false
  | .epochs => false
  | .debugLock => false
  | .flash => false
  | .faultLog => false
  | .otherSram => false

/-- Where a steward's carve-out lies: one slab of each of the stacks N2 to N4. DESIGN CHOICE, log entry 35. -/
def stewardCarveAt (k addr : Nat) : Nat := (2 + addr / 2 ^ 27) * 2 ^ 36 + (472 + k) * 2 ^ 27 + addr % 2 ^ 27

/-- Nuarn writes a context's view: CLIPC under R255, CR_RD to make room for records (R241). -/
def nuarnWrite (s : State) (c : BitVec 8) (off : Nat) (data : List Byte) : State :=
  match ctxOf s c with
  | none => s
  | some x =>
    let clip := decide (off < cbClipC + 4 ∧ cbClipC < off + data.length)
    if viewSz x < off + data.length then s
    else if clip && !(off == cbClipC && data.length == 4 && clipAllowed s x (leNat data)) then logCairn s 0x1402 (some c) (off % 2 ^ 32)
    else
      let s := viewWrite s x off data
      if off < 16 then drainRecs s c x.heldRecs else s

/-- What an allowed access writes; no data, a read. What Nuarn does through the other blocks has rows of its own. -/
def accessWrite (s : State) (k addr : Nat) (data : List Byte) : CairnTarget → State
  | .ownSram => { s with cairn := { s.cairn with sram := tabMod s.cairn.sram (k + 1) [] (fun m => memWriteBytes m addr data) } }
  | .carveOut _ => { s with hbm := (data.zipIdx).foldl (fun m p => memWriteBytes m (stewardCarveAt k (addr + p.2)) [p.1]) s.hbm }
  | .headRegion c => nuarnWrite s c addr data
  | .freeArea c => nuarnWrite s c addr data
  | _ => s

/-- The channel of a steward whose head it is processing: the lowest take number. DEDUCED, log entry 35. -/
def workingChan (s : State) (k : Nat) : Option Nat :=
  let l := (servedBy k).filterMap (fun n => (headMsg s n).map (fun m => (n, m.takeNo)))
  (l.find? (fun p => l.all (fun q => decide (p.2 ≤ q.2)))).map (·.1)

/-- CAIRN_ACCESS: an access outside the table is blocked and logged, and the steward restarted; a call that breaks an invariant is
refused, and the command that caused it DENIED. DEDUCED, log entry 35. -/
def cairnAccess (s : State) (k : Nat) (target : CairnTarget) (addr : W32) (data : List Byte) : State :=
  if !stewardRuns s k then s
  else match target with
    | .badCall i =>
      let s := logAt s 0x0605 5 (k + 1) none none i
      match workingChan s k with
      | some n => answer s n (ans stDenied 0x0F00)
      | none => s
    | t =>
      if !accessOk k addr.toNat data.length t then stewardDies (logAt s 0x0604 5 (k + 1) none none addr.toNat) k
      else if data.isEmpty then s
      else accessWrite s k addr.toNat data t

/-- CAIRN_SRAM_UE: core 0 is the warden, 1 to 4 stewards 0 to 3. -/
def cairnSramUe (s : State) (core : Nat) : State :=
  if s.module.rst ∨ 5 ≤ core then s
  else
    let s := logAt s 0x0205 5 core none none core
    if core = 0 then wardenFail s false else stewardDies s (core - 1)

/-- STEWARD_HEARTBEAT_TIMEOUT (R388). -/
def execStewardHeartbeatTimeout (k : Nat) (s : State) : Host.Outcome State Fault Refusal :=
  .next (stewardDies s k)

/-- STEWARD_RESTART_COMPLETE (R415). -/
def execStewardRestartComplete (k : Nat) (s : State) : Host.Outcome State Fault Refusal :=
  .next (stewardBack s k)

/-- STEWARD_IDLE_TIMEOUT (R389). -/
def execStewardIdleTimeout (k : Nat) (s : State) : Host.Outcome State Fault Refusal :=
  .next (stewardSleeps s k)

/-- STEWARD_WAKE (R389). -/
def execStewardWake (k : Nat) (s : State) : Host.Outcome State Fault Refusal :=
  .next (stewardWakes s k)

/-- CAIRN_ACCESS (R386). -/
def execCairnAccess (k : Nat) (target : CairnTarget) (addr : W32) (data : List Byte) (s : State) : Host.Outcome State Fault Refusal :=
  .next (cairnAccess s k target addr data)

/-- CAIRN_SRAM_UE (R388). -/
def execCairnSramUe (core : Nat) (s : State) : Host.Outcome State Fault Refusal :=
  .next (cairnSramUe s core)

end Sys2Proof.Machine
end

