-- ==== Sys2Proof/Machine/CmdFw.lean ====
section
/-! DEFINITION. The firmware commands: FW_UPDATE with and without DBGCLOSE (R411, R430, R431) and NUARN_LOAD (R423 to R425). -/
namespace Sys2Proof.Machine

/-! ### FW_UPDATE -/

def dbgClose (m : Msg) : Bool := argBit m 2 31

/-- Maelec's checks of a staged image: 1 signature or form, 2 rollback. DEDUCED, log entry 42. -/
def fwRefusal (s : State) (img : List Byte) : Option Nat :=
  let h := img.take hdrSize
  match imageFail s.shadow (svnCount s.shadow) h ((img.drop codeAt).take (imMaelen h)) with
  | some c => some (if c = 4 then 2 else 1)
  | none => if img.length = compAt + imComplen h then none else some 1

/-- DEDUCED, log entry 42. -/
def fwUpdate (s : State) (n : Nat) : State :=
  runCmd s n 0x0902 (fun m => !dbgClose m) fun s m =>
    if !isSecure n then denied s n 0
    else if !argsOk m [(2, 1)] ∨ !staged m then badArg s n
    else withStruct s n m none none fun s img =>
      let k := argBits m 2 0 0
      if (s.cairn.maelec.map (·.image)) = some k then denied s n 3
      else match fwRefusal s img with
        | some d => denied s n d
        | none =>
          let w := writeImage (flashOf s k) img
          let s := setFlash s k w.1
          if w.2 then answer s n okAns else denied s n 4

def fwDbgClose (s : State) (n : Nat) : State :=
  runCmd s n 0x0902 dbgClose fun s m =>
    if !isSecure n then denied s n 0
    else if staged m then badPart s n
    else if !argsOk m [(2, 0x80000000)] then badArg s n
    else answer { s with fuses := { s.fuses with dbgdis := true } } n okAns

/-! ### NUARN_LOAD -/

def nuarnHdr : Nat := 16384

/-- The refusal of a Nuarn image, if any: 1 key or signature, 2 rollback version. -/
def nuarnRefusal (comp img : List Byte) : Option Nat :=
  let key := (img.drop 52).take 48
  let keys := Config.nuarnKeys comp
  let dig := digestOf key
  if fld img 0 4 ≠ 0xA7E50C01 ∨ (dig ≠ keys.1 ∧ dig ≠ keys.2) ∨ !((img.drop 100).take 28).all (· == 0) ∨
      fld img 16 4 ≠ img.length - nuarnHdr ∨ !slhVerify slh192s key (img.take 128) ((img.drop 128).take 16224) then some 1
  else if fld img 8 2 < Config.nuarnMin comp then some 2
  else if sha256 (img.drop nuarnHdr) ≠ (img.drop 20).take 32 then some 1
  else none

/-- The debug record of M4. -/
def debugRecord (s : State) : List Byte := BitVec.ofNat 8 (flagBit s.cairn.debugOpen 0) :: List.replicate 31 0

/-- Where Maelec keeps the Nuarn image: its carve-out, slabs 472 to 475 of stack N1 (R385). -/
def carveOut : Nat := 2 ^ 36 + 472 * 2 ^ 27

/-- An accepted image: copied, measured, the stewards released. DEDUCED, log entry 41. -/
def takeNuarn (s : State) (img : List Byte) : State :=
  let s := extend (extend s 3 (digestOf (img.take 128))) 4 (digestOf (debugRecord s))
  { s with hbm := memWriteBytes s.hbm carveOut img
           cairn := { s.cairn with nuarn := some ⟨fld img 4 4, fld img 10 2, fld img 12 2, fld img 14 2⟩, ready := false, stewards := [] } }

/-- Is the final part of a NUARN_LOAD at the head of another channel with a lower take number? -/
def nuarnWaits (s : State) (n : Nat) : Bool :=
  match headMsg s n with
  | none => false
  | some m => s.chans.any (fun p => p.1 != n && (match headMsg s p.1 with
    | some q => q.code == 0x0F01 && !more q && decide (q.takeNo < m.takeNo)
    | none => false))

def nuarnLoad (s : State) (n : Nat) : State :=
  if nuarnWaits s n then s
  else
    runCmd s n 0x0F01 (fun _ => true) fun s m =>
      if !argsOk m [] ∨ !staged m then badArg s n
      else if inTotal m ≤ nuarnHdr then badPart s n
      else withStruct s n m none none fun s img =>
        match s.cairn.maelec with
        | none => denied s n 3
        | some u =>
          if s.cairn.engState ≠ 4 ∨ s.cairn.nuarn.isSome then denied s n 3
          else match nuarnRefusal u.companion img with
            | some d => denied s n d
            | none => answer (takeNuarn s img) n okAns

/-- FW_UPDATE (R431). -/
def execFwUpdate (chan : Nat) (s : State) : Host.Outcome State Fault Refusal :=
  .next (fwUpdate s chan)

/-- FW_UPDATE_DBGCLOSE (R411). -/
def execFwUpdateDbgclose (chan : Nat) (s : State) : Host.Outcome State Fault Refusal :=
  .next (fwDbgClose s chan)

/-- NUARN_LOAD (R425). -/
def execNuarnLoad (chan : Nat) (s : State) : Host.Outcome State Fault Refusal :=
  .next (nuarnLoad s chan)

end Sys2Proof.Machine
end

