-- ==== Sys2Proof/Machine/Power.lean ====
section
/-! DEFINITION. Main power (R490 to R493), coolant and derates (R497), trips (R502), the limiter and the 1 ms loop (R503 to R509),
telemetry (R511 to R515), and what the block does by itself on a tick. -/
namespace Sys2Proof.Machine

/-! ### Power-up (R490) -/

/-- MAIN_EN_RISE. -/
def mainEnRise (s : State) : State :=
  if s.module.mainEn then s else { s with module := { s.module with mainEn := true, eoffWait := false } }

/-- MAIN_POWERUP_START: the conditions of event 3. `held`: J1 has been at its threshold for 1 s. -/
def powerupStart (s : State) (millivolts inlet : Nat) (held intlk : Bool) : State :=
  let m := s.module
  if m.rst ∨ s.cairn.maelec.isNone ∨ s.cairn.engState ≠ 0 ∨ m.phase ≠ .off ∨ !m.mainEn ∨ m.eoffWait ∨ !held ∨ !intlk ∨
      millivolts < 310000 ∨ inlet < 500 then s
  else { s with module := { m with phase := .precharge } }

/-- PRECHARGE_COMPLETE: the rails come up and PG_MAIN is released; F_G starts at FMAX, the ceilings at 2.7 GHz (R506). -/
def prechargeDone (s : State) : State :=
  let m := s.module
  if m.phase ≠ .precharge then s
  else
    let m := { m with phase := .up, pgMain := true, fg := m.fmax, ceil := [], level := 0, levelZeroMs := 0, fgMs := 0, ceilMs := []
                      winHigh := false, winSum := 0, winN := 0 }
    followLink { s with module := m }

/-! ### Orderly power-down (R491, R493) -/

/-- Tells the peers of every context. -/
def tellPeers (s : State) (kind : Nat) : State :=
  (ctxNames s).foldl (fun s c => sendNotices s c (engineId s) s.cairn.rno ((ctxOf s c).map oldestStep |>.getD 0) kind) s

/-- Event 1: ENGSTATE 0x06, every context FAULTED, OUT_OF_SERVICE frames. -/
def orderly (s : State) : State :=
  let m := s.module
  if m.rst ∨ m.phase = .off ∨ m.phase = .orderly then s
  else
    let out := s.cairn.engState = 6
    let s := { s with module := { m with phase := .orderly }, cairn := { s.cairn with oos := some (.powerDown false) } }
    if out then s
    else
      let s := tellPeers (setEngState s 6) 2
      (ctxNames s).foldl (fun s c => faultCtx s c 5) s

/-- May a stook that is Open still end by itself: frames on their way, or a manifest to put? -/
def stookMoves (x : Ctx) : Bool :=
  match x.stook, x.win.plan with
  | some k, some pl => k.st == .opened && (decide (k.unacked ≠ 0) || k.manifestSent ||
      (k.parts && k.boundary && (ownedBuckets pl).all (fun p => k.emitted.contains p.1)))
  | _, _ => false

/-- Events 2 to 5, one a tick: while a stook moves, it runs on; then REPAIR_WAIT; then the rails. DEDUCED, log entry 43. -/
def orderlyTick (s : State) : State :=
  if s.module.phase ≠ .orderly then s
  else match s.cairn.oos with
    | some (.powerDown false) =>
      if s.ctxs.any (fun p => stookMoves p.2) then s
      else
        let s := { s with ctxs := tabMap s.ctxs (fun _ x => failStook x true) }
        tellPeers { s with cairn := { s.cairn with oos := some (.powerDown true) } } 3
    | _ => powerLost s 5

/-- MAIN_EN_LOW. -/
def mainEnLow (s : State) : State := orderly { s with module := { s.module with mainEn := false } }

/-- EOFF_N_ASSERT: at once; power-up then needs MAIN_EN to rise anew. -/
def eoff (s : State) : State := let s := powerCut s 3; { s with module := { s.module with eoffWait := true } }

/-- INLET_OVERTEMP_TIMEOUT, in 0.01 °C. -/
def inletTimeout (s : State) (reading : Nat) : State := if reading > 4500 then orderly s else s
/-- FLOW_LOW_TIMEOUT, in 0.01 L/min. -/
def flowTimeout (s : State) (reading : Nat) : State := if reading < 4000 then orderly s else s

/-! ### Trips (R502, R503, R516) -/

/-- Does a reading pass the threshold of its class: 1 wafer, 2 die, 3 HBM, 4 flow, 5 leak? -/
def tripped (cls reading : Nat) : Bool :=
  match cls with
  | 1 => decide (11500 ≤ reading)
  | 2 => decide (11000 ≤ reading)
  | 3 => decide (10500 ≤ reading)
  | 4 => decide (reading < 2000)
  | 5 => true
  | _ => false

/-- THERMAL_TRIP. -/
def thermalTrip (s : State) (cls index reading : Nat) : State :=
  if s.module.rst ∨ s.module.phase = .off ∨ !tripped cls reading then s
  else powerCut (logCairn s 0x0702 none (cls + 2 ^ 8 * (index % 2 ^ 16) + 2 ^ 24 * (reading % 2 ^ 16))) 4

/-- TILE_HOT. DEDUCED, log entry 39; DEDUCED, log entry 47. -/
def tileHotTrip (s : State) (i : Nat) : State :=
  let t := tileOf s i
  if !tileUp s i ∨ t.hot ∨ t.power ≠ .run then s
  else
    let s := setTile s i (setHot (envOf s i) true t)
    let s := { s with module := { s.module with hotActed := addNew i s.module.hotActed } }
    setEvt (logAt s 0x1502 0 i none none 0) evtThermal

/-- TILE_HOT_RELEASE. -/
def tileCool (s : State) (i : Nat) : State :=
  let t := tileOf s i
  if !tileUp s i ∨ !t.hot then s else setEvt (setTile s i (setHot (envOf s i) false t)) evtThermal

/-- The list with a member while a reading holds at a threshold. -/
def holds (l : List Nat) (k : Nat) (on : Bool) : List Nat := if on then addNew k l else l.filter (· != k)

/-- HBM_HOT: at 85 °C the refresh rate is doubled; below it is not. -/
def hbmHotAt (s : State) (k reading : Nat) : State :=
  if !s.module.pgMain ∨ 24 ≤ k then s else { s with module := { s.module with hbmHot := holds s.module.hbmHot k (decide (8500 ≤ reading)) } }
/-- HBM_VERY_HOT: at 95 °C HBM commands issue at half rate. -/
def hbmVeryAt (s : State) (k reading : Nat) : State :=
  if !s.module.pgMain ∨ 24 ≤ k then s else { s with module := { s.module with hbmVery := holds s.module.hbmVery k (decide (9500 ≤ reading)) } }
/-- DIE_HOT: at 100 °C. -/
def dieHotAt (s : State) (k reading : Nat) : State :=
  if s.module.rst ∨ 96 ≤ k then s else { s with module := { s.module with dieHot := holds s.module.dieHot k (decide (10000 ≤ reading)) } }

/-- Which of a tile's eight clock periods pass (R503). -/
def periodPasses (s : State) (i k : Nat) : Bool := !((tileOf s i).hot && k % 2 == 1) && decide (k < 8 - s.module.level)

/-! ### Derates (R488, R497, R505) -/

/-- DERATE: cause 1 inlet in 0.01 °C, 2 flow in 0.01 L/min, 3 the input current limit. A change of a derate is logged.
DEDUCED, log entry 39. -/
def derate (s : State) (cause reading : Nat) : State :=
  let m := s.module
  let cls := powerClass s
  let inlet : Option Nat := if reading > 4000 then some (cls - (reading - 4000) / 5) else none
  let flow : Option Nat := if reading < 5500 then some (cls * reading / 6000) else none
  let done (m : Module) : State :=
    let s := { s with module := m }
    setEvt (logCairn s 0x1505 none (cause + 2 ^ 16 * capNow s)) evtThermal
  if m.rst then s
  else if cause = 1 then (if m.inletCap = inlet then s else done { m with inletCap := inlet })
  else if cause = 2 then (if m.flowCap = flow then s else done { m with flowCap := flow })
  else if cause = 3 ∧ m.phase ≠ .off then done { m with curDerate := true }
  else s

/-! ### The limiter (R504) -/

/-- POWER_LIMITER_WINDOW: the mean of a 10 µs window in W. -/
def limiterWindow (s : State) (mean : Nat) : State :=
  let m := s.module
  if !m.pgMain then s
  else
    let cap := capNow s
    let up := decide (99 * cap < mean) && decide (m.level < 7)
    let m := { m with winHigh := m.winHigh || decide (98 * loopCapNow s < mean), loopCap := if m.winN = 0 then m.cap else m.loopCap, winSum := m.winSum + mean, winN := m.winN + 1
                      level := if up then m.level + 1 else m.level, limited := m.limited || up }
    let s := { s with module := m }
    if up then setEvt (logCairn s 0x1501 none 0) evtThermal else s

/-! ### The loop (R507, R508) -/

/-- DVFS_CHANGE. -/
def dvfsLog (s : State) (old new shot : Nat) (fg : Bool) : State :=
  setEvt (logCairn s 0x1503 none (old + new * 2 ^ 5 + 2 ^ 10 * shot + flagBit fg 16)) evtThermal

def setFg (s : State) (f : Nat) : State :=
  if f = s.module.fg then s else dvfsLog { s with module := { s.module with fg := f, fgMs := 0 } } s.module.fg f 0 true

/-- Does the predicted power of F_G + 0.1 GHz stay within the threshold? V(f) is in proportion to 30 + f, and the means to the sum of
the windows. -/
def predictOk (m : Module) (cap wafer : Nat) : Bool :=
  let f := m.fg
  let new := (f + 1) * (31 + f) ^ 2
  let old := f * (30 + f) ^ 2
  decide (100 * old * m.winSum + 105 * wafer * (new - old) * m.winN ≤ 100 * old * (98 * cap) * m.winN)

/-- Rules 1 to 3. DEDUCED, log entry 39. -/
def loopPower (s : State) (wafer : Nat) : State :=
  let m := s.module
  let cap := loopCapNow s
  if m.level > 0 ∧ !m.winHigh then
    setEvt { s with module := { m with level := m.level - 1, levelZeroMs := 0 } } evtThermal
  else if m.level > 0 ∨ 98 * cap * m.winN < m.winSum then setFg s (max 10 (m.fg - 1))
  else if 10 ≤ m.levelZeroMs ∧ 10 ≤ m.fgMs ∧ m.fg < m.fmax ∧ predictOk m cap wafer then setFg s (m.fg + 1)
  else s

/-- Changes a shot's ceiling. -/
def setCeil (s : State) (shot f : Nat) : State :=
  let old := shotCeil s shot
  if f = old then s else dvfsLog { s with module := { s.module with ceil := tabPut s.module.ceil shot 27 f } } old f shot false

/-- Rule 4. -/
def loopCeils (s : State) (p : LoopIn) : State :=
  (List.range 64).foldl (fun s k =>
    if p.warm.contains k then setCeil s k (max 10 (shotCeil s k - 1))
    else if p.cool.contains k && decide (shotCeil s k < s.module.fg) && tabGet s.module.ceilMs k 0 == 0 then
      let s := setCeil s k (shotCeil s k + 1)
      { s with module := { s.module with ceilMs := tabPut s.module.ceilMs k 0 10 } }
    else s) s

/-- Rule 5, for the tiles of bound sheaves. -/
def loopTiles (s : State) : State :=
  s.sheaves.foldl (fun s p => (rectTiles p.2.x0 p.2.y0 p.2.w p.2.h).foldl (fun s i =>
    let t := tileOf s i
    if t.power = .run ∧ t.freq ≠ tileFreq s i then setTile s i { cycFix (envOf s i) t with freq := tileFreq s i } else s) s) s

/-- LOOP_PERIOD, while steward 0 serves. -/
def loopPeriod (s : State) (p : LoopIn) : State :=
  if !s.module.pgMain ∨ !stewardServes s 0 then s
  else
    let m := s.module
    let s := { s with module := { m with levelZeroMs := if m.level = 0 then m.levelZeroMs + 1 else m.levelZeroMs, fgMs := m.fgMs + 1
                                         ceilMs := (m.ceilMs.map (fun q => (q.1, q.2 - 1))).filter (fun q => q.2 != 0) } }
    let s := loopTiles (loopCeils (loopPower s p.wafer) p)
    let s := { s with module := { s.module with winHigh := false, winSum := 0, winN := 0 } }
    if s.module.fallowOk then autoSleep s else s

/-! ### Telemetry (R511 to R515) -/

def countPower (s : State) : Nat := (s.tiles.filter (fun p => p.2.power != .run)).length

/-- TLM_POLICY. -/
def tlmPolicy (s : State) : Nat :=
  let m := s.module
  capNow s + 2 ^ 16 * m.fg + 2 ^ 21 * m.fmax + flagBit m.fallowOk 26 + 2 ^ 27 * m.level

/-- TLM_FLAGS. -/
def tlmFlags (s : State) : Nat :=
  let m := s.module
  flagBit (m.pgMain && (m.limited || decide (0 < m.level))) 0 + flagBit (m.pgMain && !m.hotActed.isEmpty) 1 +
    flagBit s.tlm.shotWarn 2 + flagBit m.inletCap.isSome 3 + flagBit m.flowCap.isSome 4 + flagBit m.curDerate 5 +
    flagBit (!m.hbmVery.isEmpty) 6 + flagBit (!m.dieHot.isEmpty) 7 + flagBit (stewardOf s 0).restarting 8

/-- The words of a frame from 0x5_0400 (R511): the stack temperature and the counts of tiles need the main domain. DEDUCED, log entry 39. -/
def frameWords (s : State) (t : TlmIn) : List Nat :=
  let up (n : Nat) : Nat := if s.module.pgMain then n else 0
  let n := (s.tlm.last + 1) % 2 ^ 32
  let rail (i : Nat) : Nat := t.rails.getD i 0
  let temp (b : BitVec 16) : Nat := b.toNat
  let ce (i : Nat) : Nat := min (tabGet s.tlm.ce i 0) (2 ^ 32 - 1)
  [n, s.cairn.ms % 2 ^ 32, t.vin, t.iin, t.pin, t.ppeak, t.vsb, t.psb, s.tlm.energy % 2 ^ 32, s.tlm.energy / 2 ^ 32 % 2 ^ 32, tlmPolicy s
  , temp t.inlet + 2 ^ 16 * temp t.outlet, t.flow % 2 ^ 16 + flagBit t.leak 16, temp t.shotTemp + 2 ^ 16 * (t.shotSensor % 512)
  , up (temp t.stackTemp + 2 ^ 16 * (t.stack % 32)), temp t.dieTemp + 2 ^ 16 * (t.die % 128), up s.module.hotActed.length, up (countPower s), tlmFlags s] ++
  (List.range 12).map ce ++ [0] ++ (List.range 6).map rail ++ [t.pin - ((List.range 6).map rail).sum] ++ List.replicate 24 0 ++ [n]

/-- ECCCNT as Maelec samples it: a tile whose count grew by more than 4,096 within an hour is declared hard-failed (R456).
DEDUCED, log entry 35. -/
def eccWatch (s : State) : State :=
  let now := s.cairn.ms
  s.tiles.foldl (fun s p =>
    let mine := s.cairn.errs.filter (fun e => e.1 == 3 && e.2.1 == p.1)
    let last := (mine.getLast?.map (·.2.2.1)).getD 0
    let cnt := (tileOf s p.1).eccCnt
    if cnt = last ∨ (tileOf s p.1).failed then s
    else
      let rest := s.cairn.errs.filter (fun e => !(e.1 == 3 && e.2.1 == p.1))
      let old := (mine.filter (fun e => decide (3600000 + e.2.2.2 < now))).getLast?.toList
      let live := if cnt < last then [] else old ++ mine.filter (fun e => decide (now ≤ 3600000 + e.2.2.2))
      let base := (live.head?.map (·.2.2.1)).getD 0
      let s := { s with cairn := { s.cairn with errs := rest ++ live ++ [(3, p.1, cnt, now)] } }
      if base + 4096 < cnt then hardFail s p.1 3 else s) s

/-- What the units have counted since the last frame; PCI Express errors are reported through AER too (R384). -/
def countCes (s : State) (l : List (Nat × Nat)) : State :=
  l.foldl (fun s p =>
    let s := ceAddN s p.1 p.2
    if p.1 = 10 then { s with pcie := { s.pcie with corrected := s.pcie.corrected + p.2 } } else s) s

/-- TELEMETRY_FRAME: a millisecond of Cairn time, and the frame at its end. DEDUCED, log entry 35. -/
def telemetry (s : State) (t : TlmIn) : State :=
  if s.module.rst then s
  else
    let s := { s with cairn := { s.cairn with ms := s.cairn.ms + 1 }, tlm := { s.tlm with energy := (s.tlm.energy + t.pin) % 2 ^ 64 } }
    let s := countCes s t.ces
    if s.cairn.maelec.isNone then s
    else
      let s := { s with tlm := { s.tlm with shotWarn := decide (9500 ≤ t.shotTemp.toInt) } }
      let words := frameWords s t
      let frame := (words.zipIdx).foldl (fun (f : Tab W32) p => tabPut f p.2 0 (w32 p.1)) []
      let hot := s.module.hotActed.filter (fun i => (tileOf s i).hot)
      let s := { s with tlm := { s.tlm with frame := frame, last := (s.tlm.last + 1) % 2 ^ 32 }
                        module := { s.module with hotActed := hot, curDerate := false, limited := decide (0 < s.module.level) } }
      if s.module.pgMain then eccWatch s else s

/-- TLM_I3C_ADDRESS_WRITE: the words after the address are ignored. -/
def tlmAddress (s : State) (addr : Nat) : State :=
  if s.module.stbyGood && !s.module.stbyOff && decide (addr ≤ 0xFC ∧ addr % 4 = 0) then { s with tlm := { s.tlm with i3c := addr } } else s

/-- The level of ALERT_N (R515): true while it is pulled low. -/
def alertLow (s : State) : Bool := s.module.alertLatch || (tabGet s.tlm.frame 18 0).toNat % 256 != 0

/-! ### A tick -/

/-- The time base advances; of each eight periods of a core island those pass that `periodPasses` names. -/
def passTick (s : State) : State :=
  { s with ticks := s.ticks + 1, periods := s.periods + (8 - s.module.level), hotPeriods := s.hotPeriods + (9 - s.module.level) / 2 }

/-- What the block does by itself on an empty queue: the time base advances, event 8 of main power-up falls due, an orderly power-down goes
on. DESIGN CHOICE, log entry 1. -/
def idleTick (s : State) : State := orderlyTick (eventEight (passTick s))

/-- MAIN_EN_RISE (R490). -/
def execMainEnRise (s : State) : Host.Outcome State Fault Refusal :=
  .next (mainEnRise s)

/-- MAIN_POWERUP_START (R490). -/
def execMainPowerupStart (millivolts inlet : Nat) (held intlk : Bool) (s : State) : Host.Outcome State Fault Refusal :=
  .next (powerupStart s millivolts inlet held intlk)

/-- PRECHARGE_COMPLETE (R490). -/
def execPrechargeComplete (s : State) : Host.Outcome State Fault Refusal :=
  .next (prechargeDone s)

/-- MAIN_EN_LOW (R491). -/
def execMainEnLow (s : State) : Host.Outcome State Fault Refusal :=
  .next (mainEnLow s)

/-- EOFF_N_ASSERT (R492). -/
def execEoffNAssert (s : State) : Host.Outcome State Fault Refusal :=
  .next (eoff s)

/-- INTLK_OPEN (R484). -/
def execIntlkOpen (s : State) : Host.Outcome State Fault Refusal :=
  .next (powerCut s 6)

/-- J1_UNDERVOLTAGE (R488). -/
def execJ1Undervoltage (s : State) : Host.Outcome State Fault Refusal :=
  .next (powerCut s 1)

/-- J1_OVERVOLTAGE (R488). -/
def execJ1Overvoltage (s : State) : Host.Outcome State Fault Refusal :=
  .next (powerCut s 2)

/-- INLET_OVERTEMP_TIMEOUT (R497). -/
def execInletOvertempTimeout (reading : Nat) (s : State) : Host.Outcome State Fault Refusal :=
  .next (inletTimeout s reading)

/-- FLOW_LOW_TIMEOUT (R497). -/
def execFlowLowTimeout (reading : Nat) (s : State) : Host.Outcome State Fault Refusal :=
  .next (flowTimeout s reading)

/-- THERMAL_TRIP (R502). -/
def execThermalTrip (cls index reading : Nat) (s : State) : Host.Outcome State Fault Refusal :=
  .next (thermalTrip s cls index reading)

/-- TILE_HOT (R502). -/
def execTileHot (tile : Nat) (s : State) : Host.Outcome State Fault Refusal :=
  .next (tileHotTrip s tile)

/-- TILE_HOT_RELEASE (R502). -/
def execTileHotRelease (tile : Nat) (s : State) : Host.Outcome State Fault Refusal :=
  .next (tileCool s tile)

/-- HBM_HOT (R502). -/
def execHbmHot (stack : Nat) (reading : Nat) (s : State) : Host.Outcome State Fault Refusal :=
  .next (hbmHotAt s stack reading)

/-- HBM_VERY_HOT (R502). -/
def execHbmVeryHot (stack : Nat) (reading : Nat) (s : State) : Host.Outcome State Fault Refusal :=
  .next (hbmVeryAt s stack reading)

/-- DIE_HOT (R502). -/
def execDieHot (die : Nat) (reading : Nat) (s : State) : Host.Outcome State Fault Refusal :=
  .next (dieHotAt s die reading)

/-- POWER_LIMITER_WINDOW (R504). -/
def execPowerLimiterWindow (mean : Nat) (s : State) : Host.Outcome State Fault Refusal :=
  .next (limiterWindow s mean)

/-- LOOP_PERIOD (R507). -/
def execLoopPeriod (p : LoopIn) (s : State) : Host.Outcome State Fault Refusal :=
  .next (loopPeriod s p)

/-- TELEMETRY_FRAME (R511). -/
def execTelemetryFrame (t : TlmIn) (s : State) : Host.Outcome State Fault Refusal :=
  .next (telemetry s t)

/-- TLM_I3C_ADDRESS_WRITE (R514). -/
def execTlmI3cAddressWrite (addr : Nat) (_ : List W32) (s : State) : Host.Outcome State Fault Refusal :=
  .next (tlmAddress s addr)

/-- DERATE (R497). -/
def execDerate (cause reading : Nat) (s : State) : Host.Outcome State Fault Refusal :=
  .next (derate s cause reading)

end Sys2Proof.Machine
end

