-- ==== Sys2Proof/Machine/Faults.lean ====
section
/-! DEFINITION. Faults and replay (R435 to R457): reports of uncorrectable errors, task faults, the replay plan, spur repair, probes, and
the return from a start-up mapping. -/
namespace Sys2Proof.Machine

def hourMs : Nat := 3600000

/-! ### Uncorrectable errors (R435, R444, R456) -/

/-- The record of a die's own report; a hard fault has none of its own. -/
def dieRec (s : State) : DieUe → LogRec
  | .hard die => ⟨0, 4, die, none, none, none, 0, 0⟩
  | .saddle k region c => ⟨0x0203, 2, k, c, none, none, region % 4, 0⟩
  | .swath p off => ⟨0x0204, 3, p, (tabFind s.leases (32 * p + off / 2 ^ 20)).map (BitVec.ofNat 8), none, none, off % 2 ^ 25, 0⟩

/-- Notes an error and tells how many the same place has had within an hour. -/
def noteErr (s : State) (k unit place : Nat) : State × Nat :=
  let now := s.cairn.ms
  let l := s.cairn.errs ++ [(k, unit, place, now)]
  ({ s with cairn := { s.cairn with errs := l } },
    (l.filter (fun e => e.1 == k && e.2.1 == unit && e.2.2.1 == place && decide (now ≤ hourMs + e.2.2.2))).length)

/-- The pseudo-channel of a view offset: 256-byte units cycle through 64 (R250). -/
def pseudoChan (x : Ctx) (o : Nat) : Nat := ((viewPhys x o).getD 0) / 256 % 64

/-- The context of a report takes a partition reset, if it is open. -/
def ueReset (s : State) (c : Option (BitVec 8)) : State :=
  match c with
  | some c => partitionReset (ownItem s c) c 1 none none
  | none => s

/-- What a report costs, by its kind. -/
def ueCost (s : State) (r : LogRec) : State :=
  if r.kind = 0x0201 then
    let p := noteErr s 1 r.index r.arg
    if 2 ≤ p.2 ∧ !(tileOf s r.index).failed then hardFail (ueReset p.1 r.ctx) r.index 2 else ueReset p.1 r.ctx
  else if r.kind = 0x0202 then
    match r.ctx.bind (ctxOf s) with
    | none => s
    | some x =>
      let p := noteErr s 2 r.index (pseudoChan x r.arg)
      let s := ueReset p.1 r.ctx
      if 4 ≤ p.2 then takeOutOfService s 8 else s
  else if r.kind = 0x0203 then
    if r.arg < 2 then
      let s := ueReset s r.ctx
      match r.ctx with
      | some c => if (ctxOf s c).isSome then replayImpossible s c 5 else s
      | none => s
    else if r.arg = 2 then (r.ctx.map (ownItem s)).getD s
    else match r.ctx with
      | none => s
      | some c => let s := ownItem s c; match s.eth.xfers.find? (fun t => t.ctx == c && !t.ended) with
        | some t => endXfer s c t.idx 2 2
        | none => s
  else if r.kind = 0x0204 ∨ r.kind = 0x0206 then ueReset s r.ctx
  else s

/-- UE_REPORT: the oldest report that the ring has brought, or a die's own; a Saddle, port or Crest die's hard fault is of class 8 (R438). -/
def ueArrives (s : State) (own : Option DieUe) : State :=
  if s.module.rst ∨ s.cairn.maelec.isNone then s
  else
    let take (s : State) (r : LogRec) : State := ueCost (ceAdd (logRec s r) 11) r
    match own, s.reports with
    | some (.hard _), _ => if s.module.pgMain then takeOutOfService s 8 else s
    | some d, _ =>
      let s' := match d with
        | .swath p off => let w := swathOf s p
                          setSwath s p { w with bad := addNew (off / 64 * 64) w.bad }
        | _ => s
      if s.module.pgMain then take s' (dieRec s d) else s
    | none, r :: rest => take { s with reports := rest } r
    | none, [] => s

/-! ### Task faults (R440) -/

/-- TASK_FAULT: a transient trap resets the partition; any other cancels every submission. -/
def taskFaultNext (s : State) (c : BitVec 8) : State :=
  match ctxOf s c with
  | none => s
  | some x =>
    match x.faults with
    | [] => s
    | f :: rest =>
      if !stewardServes s (homeSteward c) then s
      else
        let s := setCtx s c { x with faults := rest }
        if f.trap = 5 ∧ x.itemLogs.contains f.step then partitionReset s c 2 none none
        else
          let s := logAt s 0x0305 5 0 (some c) none (f.task % 2 ^ 20 + 2 ^ 20 * (f.trap % 8))
          let nos := (unfinished x).map (·.no)
          if nos.isEmpty then s else beginCancel s c nos

/-! ### The replay plan (R444 to R450) -/

/-- The bytes of glean record g: kind, step, LOC. -/
def gleanKind (s : State) (x : Ctx) (g : Nat) : Nat := viewRead s x (atGlean + 32 * (g % 8388608)) 1
def gleanStep (s : State) (x : Ctx) (g : Nat) : W32 := w32 (viewRead s x (atGlean + 32 * (g % 8388608) + 12) 4)
def gleanLoc (s : State) (x : Ctx) (g : Nat) : Nat := viewRead s x (atGlean + 32 * (g % 8388608) + 24) 8

/-- The numbers of the records that the ring still holds, newest first. -/
def gleanHeld (x : Ctx) : List Nat := (List.range (min x.gsn 8388608)).map (fun i => x.gsn - 1 - i)

/-- Is step a not before step b? -/
def stepGe (a b : W32) : Bool := decide ((a - b).toNat < 2 ^ 31)

/-- The layer table as it stood at the start of a step: later records' previous words are written back, newest first.
DEDUCED, log entry 33. -/
def layersBack (s : State) (x : Ctx) (step : W32) : State :=
  (gleanHeld x).foldl (fun s g =>
    if gleanKind s x g = 3 ∧ stepGe (gleanStep s x g) step then
      let l := gleanLoc s x g
      let at_ := atLayers + 8 * (l % 2 ^ 16)
      viewPut (viewPut s x at_ 4 (bits l 47 16)) x (at_ + 4) 4 (bits l 51 48)
    else s) s

/-- The changes of s_l after a step and later are forgotten with the boundaries that made them. -/
def dropDeltas (s : State) (c : BitVec 8) (oldest : W32) : State :=
  updCtx s c (fun x => { x with layerPol := tabMap x.layerPol (fun _ p => { p with deltas := p.deltas.filter (fun d => !stepGe d.1 oldest) }) })

/-- Is a line of a stretch of the view known bad? -/
def viewBad (s : State) (x : Ctx) (off len : Nat) : Bool :=
  !s.hbmBad.isEmpty && (List.range ((off + len + 63) / 64 - off / 64)).any (fun j => match viewPhys x (64 * (off / 64 + j)) with
    | some a => s.hbmBad.contains (a / 64)
    | none => false)

/-- The ranges of the buckets that this rank owns, with their bucket. -/
def ownedRanges (pl : Plan) : List (Nat × PlanRange) := (ownedBuckets pl).flatMap (fun p => (bucketRanges pl p.2).map (fun r => (p.1, r)))

/-- Streaming copies with a bad line are emitted again at their version. -/
def reemit (s : State) (c : BitVec 8) : State :=
  match ctxOf s c with
  | none => s
  | some x => match x.win.plan with
    | none => s
    | some pl => (ownedRanges pl).foldl (fun s p =>
        match tabFind x.win.versions p.1 with
        | some v => if viewBad s x p.2.strm (strmBytes (streamFmt s x p.2.layer) p.2.nelem) then
            (emitRange s c x p.2 (optGroup s x p.2.group).emit v).1 else s
        | none => s) s

/-- Do lines that no replay can do without lie bad: weights, moments, exponents of owned buckets, the glean log, or too many? -/
def stateBad (s : State) (x : Ctx) (c : BitVec 8) : Bool :=
  s.saddles.any (fun p => decide (badMax < (tabGet p.2.bad c.toNat []).length)) ||
    (match x.win.plan with
     | none => false
     | some pl => (ownedRanges pl).any (fun p => let n := 4 * p.2.nelem
                    viewBad s x p.2.master n || viewBad s x p.2.mom1 n || viewBad s x p.2.mom2 n ||
                      s.upd.any (fun u => u.ctx == c && u.bucket == p.1 && viewBad s x p.2.land n)) ||
         viewBad s x pl.expOff (2 * expSetLen pl)) ||
    (match x.gleanMarks with
     | [] => false
     | m :: _ => decide (m.2 < x.gsn) && (gleanHeld x).any (fun g => decide (m.2 ≤ g) && viewBad s x (atGlean + 32 * (g % 8388608)) 32))

/-- Is a record of the oldest unfinished step overwritten? -/
def gleanLost (x : Ctx) (oldest : W32) : Bool := x.gleanMarks.any (fun p => stepGe p.1 oldest && decide (8388608 + p.2 < x.gsn))

/-- A rerun from a restored boundary: instances of a step and later are unstarted (R480). -/
def unstart (x : Ctx) (step : W32) : Ctx :=
  let keep (b : Submission) (k : Nat) : Bool := !stepGe (instStep b k) step
  let subs := x.subs.map (fun b =>
    { b with retired := b.retired.filter (fun p => keep b p.1)
             done := ((List.range b.done).find? (fun k => !keep b k)).getD b.done })
  let win := match x.win.plan with
    | some pl => let i := orderIx pl step 0
                 { x.win with front := min x.win.front i, ahead := x.win.ahead.filter (fun j => decide (j < i)) }
    | none => x.win
  { x with subs := subs, win := win, gleanMarks := x.gleanMarks.filter (fun p => !stepGe p.1 step) }

/-- How many instances of a submission the tiles have reached, as the records show: all, where a later one on its sheaf has begun. -/
def reached (x : Ctx) (b : Submission) : Nat :=
  let started (b : Submission) : Bool := b.retired.any (fun p => !p.2.isEmpty) || decide (0 < b.done)
  if (unfinished x).any (fun u => u.sheaf == b.sheaf && decide (b.no < u.no) && started u) then b.count
  else (b.retired.filter (fun p => !p.2.isEmpty)).foldl (fun n p => max n (p.1 + 1)) b.done

/-- The tasks of the reached instances without a TASK record. -/
def missingTasks (x : Ctx) : List (Nat × Nat × Nat) :=
  (unfinished x).flatMap (fun b => match findGraph x b.graph with
    | none => []
    | some g => (List.range (reached x b - b.done)).flatMap (fun i =>
        let k := b.done + i
        ((List.range g.tasks.length).filter (fun t => !(retiredIn b k).contains t)).map (fun t => (b.no, k, t))))

/-- The producers, in tile SRAM, of a task's inputs. -/
def producersOf (x : Ctx) (m : Nat × Nat × Nat) : List (Nat × Nat × Nat) :=
  match headOf x m with
  | some h => h.task.producers.map (fun t => (m.1, m.2.1, t))
  | none => []

/-- Closes a set of tasks under producers. DEDUCED, log entry 33. -/
def closeMembers (x : Ctx) : Nat → List (Nat × Nat × Nat) → List (Nat × Nat × Nat)
  | 0, l => l
  | n + 1, l =>
    let more := ((l.flatMap (producersOf x)).filter (fun m => !l.contains m)).eraseDups
    if more.isEmpty then l else closeMembers x n (l ++ more)

/-- Members in submission order, by instance and task. -/
def sortMembers (x : Ctx) (l : List (Nat × Nat × Nat)) : List (Nat × Nat × Nat) :=
  (unfinished x).flatMap (fun b => match findGraph x b.graph with
    | none => []
    | some g => (List.range (reached x b)).flatMap (fun k => ((List.range g.tasks.length).map (fun t => (b.no, k, t))).filter (fun m => l.contains m)))

/-- DEDUCED, log entry 33. -/
def membersOf (x : Ctx) : List (Nat × Nat × Nat) :=
  sortMembers x (closeMembers x (((unfinished x).map (fun b => ((findGraph x b.graph).map (·.tasks.length)).getD 0)).sum + 1) (missingTasks x))

/-- Does a member read a line that is bad, or parameters whose version has passed its step? -/
def readsBad (s : State) (x : Ctx) (m : Nat × Nat × Nat) : Bool :=
  ((headOf x m).map (fun h => h.task.reads.any (fun r => viewBad s x r.1 r.2))).getD false
def readsPassed (s : State) (x : Ctx) (m : Nat × Nat × Nat) : Bool :=
  match headOf x m, x.win.plan with
  | some h, some pl => (ownedRanges pl).any (fun p =>
      let len := strmBytes (streamFmt s x p.2.layer) p.2.nelem
      h.task.reads.any (fun r => decide (r.1 < p.2.strm + len ∧ p.2.strm < r.1 + r.2)) &&
        ((tabFind x.win.versions p.1).map (fun v => stepGe v (instStep h.sub h.inst))).getD false)
  | _, _ => false

/-- Why a replay cannot be done, if it cannot (R450). DEDUCED, log entry 33. -/
def noReplay (s : State) (x : Ctx) (c : BitVec 8) (oldest : W32) (members : List (Nat × Nat × Nat)) : Option Nat :=
  if (unfinished x).any (fun b => (findGraph x b.graph).isNone) then some 4
  else if gleanLost x oldest then some 2
  else if stateBad s x c ∨ members.any (readsBad s x) then some 1
  else if members.any (readsPassed s x) then some 3
  else none

/-- Where the walk of a sheaf's lists goes on after the members: the first instance not reached. -/
def nextCursor (x : Ctx) (h : Nat) : Cursor :=
  match (unfinished x).find? (fun b => b.sheaf == h && decide (reached x b < b.count)) with
  | some b => ⟨b.no, reached x b, 0⟩
  | none => ⟨x.nextSub, 0, 0⟩

/-- The members on their tiles, and the cursors beyond them. DEDUCED, log entry 33. -/
def loadMembers (s : State) (c : BitVec 8) (x : Ctx) (members : List (Nat × Nat × Nat)) : State :=
  let s := (sheavesOf s c).foldl (fun s p =>
    let cur := nextCursor x p.1
    let sec := isSecond p.2 c
    onTiles s (sheafTiles p.2) (fun _ t =>
      { t with cursors := (List.range 4).foldl (fun l q => tabSet l (cursorKey sec q) cur) t.cursors })) s
  members.foldl (fun s m =>
    match headOf x m with
    | none => s
    | some h => match roleOfCtx (tileOf s h.task.tile) c with
      | none => s
      | some (sec, _) =>
        let t := tileOf s h.task.tile
        setTile s h.task.tile { t with replay := t.replay ++ [memberDesc x c sec h members] }) s

/-- Exponent tables whose publication is not acknowledged everywhere go out again (R449). -/
def resendTables (s : State) (c : BitVec 8) : State :=
  (((ctxOf s c).map (fun x => x.win.pubs.filter (·.sent))).getD []).foldl (fun s p => sendTables s c p.bucket p.step) s

/-- A replay without members ends at once. -/
def endEmpty (s : State) (c : BitVec 8) (rno : Nat) : State :=
  let s := logAt s 0x0303 5 0 (some c) none rno
  updCtx s c (fun x => { x with reset := none, quiesced := x.quiesced.filter (fun q => match q with
    | .spur j => spurState s j != spurAttached
    | _ => true) })

/-- May the home steward plan now: steps 1 to 6 done, the engine in service, no cancel in the way? -/
def planDue (s : State) (c : BitVec 8) (r : Reset) : Bool :=
  !r.waitEpoch && !r.begun && r.impossible.isNone && !r.noReplay && s.cairn.engState == 5 && stewardServes s (homeSteward c)

/-- REPLAY_PLAN. -/
def planReplay (s : State) (c : BitVec 8) : State :=
  match (ctxOf s c), (ctxOf s c).bind (·.reset) with
  | some x, some r =>
    if !planDue s c r then s
    else
      let x := match r.rerunFrom with
        | some st => unstart x st
        | none => x
      let s := setCtx s c x
      let s := match r.rerunFrom with
        | some st => { s with upd := s.upd.filter (fun u => !(u.ctx == c && stepGe u.step st)) }
        | none => s
      let oldest := r.rerunFrom.getD (oldestStep x)
      let s := reemit s c
      let members := membersOf x
      match noReplay s x c oldest members with
      | some why => replayImpossible s c why
      | none =>
        let s := if (unfinished x).isEmpty then s else dropDeltas (layersBack s x oldest) c oldest
        let s := replaceGraphs s c
        let s := updCtx s c (fun x => { x with
          boundaryDone := x.boundaryDone.map (fun b => if !(unfinished x).isEmpty && stepGe b oldest then oldest - 1 else b)
          reset := some { r with begun := true, members := members } })
        let s := match ctxOf s c with
          | some x => loadMembers s c x members
          | none => s
        let s := resendTables (logAt s 0x0302 5 0 (some c) none (r.rno + 2 ^ 32 * oldest.toNat)) c
        if members.isEmpty then endEmpty s c r.rno else s
  | _, _ => s

/-! ### Spur repair, probes, the return from a mapping (R441, R455 to R457) -/

/-- SPUR_REPAIR_TIMEOUT: the contexts that a failed spur holds wait for repair, and their peers are told. -/
def spurRepair (s : State) (j : Nat) : State :=
  if spurState s j = spurAttached then s
  else (ctxNames s).foldl (fun s c => match ctxOf s c with
    | none => s
    | some x =>
      if !x.quiesced.contains (.spur j) then s
      else
        let s := setCtx s c { x with quiesced := x.quiesced.filter (· != .spur j), waiting := addNew (.spur j) x.waiting }
        let s := logAt s 0x0407 5 0 (some c) none 9
        sendNotices s c (engineId s) s.cairn.rno (oldestStep x) 3) s

/-- TILE_PROBE_TIMEOUT: no answer of the core island; the router's tells cause 4 from 5. DEDUCED, log entry 35. -/
def probeTimeout (s : State) (i : Nat) : State :=
  let k := s.cairn
  if !k.probing.contains i then s
  else
    let core := k.probeSeen.contains (i, false)
    let router := k.probeSeen.contains (i, true)
    let s := { s with cairn := { k with probing := k.probing.filter (· != i), probeSeen := k.probeSeen.filter (fun p => p.1 != i) } }
    if core ∨ (tileOf s i).power ≠ .run then s else hardFail s i (if router then 4 else 5)

/-- REMAP_DONE: `lost` are the shots, and 64 + the stacks, that cannot be presented. DEDUCED, log entry 44. -/
def remapped (s : State) (lost : List Nat) (spares : Nat) : State :=
  match s.cairn.oos with
  | some (.remap cls false) =>
    if !s.module.pgMain ∨ s.module.phase ≠ .up then s
    else if !lost.isEmpty then
        let s := lostShots s lost
        let s := tellPeers (logCairn { s with cairn := { s.cairn with oos := some (.remap cls true) } } 0x0407 none cls) 3
        { s with ctxs := tabMap s.ctxs (fun _ x => { x with waiting := addNew (.peer (engineId s)) x.waiting }) }
    else
        let s := rebindAll (freshTiles { s with cairn := { s.cairn with oos := none } })
        let s := logCairn s 0x0406 none (spares % 2 ^ 16)
        let s := (ctxNames s).foldl (fun s c => match ctxOf s c with
          | some x => sendNotices s c (engineId s) ((x.reset.map (·.rno)).getD s.cairn.rno) (oldestStep x) 4
          | none => s) s
        setEngState s 5
  | _ => s

/-- UE_REPORT (R435). -/
def execUeReport (own : Option DieUe) (s : State) : Host.Outcome State Fault Refusal :=
  .next (ueArrives s own)

/-- REPLAY_PLAN (R448). -/
def execReplayPlan (ctx : BitVec 8) (s : State) : Host.Outcome State Fault Refusal :=
  .next (planReplay s ctx)

/-- TASK_FAULT (R440). -/
def execTaskFault (ctx : BitVec 8) (s : State) : Host.Outcome State Fault Refusal :=
  .next (taskFaultNext s ctx)

/-- SPUR_REPAIR_TIMEOUT (R441). -/
def execSpurRepairTimeout (spur : Nat) (s : State) : Host.Outcome State Fault Refusal :=
  .next (spurRepair s spur)

/-- TILE_PROBE_TIMEOUT (R456). -/
def execTileProbeTimeout (tile : Nat) (s : State) : Host.Outcome State Fault Refusal :=
  .next (probeTimeout s tile)

/-- REMAP_DONE (R455). -/
def execRemapDone (lost : List Nat) (spares : Nat) (s : State) : Host.Outcome State Fault Refusal :=
  .next (remapped s lost spares)

end Sys2Proof.Machine
end

