-- ==== Sys2Proof/Machine/TileExec.lean ====
section
/-! DEFINITION. The meanings of the tile rows: the instructions of a tile (R99 to R147), and the events of its units, its
dispatcher and its clock. Each is one effect of one tile. -/
namespace Sys2Proof.Machine

/-- A tile instruction of a MAJOR and MINOR pair without a look outside the tile, where the fetch meets it. -/
def tileIns (major minor : BitVec 6) (f : TInsn → Tile → Tile) (o : TInsn) (s : State) : Host.Outcome State Fault Refusal :=
  .next (onTile s o.tile (fun e t => fetched e (insnWord major minor o) (f o) t))

/-- A tile instruction that reads its tile's surroundings. -/
def tileInsE (major minor : BitVec 6) (f : Env → TInsn → Tile → Tile) (o : TInsn) (s : State) :
    Host.Outcome State Fault Refusal :=
  .next (onTile s o.tile (fun e t => fetched e (insnWord major minor o) (f e o) t))

/-- An event of one tile. -/
def tileEv (f : Env → Tile → Tile) (i : Nat) (s : State) : Host.Outcome State Fault Refusal := .next (onTile s i f)


/-- ADD (R100). -/
def execAdd (o : TInsn) (s : State) : Host.Outcome State Fault Refusal := tileIns 0x00 0x00 insAdd o s

/-- SUB (R100). -/
def execSub (o : TInsn) (s : State) : Host.Outcome State Fault Refusal := tileIns 0x00 0x01 insSub o s

/-- AND (R100). -/
def execAnd (o : TInsn) (s : State) : Host.Outcome State Fault Refusal := tileIns 0x00 0x02 insAnd o s

/-- OR (R100). -/
def execOr (o : TInsn) (s : State) : Host.Outcome State Fault Refusal := tileIns 0x00 0x03 insOr o s

/-- XOR (R100). -/
def execXor (o : TInsn) (s : State) : Host.Outcome State Fault Refusal := tileIns 0x00 0x04 insXor o s

/-- SHL (R100). -/
def execShl (o : TInsn) (s : State) : Host.Outcome State Fault Refusal := tileIns 0x00 0x05 insShl o s

/-- SHR (R100). -/
def execShr (o : TInsn) (s : State) : Host.Outcome State Fault Refusal := tileIns 0x00 0x06 insShr o s

/-- SRA (R100). -/
def execSra (o : TInsn) (s : State) : Host.Outcome State Fault Refusal := tileIns 0x00 0x07 insSra o s

/-- MUL (R100). -/
def execMul (o : TInsn) (s : State) : Host.Outcome State Fault Refusal := tileIns 0x00 0x08 insMul o s

/-- CMP (R100). -/
def execCmp (o : TInsn) (s : State) : Host.Outcome State Fault Refusal := tileIns 0x00 0x09 insCmp o s

/-- LI (R100). -/
def execLi (o : TInsn) (s : State) : Host.Outcome State Fault Refusal := tileIns 0x00 0x0A insLi o s

/-- LUI (R100). -/
def execLui (o : TInsn) (s : State) : Host.Outcome State Fault Refusal := tileIns 0x00 0x0B insLui o s

/-- BR (R101). -/
def execBr (o : TInsn) (s : State) : Host.Outcome State Fault Refusal := tileIns 0x01 0x00 insBr o s

/-- J (R101). -/
def execJ (o : TInsn) (s : State) : Host.Outcome State Fault Refusal := tileIns 0x01 0x01 insJ o s

/-- CALL (R101). -/
def execCall (o : TInsn) (s : State) : Host.Outcome State Fault Refusal := tileIns 0x01 0x02 insCall o s

/-- RET (R101). -/
def execRet (o : TInsn) (s : State) : Host.Outcome State Fault Refusal := tileIns 0x01 0x03 insRet o s

/-- LDS (R102). -/
def execLds (o : TInsn) (s : State) : Host.Outcome State Fault Refusal := tileInsE 0x02 0x00 insLds o s

/-- STS (R102). -/
def execSts (o : TInsn) (s : State) : Host.Outcome State Fault Refusal := tileInsE 0x02 0x01 insSts o s

/-- CSRR (R102). -/
def execCsrr (o : TInsn) (s : State) : Host.Outcome State Fault Refusal := tileInsE 0x02 0x02 insCsrr o s

/-- CSRW (R102). -/
def execCsrw (o : TInsn) (s : State) : Host.Outcome State Fault Refusal := tileIns 0x02 0x03 insCsrw o s

/-- AGEN (R103). -/
def execAgen (o : TInsn) (s : State) : Host.Outcome State Fault Refusal := tileIns 0x03 0x00 insAgen o s

/-- AINC (R103). -/
def execAinc (o : TInsn) (s : State) : Host.Outcome State Fault Refusal := tileIns 0x03 0x01 insAinc o s

/-- CPY (R105). -/
def execCpy (o : TInsn) (s : State) : Host.Outcome State Fault Refusal := tileInsE 0x10 0x00 insCpy o s

/-- SEND (R106). -/
def execSend (o : TInsn) (s : State) : Host.Outcome State Fault Refusal := tileIns 0x10 0x01 insSend o s

/-- MCAST (R106). -/
def execMcast (o : TInsn) (s : State) : Host.Outcome State Fault Refusal := tileIns 0x10 0x03 insMcast o s

/-- RECV (R107). -/
def execRecv (o : TInsn) (s : State) : Host.Outcome State Fault Refusal := tileIns 0x10 0x02 insRecv o s

/-- SWREAD (R108). -/
def execSwread (o : TInsn) (s : State) : Host.Outcome State Fault Refusal := tileInsE 0x10 0x04 insSwread o s

/-- WAITT (R112). -/
def execWaitt (o : TInsn) (s : State) : Host.Outcome State Fault Refusal := tileIns 0x18 0x00 insWaitt o s

/-- POST (R113). -/
def execPost (o : TInsn) (s : State) : Host.Outcome State Fault Refusal := tileInsE 0x18 0x01 insPost o s

/-- FENCE (R114). -/
def execFence (o : TInsn) (s : State) : Host.Outcome State Fault Refusal := tileIns 0x18 0x02 insFence o s

/-- TEND (R115). -/
def execTend (o : TInsn) (s : State) : Host.Outcome State Fault Refusal := tileIns 0x18 0x03 insTend o s

/-- YIELD (R115). -/
def execYield (o : TInsn) (s : State) : Host.Outcome State Fault Refusal := tileInsE 0x18 0x04 insYield o s

/-- MMA (R125). -/
def execMma (o : TInsn) (s : State) : Host.Outcome State Fault Refusal := tileIns 0x08 0x00 insMma o s

/-- ACCZ (R127). -/
def execAccz (o : TInsn) (s : State) : Host.Outcome State Fault Refusal := tileIns 0x08 0x01 insAccz o s

/-- ACCRD (R128). -/
def execAccrd (o : TInsn) (s : State) : Host.Outcome State Fault Refusal := tileIns 0x08 0x02 insAccrd o s

/-- ACCWR (R129). -/
def execAccwr (o : TInsn) (s : State) : Host.Outcome State Fault Refusal := tileIns 0x08 0x03 insAccwr o s

/-- ACCSW (R130). -/
def execAccsw (o : TInsn) (s : State) : Host.Outcome State Fault Refusal := tileIns 0x08 0x04 insAccsw o s

/-- VLD (R131). -/
def execVld (o : TInsn) (s : State) : Host.Outcome State Fault Refusal := tileIns 0x09 0x00 insVld o s

/-- VST (R131). -/
def execVst (o : TInsn) (s : State) : Host.Outcome State Fault Refusal := tileIns 0x09 0x01 insVst o s

/-- VADD_F32 (R132). -/
def execVaddF32 (o : TInsn) (s : State) : Host.Outcome State Fault Refusal := tileIns 0x09 0x02 insVadd o s

/-- VMUL_F32 (R132). -/
def execVmulF32 (o : TInsn) (s : State) : Host.Outcome State Fault Refusal := tileIns 0x09 0x03 insVmul o s

/-- VFMA_F32 (R132). -/
def execVfmaF32 (o : TInsn) (s : State) : Host.Outcome State Fault Refusal := tileIns 0x09 0x04 insVfma o s

/-- VMAX (R133). -/
def execVmax (o : TInsn) (s : State) : Host.Outcome State Fault Refusal := tileIns 0x09 0x05 insVmax o s

/-- VEXP (R136). -/
def execVexp (o : TInsn) (s : State) : Host.Outcome State Fault Refusal := tileIns 0x09 0x06 insVexp o s

/-- VRCP (R137). -/
def execVrcp (o : TInsn) (s : State) : Host.Outcome State Fault Refusal := tileIns 0x09 0x07 insVrcp o s

/-- VRSQ (R137). -/
def execVrsq (o : TInsn) (s : State) : Host.Outcome State Fault Refusal := tileIns 0x09 0x08 insVrsq o s

/-- VDERIV (R138). -/
def execVderiv (o : TInsn) (s : State) : Host.Outcome State Fault Refusal := tileIns 0x09 0x09 insVderiv o s

/-- VCVT (R140). -/
def execVcvt (o : TInsn) (s : State) : Host.Outcome State Fault Refusal := tileIns 0x09 0x0A insVcvt o s

/-- VRED (R134). -/
def execVred (o : TInsn) (s : State) : Host.Outcome State Fault Refusal := tileIns 0x09 0x0B insVred o s

/-- VIADD_W (R145). -/
def execViaddW (o : TInsn) (s : State) : Host.Outcome State Fault Refusal := tileIns 0x09 0x0C insViadd o s

/-- VSTAT (R146). -/
def execVstat (o : TInsn) (s : State) : Host.Outcome State Fault Refusal := tileIns 0x09 0x0D insVstat o s


/-! ### Events of the units -/

/-- CYCLE_LO_READ (R36): the low half of the cycle count, and the high half latched in CYCLE_HI. -/
def execCycleLoRead (tile : Nat) (rd : BitVec 6) (s : State) : Host.Outcome State Fault Refusal :=
  tileEv (fun e t => fetched e (insnWord 0x02 0x02 ⟨tile, rd, 0, 0, 0x010⟩) (insCycleLo e tile rd) t) tile s

/-- ACCSTAT_ACCESS (R120): an ACCSTAT access that waited for the array takes place. -/
def execAccstatAccess (tile : Nat) (s : State) : Host.Outcome State Fault Refusal :=
  tileEv (fun _ t => accstatAccess t) tile s

/-- RECV_SATISFIED (R107). -/
def execRecvSatisfied (tile n : Nat) (s : State) : Host.Outcome State Fault Refusal :=
  tileEv (fun _ t => recvSatisfied n t) tile s

/-- WAITT_SATISFIED (R112). -/
def execWaittSatisfied (tile : Nat) (s : State) : Host.Outcome State Fault Refusal :=
  tileEv (fun _ t => waittSatisfied t) tile s

/-- FENCE_COMPLETE (R244). -/
def execFenceComplete (tile : Nat) (s : State) : Host.Outcome State Fault Refusal :=
  tileEv (fun _ t => fenceComplete t) tile s

/-- UNIT_INSTRUCTION_START (R118, R119): the head of a unit's queue starts where its engine is free, its ranges are clear
and it owns what it touches. -/
def execUnitInstructionStart (tile : Nat) (u : Unit3) (s : State) : Host.Outcome State Fault Refusal :=
  tileEv (fun e t => match u with
    | .array => arrayStart t
    | .vector => vectorStart t
    | .copy => copyStart e t) tile s

/-- UNIT_INSTRUCTION_COMPLETE (R70): the effects of the instruction in an engine, and its entries freed. -/
def execUnitInstructionComplete (tile : Nat) (g : Engine) (s : State) : Host.Outcome State Fault Refusal :=
  tileEv (fun e t => match g with
    | .product => productComplete e t
    | .bankPort => portComplete e t
    | .vector => vectorComplete e t
    | .copy => copyComplete e t) tile s

/-! ### Events of the dispatcher -/

/-- TASK_SELECT (R68). -/
def execTaskSelect (tile : Nat) (s : State) : Host.Outcome State Fault Refusal := tileEv (fun _ t => taskSelect t) tile s

/-- COMPLETION_POST (R235). -/
def execCompletionPost (tile slot : Nat) (s : State) : Host.Outcome State Fault Refusal :=
  tileEv (fun e t => completionPost e slot t) tile s

/-- Q2_PROMOTION (R232). -/
def execQ2Promotion (tile slot : Nat) (s : State) : Host.Outcome State Fault Refusal :=
  tileEv (fun _ t => promoteSlot slot t) tile s

/-- RUN_LIMIT_EXPIRY (R233). -/
def execRunLimitExpiry (tile : Nat) (s : State) : Host.Outcome State Fault Refusal :=
  tileEv (fun _ t => runLimit t) tile s

/-- WAIT_WATCHDOG_EXPIRY (R111): of the stalled WAITT or FENCE, or of a pending RECV. -/
def execWaitWatchdogExpiry (tile : Nat) (recv : Option Nat) (s : State) : Host.Outcome State Fault Refusal :=
  tileEv (fun _ t => match recv with
    | none => watchdogStall t
    | some i => watchdogRecv i t) tile s

/-- FREQUENCY_CHANGE (R35): a DVFS or fallow change of a tile sets THERMAL (R380). -/
def execFrequencyChange (tile freq : Nat) (s : State) : Host.Outcome State Fault Refusal :=
  let s' := onTile s tile (fun e t => frequencyChange e freq t)
  .next (if (tileOf s' tile).freq = (tileOf s tile).freq ∧ (tileOf s' tile).power = (tileOf s tile).power then s'
    else setEvt s' evtThermal)

end Sys2Proof.Machine
end

