-- ==== Sys2Proof/Machine/Dispatch.lean ====
section
/-! DEFINITION. Which meaning each command calls: one arm for each constructor of Instr. -/
namespace Sys2Proof.Machine

/-- The effect of a command on everything but the queue. -/
def exec (i : Instr) (s : State) : Host.Outcome State Fault Refusal :=
  match i with
  | .add o => Sys2Proof.Machine.execAdd o s
  | .sub o => Sys2Proof.Machine.execSub o s
  | .and o => Sys2Proof.Machine.execAnd o s
  | .or o => Sys2Proof.Machine.execOr o s
  | .xor o => Sys2Proof.Machine.execXor o s
  | .shl o => Sys2Proof.Machine.execShl o s
  | .shr o => Sys2Proof.Machine.execShr o s
  | .sra o => Sys2Proof.Machine.execSra o s
  | .mul o => Sys2Proof.Machine.execMul o s
  | .cmp o => Sys2Proof.Machine.execCmp o s
  | .li o => Sys2Proof.Machine.execLi o s
  | .lui o => Sys2Proof.Machine.execLui o s
  | .br o => Sys2Proof.Machine.execBr o s
  | .j o => Sys2Proof.Machine.execJ o s
  | .call o => Sys2Proof.Machine.execCall o s
  | .ret o => Sys2Proof.Machine.execRet o s
  | .lds o => Sys2Proof.Machine.execLds o s
  | .sts o => Sys2Proof.Machine.execSts o s
  | .csrr o => Sys2Proof.Machine.execCsrr o s
  | .csrw o => Sys2Proof.Machine.execCsrw o s
  | .cycleLoRead tile rd => Sys2Proof.Machine.execCycleLoRead tile rd s
  | .accstatAccess tile => Sys2Proof.Machine.execAccstatAccess tile s
  | .agen o => Sys2Proof.Machine.execAgen o s
  | .ainc o => Sys2Proof.Machine.execAinc o s
  | .cpy o => Sys2Proof.Machine.execCpy o s
  | .send o => Sys2Proof.Machine.execSend o s
  | .mcast o => Sys2Proof.Machine.execMcast o s
  | .recv o => Sys2Proof.Machine.execRecv o s
  | .recvSatisfied tile n => Sys2Proof.Machine.execRecvSatisfied tile n s
  | .swread o => Sys2Proof.Machine.execSwread o s
  | .waitt o => Sys2Proof.Machine.execWaitt o s
  | .waittSatisfied tile => Sys2Proof.Machine.execWaittSatisfied tile s
  | .post o => Sys2Proof.Machine.execPost o s
  | .fence o => Sys2Proof.Machine.execFence o s
  | .fenceComplete tile => Sys2Proof.Machine.execFenceComplete tile s
  | .tend o => Sys2Proof.Machine.execTend o s
  | .yield o => Sys2Proof.Machine.execYield o s
  | .mma o => Sys2Proof.Machine.execMma o s
  | .accz o => Sys2Proof.Machine.execAccz o s
  | .accrd o => Sys2Proof.Machine.execAccrd o s
  | .accwr o => Sys2Proof.Machine.execAccwr o s
  | .accsw o => Sys2Proof.Machine.execAccsw o s
  | .vld o => Sys2Proof.Machine.execVld o s
  | .vst o => Sys2Proof.Machine.execVst o s
  | .vaddF32 o => Sys2Proof.Machine.execVaddF32 o s
  | .vmulF32 o => Sys2Proof.Machine.execVmulF32 o s
  | .vfmaF32 o => Sys2Proof.Machine.execVfmaF32 o s
  | .vmax o => Sys2Proof.Machine.execVmax o s
  | .vexp o => Sys2Proof.Machine.execVexp o s
  | .vrcp o => Sys2Proof.Machine.execVrcp o s
  | .vrsq o => Sys2Proof.Machine.execVrsq o s
  | .vderiv o => Sys2Proof.Machine.execVderiv o s
  | .vcvt o => Sys2Proof.Machine.execVcvt o s
  | .vred o => Sys2Proof.Machine.execVred o s
  | .viaddW o => Sys2Proof.Machine.execViaddW o s
  | .vstat o => Sys2Proof.Machine.execVstat o s
  | .unitInstructionStart tile u => Sys2Proof.Machine.execUnitInstructionStart tile u s
  | .unitInstructionComplete tile e => Sys2Proof.Machine.execUnitInstructionComplete tile e s
  | .dispatcherLoad tile prefetched => Sys2Proof.Machine.execDispatcherLoad tile prefetched s
  | .taskSelect tile => Sys2Proof.Machine.execTaskSelect tile s
  | .completionPost tile slot => Sys2Proof.Machine.execCompletionPost tile slot s
  | .q2Promotion tile slot => Sys2Proof.Machine.execQ2Promotion tile slot s
  | .runLimitExpiry tile => Sys2Proof.Machine.execRunLimitExpiry tile s
  | .waitWatchdogExpiry tile recv => Sys2Proof.Machine.execWaitWatchdogExpiry tile recv s
  | .frequencyChange tile freq => Sys2Proof.Machine.execFrequencyChange tile freq s
  | .meshFlitHop tile port bad => Sys2Proof.Machine.execMeshFlitHop tile port bad s
  | .meshPacketArrival tile => Sys2Proof.Machine.execMeshPacketArrival tile s
  | .ackSend tile n => Sys2Proof.Machine.execAckSend tile n s
  | .awnHop tile port bad => Sys2Proof.Machine.execAwnHop tile port bad s
  | .token tile pri => Sys2Proof.Machine.execToken tile pri s
  | .count tile pri => Sys2Proof.Machine.execCount tile pri s
  | .ack tile pri => Sys2Proof.Machine.execAck tile pri s
  | .probe tile tag silent => Sys2Proof.Machine.execProbe tile tag silent s
  | .coreAnswerTimeout tile => Sys2Proof.Machine.execCoreAnswerTimeout tile s
  | .answer saddle => Sys2Proof.Machine.execAnswer saddle s
  | .routerAnswer saddle => Sys2Proof.Machine.execRouterAnswer saddle s
  | .linkSpare tile port group awn wires => Sys2Proof.Machine.execLinkSpare tile port group awn wires s
  | .linkRepairComplete tile port group awn => Sys2Proof.Machine.execLinkRepairComplete tile port group awn s
  | .parityWindowExpiry tile port group awn => Sys2Proof.Machine.execParityWindowExpiry tile port group awn s
  | .swreadRequest port => Sys2Proof.Machine.execSwreadRequest port s
  | .mergeWindowExpiry port entry => Sys2Proof.Machine.execMergeWindowExpiry port entry s
  | .fillLine port spur => Sys2Proof.Machine.execFillLine port spur s
  | .streamSequencerItem saddle ctx => Sys2Proof.Machine.execStreamSequencerItem saddle ctx s
  | .saddleReadRequest saddle link => Sys2Proof.Machine.execSaddleReadRequest saddle link s
  | .hbmReadReturn saddle n ecc => Sys2Proof.Machine.execHbmReadReturn saddle n ecc s
  | .saddleWrite saddle link => Sys2Proof.Machine.execSaddleWrite saddle link s
  | .escalationAppend saddle link => Sys2Proof.Machine.execEscalationAppend saddle link s
  | .healthCombine saddle link => Sys2Proof.Machine.execHealthCombine saddle link s
  | .slabScrubComplete saddle => Sys2Proof.Machine.execSlabScrubComplete saddle s
  | .ringFlit n crcOk => Sys2Proof.Machine.execRingFlit n crcOk s
  | .completion saddle => Sys2Proof.Machine.execCompletion saddle s
  | .instanceDone ctx => Sys2Proof.Machine.execInstanceDone ctx s
  | .bucketLanding saddle => Sys2Proof.Machine.execBucketLanding saddle s
  | .bucketUpdate saddle ctx step bucket => Sys2Proof.Machine.execBucketUpdate saddle ctx step bucket s
  | .schedRetryTimer saddle => Sys2Proof.Machine.execSchedRetryTimer saddle s
  | .clipFactor saddle ctx step => Sys2Proof.Machine.execClipFactor saddle ctx step s
  | .stepBoundary ctx step => Sys2Proof.Machine.execStepBoundary ctx step s
  | .escalationRequest ctx r => Sys2Proof.Machine.execEscalationRequest ctx r s
  | .normPassStart ctx step => Sys2Proof.Machine.execNormPassStart ctx step s
  | .winnowDataFrame port inp => Sys2Proof.Machine.execWinnowDataFrame port inp s
  | .verdictLine port => Sys2Proof.Machine.execVerdictLine port s
  | .pairDeadlineExpiry ctx step bucket chunk primary => Sys2Proof.Machine.execPairDeadlineExpiry ctx step bucket chunk primary s
  | .attempt port => Sys2Proof.Machine.execAttempt port s
  | .commit port => Sys2Proof.Machine.execCommit port s
  | .chunkAck port => Sys2Proof.Machine.execChunkAck port s
  | .resend port => Sys2Proof.Machine.execResend port s
  | .norm port => Sys2Proof.Machine.execNorm port s
  | .clip port => Sys2Proof.Machine.execClip port s
  | .exponentTable port => Sys2Proof.Machine.execExponentTable port s
  | .exptAck port => Sys2Proof.Machine.execExptAck port s
  | .winnowFrameResendTimeout port n => Sys2Proof.Machine.execWinnowFrameResendTimeout port n s
  | .linkRxSignalDetect port => Sys2Proof.Machine.execLinkRxSignalDetect port s
  | .linkTrained port => Sys2Proof.Machine.execLinkTrained port s
  | .linkTrainingTimeout port => Sys2Proof.Machine.execLinkTrainingTimeout port s
  | .linkLossOfLock port => Sys2Proof.Machine.execLinkLossOfLock port s
  | .linkControlSilenceTimeout port => Sys2Proof.Machine.execLinkControlSilenceTimeout port s
  | .linkControlRecord port lw rec_ => Sys2Proof.Machine.execLinkControlRecord port lw rec_ s
  | .linkControlTimer port => Sys2Proof.Machine.execLinkControlTimer port s
  | .spurFrameReceive port f fecBad => Sys2Proof.Machine.execSpurFrameReceive port f fecBad s
  | .hopReplayTimeout port => Sys2Proof.Machine.execHopReplayTimeout port s
  | .spurAttach spur => Sys2Proof.Machine.execSpurAttach spur s
  | .spurDetachDrainTimeout spur => Sys2Proof.Machine.execSpurDetachDrainTimeout spur s
  | .streamCredit port => Sys2Proof.Machine.execStreamCredit port s
  | .recover port => Sys2Proof.Machine.execRecover port s
  | .outOfService port => Sys2Proof.Machine.execOutOfService port s
  | .repairWait port => Sys2Proof.Machine.execRepairWait port s
  | .resume port => Sys2Proof.Machine.execResume port s
  | .ethData port d => Sys2Proof.Machine.execEthData port d s
  | .ethAck port d => Sys2Proof.Machine.execEthAck port d s
  | .getreq port d => Sys2Proof.Machine.execGetreq port d s
  | .reject port d => Sys2Proof.Machine.execReject port d s
  | .ethAckTimer stream => Sys2Proof.Machine.execEthAckTimer stream s
  | .ethResendTimeout stream => Sys2Proof.Machine.execEthResendTimeout stream s
  | .xringPoll ctx => Sys2Proof.Machine.execXringPoll ctx s
  | .stookPart ctx => Sys2Proof.Machine.execStookPart ctx s
  | .stookManifestPut ctx => Sys2Proof.Machine.execStookManifestPut ctx s
  | .stookSealPut ctx => Sys2Proof.Machine.execStookSealPut ctx s
  | .lldpTransmit port => Sys2Proof.Machine.execLldpTransmit port s
  | .lldpReceive port tlvs => Sys2Proof.Machine.execLldpReceive port tlvs s
  | .neighbourRequest port v6 target data => Sys2Proof.Machine.execNeighbourRequest port v6 target data s
  | .icmpEcho port v6 target data => Sys2Proof.Machine.execIcmpEcho port v6 target data s
  | .ethLinkChange port up => Sys2Proof.Machine.execEthLinkChange port up s
  | .osfpInsert cage highPower => Sys2Proof.Machine.execOsfpInsert cage highPower s
  | .osfpRemove cage => Sys2Proof.Machine.execOsfpRemove cage s
  | .doorbellExtend ctx => Sys2Proof.Machine.execDoorbellExtend ctx s
  | .doorbellNotify ctx => Sys2Proof.Machine.execDoorbellNotify ctx s
  | .doorbellSchedKick ctx => Sys2Proof.Machine.execDoorbellSchedKick ctx s
  | .bar2Write off data poisoned => Sys2Proof.Machine.execBar2Write off data poisoned s
  | .evtEnWrite value => Sys2Proof.Machine.execEvtEnWrite value s
  | .msixUnmask fn vec => Sys2Proof.Machine.execMsixUnmask fn vec s
  | .registerWrite fn off value size => Sys2Proof.Machine.execRegisterWrite fn off value size s
  | .vfFlr vf => Sys2Proof.Machine.execVfFlr vf s
  | .pfFlr => Sys2Proof.Machine.execPfFlr s
  | .perstAssert => Sys2Proof.Machine.execPerstAssert s
  | .perstRelease => Sys2Proof.Machine.execPerstRelease s
  | .mbxGo chan value => Sys2Proof.Machine.execMbxGo chan value s
  | .mbxTake chan => Sys2Proof.Machine.execMbxTake chan s
  | .mbxTimeout chan => Sys2Proof.Machine.execMbxTimeout chan s
  | .stagedPart chan => Sys2Proof.Machine.execStagedPart chan s
  | .mgmtUdpRequest op addr value tag => Sys2Proof.Machine.execMgmtUdpRequest op addr value tag s
  | .hello chan => Sys2Proof.Machine.execHello chan s
  | .caps chan => Sys2Proof.Machine.execCaps chan s
  | .ctxOpen chan => Sys2Proof.Machine.execCtxOpen chan s
  | .ctxClose chan => Sys2Proof.Machine.execCtxClose chan s
  | .sheafBind chan => Sys2Proof.Machine.execSheafBind chan s
  | .sheafRelease chan => Sys2Proof.Machine.execSheafRelease chan s
  | .sheafCotenant chan => Sys2Proof.Machine.execSheafCotenant chan s
  | .graphLoad chan obj => Sys2Proof.Machine.execGraphLoad chan obj s
  | .graphSubmit chan => Sys2Proof.Machine.execGraphSubmit chan s
  | .submissionLoad ctx => Sys2Proof.Machine.execSubmissionLoad ctx s
  | .graphCancel chan => Sys2Proof.Machine.execGraphCancel chan s
  | .cancelComplete ctx => Sys2Proof.Machine.execCancelComplete ctx s
  | .graphUnload chan => Sys2Proof.Machine.execGraphUnload chan s
  | .bucketPlan chan => Sys2Proof.Machine.execBucketPlan chan s
  | .bucketPlanClear chan => Sys2Proof.Machine.execBucketPlanClear chan s
  | .peerTableEngine chan => Sys2Proof.Machine.execPeerTableEngine chan s
  | .peerTableContext chan => Sys2Proof.Machine.execPeerTableContext chan s
  | .stookTake chan => Sys2Proof.Machine.execStookTake chan s
  | .stookRestore chan store => Sys2Proof.Machine.execStookRestore chan store s
  | .stookVerify chan => Sys2Proof.Machine.execStookVerify chan s
  | .fieldTest chan => Sys2Proof.Machine.execFieldTest chan s
  | .fieldTestStart sheaf => Sys2Proof.Machine.execFieldTestStart sheaf s
  | .fieldTestComplete sheaf failed tiles => Sys2Proof.Machine.execFieldTestComplete sheaf failed tiles s
  | .powerPolicy chan => Sys2Proof.Machine.execPowerPolicy chan s
  | .fallowSheaf chan => Sys2Proof.Machine.execFallowSheaf chan s
  | .fallowRectangle chan => Sys2Proof.Machine.execFallowRectangle chan s
  | .attest chan => Sys2Proof.Machine.execAttest chan s
  | .fwUpdate chan => Sys2Proof.Machine.execFwUpdate chan s
  | .fwUpdateDbgclose chan => Sys2Proof.Machine.execFwUpdateDbgclose chan s
  | .logRead chan => Sys2Proof.Machine.execLogRead chan s
  | .nuarnLoad chan => Sys2Proof.Machine.execNuarnLoad chan s
  | .stewardsReady => Sys2Proof.Machine.execStewardsReady s
  | .stewardHeartbeatTimeout k => Sys2Proof.Machine.execStewardHeartbeatTimeout k s
  | .stewardRestartComplete k => Sys2Proof.Machine.execStewardRestartComplete k s
  | .stewardIdleTimeout k => Sys2Proof.Machine.execStewardIdleTimeout k s
  | .stewardWake k => Sys2Proof.Machine.execStewardWake k s
  | .cairnAccess k target addr data => Sys2Proof.Machine.execCairnAccess k target addr data s
  | .wardenWatchdogExpiry => Sys2Proof.Machine.execWardenWatchdogExpiry s
  | .ueReport own => Sys2Proof.Machine.execUeReport own s
  | .replayPlan ctx => Sys2Proof.Machine.execReplayPlan ctx s
  | .taskFault ctx => Sys2Proof.Machine.execTaskFault ctx s
  | .spurRepairTimeout spur => Sys2Proof.Machine.execSpurRepairTimeout spur s
  | .tileProbeTimeout tile => Sys2Proof.Machine.execTileProbeTimeout tile s
  | .remapDone lost spares => Sys2Proof.Machine.execRemapDone lost spares s
  | .standbyPowerGood => Sys2Proof.Machine.execStandbyPowerGood s
  | .standbyBrownout => Sys2Proof.Machine.execStandbyBrownout s
  | .standbyOvervoltage => Sys2Proof.Machine.execStandbyOvervoltage s
  | .stbyRstAssert => Sys2Proof.Machine.execStbyRstAssert s
  | .stbyRstRelease contacts changed => Sys2Proof.Machine.execStbyRstRelease contacts changed s
  | .recoveryImage image => Sys2Proof.Machine.execRecoveryImage image s
  | .waferMappingComplete lost => Sys2Proof.Machine.execWaferMappingComplete lost s
  | .hbmTrainingComplete lost => Sys2Proof.Machine.execHbmTrainingComplete lost s
  | .linkTrainingPhaseEnd => Sys2Proof.Machine.execLinkTrainingPhaseEnd s
  | .svnBurn => Sys2Proof.Machine.execSvnBurn s
  | .mainEnRise => Sys2Proof.Machine.execMainEnRise s
  | .mainPowerupStart millivolts inlet held intlk => Sys2Proof.Machine.execMainPowerupStart millivolts inlet held intlk s
  | .prechargeComplete => Sys2Proof.Machine.execPrechargeComplete s
  | .mainEnLow => Sys2Proof.Machine.execMainEnLow s
  | .eoffNAssert => Sys2Proof.Machine.execEoffNAssert s
  | .intlkOpen => Sys2Proof.Machine.execIntlkOpen s
  | .j1Undervoltage => Sys2Proof.Machine.execJ1Undervoltage s
  | .j1Overvoltage => Sys2Proof.Machine.execJ1Overvoltage s
  | .inletOvertempTimeout reading => Sys2Proof.Machine.execInletOvertempTimeout reading s
  | .flowLowTimeout reading => Sys2Proof.Machine.execFlowLowTimeout reading s
  | .thermalTrip cls index reading => Sys2Proof.Machine.execThermalTrip cls index reading s
  | .tileHot tile => Sys2Proof.Machine.execTileHot tile s
  | .tileHotRelease tile => Sys2Proof.Machine.execTileHotRelease tile s
  | .hbmHot stack reading => Sys2Proof.Machine.execHbmHot stack reading s
  | .hbmVeryHot stack reading => Sys2Proof.Machine.execHbmVeryHot stack reading s
  | .dieHot die reading => Sys2Proof.Machine.execDieHot die reading s
  | .powerLimiterWindow mean => Sys2Proof.Machine.execPowerLimiterWindow mean s
  | .loopPeriod p => Sys2Proof.Machine.execLoopPeriod p s
  | .telemetryFrame t => Sys2Proof.Machine.execTelemetryFrame t s
  | .tlmI3cAddressWrite addr words => Sys2Proof.Machine.execTlmI3cAddressWrite addr words s
  | .doorbellWrite ctx value => Sys2Proof.Machine.execDoorbellWrite ctx value s
  | .mgmtI3cWrite addr words => Sys2Proof.Machine.execMgmtI3cWrite addr words s
  | .configurationRequest q => Sys2Proof.Machine.execConfigurationRequest q s
  | .pcieFatal status => Sys2Proof.Machine.execPcieFatal status s
  | .cairnSramUe core => Sys2Proof.Machine.execCairnSramUe core s
  | .derate cause reading => Sys2Proof.Machine.execDerate cause reading s
  | .epochAdvance ctx => Sys2Proof.Machine.execEpochAdvance ctx s

end Sys2Proof.Machine
end

