-- ==== Sys2Proof/Machine/Step.lean ====
section
/-! DEFINITION. The step: the command at the front of the queue takes place, with the queue's rest; on an empty queue the block
idles for one tick of its common time base (DESIGN CHOICE, log entry 1). -/
namespace Sys2Proof.Machine

/-- One step. DESIGN CHOICE, log entry 1. -/
def step (s : State) : Host.Outcome State Fault Refusal :=
  match s.pending with
  | [] => .next (idleTick s)
  | c :: rest => exec c { s with pending := rest }

/-- The state with the command that a word spells put at the front of its queue. No row of the table gives bits, so no word
spells a command and the state stays. -/
def State.withFetchWord (s : State) (nbits w : Nat) : State :=
  match Sys2Proof.decodeTableWord nbits w with
  | some c => { s with pending := c :: s.pending }
  | none => s

end Sys2Proof.Machine
end

