-- ==== Sys2Proof/Machine/Regs.lean ====
section
/-! DEFINITION. What a read over PCI Express returns (R379, R380, R383, R391): the registers as views of the state. A read changes nothing,
and no row of the table is a read. -/
namespace Sys2Proof.Machine

def spurStatWord (s : State) (j : Nat) : W32 :=
  let u := spurOf s j
  w32 (spurState s j + flagBit u.owner.isSome 4 + u.nbrSpur % 8 * 2 ^ 5 + 2 ^ 8 * u.nbr.toNat)

/-- A word of a function's MSI-X table. -/
def msixRead (s : State) (fn off : Nat) : W32 :=
  let v := tabGet s.pcie.vecs (vecKey fn (off / 16)) .init
  match off / 4 % 4 with
  | 0 => v.addr.setWidth 32
  | 1 => (v.addr >>> 32).setWidth 32
  | 2 => v.data
  | _ => w32 (flagBit v.masked 0)

/-- A word of a function's pending bit array. -/
def pbaRead (s : State) (fn off : Nat) : W32 :=
  w32 (((List.range 32).map (fun i => flagBit (tabGet s.pcie.vecs (vecKey fn (8 * off + i)) .init).pend i)).sum)

/-- An aligned 4-byte read of PF BAR0; reserved ranges read 0, and so does the doorbell page. -/
def pfRead (s : State) (off : Nat) : W32 :=
  if off < 0x40000 then chanRead s (off / 2 ^ 12) (off % 2 ^ 12)
  else if off = 0x50000 then w32 (engDev s)
  else if off = 0x50004 then w32 (engGrid s)
  else if off = 0x50008 then w32 (engCaps s)
  else if off = 0x5000C then w32 (engineId s).toNat
  else if off = 0x50010 then w32 s.cairn.engState
  else if off = 0x50018 then s.shadow.serial.setWidth 32
  else if off = 0x5001C then (s.shadow.serial >>> 32).setWidth 32
  else if 0x50400 ≤ off ∧ off < 0x50500 then tabGet s.tlm.frame ((off - 0x50400) / 4) 0
  else if off = 0x60000 then w32 s.pcie.evtStat
  else if off = 0x60004 then w32 s.pcie.evtEn
  else if 0x60040 ≤ off ∧ off < 0x60060 then spurStatWord s ((off - 0x60040) / 4)
  else if 0x70000 ≤ off ∧ off < 0x70800 then msixRead s 0 (off - 0x70000)
  else if 0x78000 ≤ off ∧ off < 0x78010 then pbaRead s 0 (off - 0x78000)
  else 0

/-- A read of BAR0 of a function, or of BAR4 of a VF from offset 0x10000 on; none: it completes as Unsupported Request. -/
def regRead (s : State) (fn off size : Nat) : Option W32 :=
  if !s.pcie.linkUp ∨ size ≠ 4 ∨ off % 4 ≠ 0 ∨ 62 < fn then none
  else some (
    if fn = 0 then pfRead s off
    else if off < 0x4000 then chanRead s (64 + 4 * (fn - 1) + off / 2 ^ 12) (off % 2 ^ 12)
    else if 0x10000 ≤ off ∧ off < 0x10080 then msixRead s fn (off - 0x10000)
    else if 0x11000 ≤ off ∧ off < 0x11004 then pbaRead s fn (off - 0x11000)
    else 0)

/-- A word that the I3C target 0x3B returns, k words on from its address (R514). -/
def tlmI3cRead (s : State) (k : Nat) : W32 := tabGet s.tlm.frame (s.tlm.i3c / 4 + k) 0

/-- A word that a private read of the I3C target 0x3A returns, k words on from the address last written (R396). -/
def mgmtI3cRead (s : State) (k : Nat) : W32 :=
  let a := (s.mgmtAddr + 4 * k) % 2 ^ 16
  chanRead s (mgmtChan a) (a % 2 ^ 12)

/-- How a read of BAR2 ends. -/
inductive BarRead where
  /-- Unsupported Request: the window is not mapped. -/
  | unsupported
  /-- Not yet: no read passes a write that the host made before it (R383). -/
  | waits
  | data (l : List Byte)
deriving DecidableEq, Repr

/-- A read of BAR2. -/
def bar2Read (s : State) (off n : Nat) : BarRead :=
  match ctxOf s (BitVec.ofNat 8 (off / 2 ^ 20)) with
  | some x =>
    if !s.pcie.linkUp || !x.window then .unsupported
    else if s.ring.any hostWrite then .waits
    else .data (viewBytes s x (off % 2 ^ 20) n)
  | none => .unsupported

end Sys2Proof.Machine
end

