-- ==== Sys2Proof/WellFormed.lean ====
section
/-! DEFINITION. Which commands name things the engine has: the operand ranges of each row. The hardware cannot spell a
command outside them (a port die 64 does not exist, nor a bit 6 of a six-bit field), so what `exec` answers on one says nothing of it. -/
namespace Sys2Proof

/-- A tile of the grid, as y * 256 + x (R206, R237). -/
def tileOk (i : Nat) : Bool := decide (i < 65536)
/-- One of 64 port dies, or 64 Ethernet ports (R346, R373). -/
def portOk (p : Nat) : Bool := decide (p < 64)
/-- One of 24 Saddle dies, each with one HBM stack. -/
def saddleOk (k : Nat) : Bool := decide (k < 24)
/-- One of eight spurs (R346). -/
def spurOk (k : Nat) : Bool := decide (k < 8)
/-- A mailbox channel: 64 of the PF, 4 of each of 62 VFs, 16 secure (R379, R395). -/
def chanOk (c : Nat) : Bool := decide (c < 328)
/-- One of four stewards (R385). -/
def stewardOk (k : Nat) : Bool := decide (k < 4)
/-- A PCI Express function: the PF or one of 62 VFs (R378). -/
def fnOk (f : Nat) : Bool := decide (f ≤ 62)
/-- A task slot of a tile (R62). -/
def slotOk (n : Nat) : Bool := decide (n < 64)
/-- A message priority of the Awn network (R207). -/
def priOk (p : Nat) : Bool := decide (p < 3)
/-- A lost unit, where one is named, is a shot, a die or a stack. -/
def lostOk (l : List Nat) : Bool := l.all (fun i => decide (i < 192))

/-- Is a command well formed: does every unit, channel and field it names exist? -/
def Instr.wf : Instr → Bool
  | .add o | .sub o | .and o | .or o | .xor o | .shl o | .shr o | .sra o | .mul o | .cmp o | .li o | .lui o | .br o
  | .j o | .call o | .ret o | .lds o | .sts o | .csrr o | .csrw o | .agen o | .ainc o | .cpy o | .send o | .mcast o
  | .recv o | .swread o | .waitt o | .post o | .fence o | .tend o | .yield o | .mma o | .accz o | .accrd o | .accwr o
  | .accsw o | .vld o | .vst o | .vaddF32 o | .vmulF32 o | .vfmaF32 o | .vmax o | .vexp o | .vrcp o | .vrsq o
  | .vderiv o | .vcvt o | .vred o | .viaddW o | .vstat o => tileOk o.tile
  | .cycleLoRead i rd => tileOk i && decide (rd.toNat < 32)
  | .accstatAccess i | .waittSatisfied i | .fenceComplete i | .taskSelect i | .runLimitExpiry i | .meshPacketArrival i
  | .coreAnswerTimeout i | .tileProbeTimeout i | .tileHot i | .tileHotRelease i => tileOk i
  | .recvSatisfied i _ => tileOk i
  | .unitInstructionStart i _ | .unitInstructionComplete i _ | .dispatcherLoad i _ | .waitWatchdogExpiry i _ => tileOk i
  | .completionPost i n | .q2Promotion i n | .ackSend i n => tileOk i && slotOk n
  | .frequencyChange i _ => tileOk i
  | .meshFlitHop i p bad => tileOk i && decide (p < 9) && bad.all (fun g => decide (g < 20))
  | .awnHop i p _ => tileOk i && decide (p < 9)
  | .token i pri | .count i pri | .ack i pri => tileOk i && priOk pri
  | .probe i tag _ => tileOk i && decide (tag < 2 ^ 13)
  | .answer k | .routerAnswer k | .slabScrubComplete k | .completion k | .bucketLanding k | .schedRetryTimer k =>
      saddleOk k
  | .linkSpare i p g _ _ => tileOk i && decide (p < 9) && decide (g < 20)
  | .linkRepairComplete i p g _ | .parityWindowExpiry i p g _ => tileOk i && decide (p < 9) && decide (g < 20)
  | .swreadRequest p | .verdictLine p | .attempt p | .commit p | .chunkAck p | .resend p | .norm p | .clip p
  | .exponentTable p | .exptAck p | .linkRxSignalDetect p | .linkTrained p | .linkTrainingTimeout p | .linkLossOfLock p
  | .linkControlSilenceTimeout p | .linkControlTimer p | .hopReplayTimeout p | .streamCredit p | .recover p
  | .outOfService p | .repairWait p | .resume p | .lldpTransmit p => portOk p
  | .mergeWindowExpiry p _ | .fillLine p _ | .winnowDataFrame p _ | .winnowFrameResendTimeout p _ | .ethData p _
  | .ethAck p _ | .getreq p _ | .reject p _ | .lldpReceive p _ | .ethLinkChange p _ => portOk p
  | .streamSequencerItem k _ | .hbmHot k _ | .hbmVeryHot k _ => saddleOk k
  | .saddleReadRequest k i | .saddleWrite k i | .escalationAppend k i | .healthCombine k i => saddleOk k && decide (i < 8)
  | .hbmReadReturn k _ _ | .clipFactor k _ _ => saddleOk k
  | .ringFlit _ _ | .stepBoundary _ _ | .normPassStart _ _ | .stbyRstRelease _ _ | .doorbellWrite _ _ | .derate _ _ =>
      true
  | .instanceDone _ | .ethAckTimer _ | .ethResendTimeout _ | .xringPoll _ | .stookPart _ | .stookManifestPut _
  | .stookSealPut _ | .doorbellExtend _ | .doorbellNotify _ | .doorbellSchedKick _ | .evtEnWrite _ | .submissionLoad _
  | .cancelComplete _ | .ueReport _ | .replayPlan _ | .taskFault _ | .recoveryImage _ | .inletOvertempTimeout _
  | .flowLowTimeout _ | .powerLimiterWindow _ | .pcieFatal _ | .epochAdvance _ => true
  | .bucketUpdate k _ _ _ => saddleOk k
  | .escalationRequest _ r => tileOk r.tile && decide (r.pass < 2)
  | .pairDeadlineExpiry _ _ _ _ _ => true
  | .linkControlRecord p _ _ => portOk p
  | .spurFrameReceive p f _ => portOk p && decide (f.payload.length ≤ 256)
  | .spurAttach k | .spurDetachDrainTimeout k | .spurRepairTimeout k => spurOk k
  | .neighbourRequest p _ _ _ | .icmpEcho p _ _ _ => portOk p
  | .osfpInsert g _ => decide (g < 8)
  | .osfpRemove g => decide (g < 8)
  | .bar2Write off d _ => !d.isEmpty && decide (off + d.length ≤ 2 ^ 28)
  | .msixUnmask f v => fnOk f && decide (v.val < if f = 0 then 128 else 8)
  | .registerWrite f _ _ _ => fnOk f
  | .vfFlr v => fnOk v && decide (0 < v)
  | .pfFlr | .perstAssert | .perstRelease | .stewardsReady | .wardenWatchdogExpiry | .standbyPowerGood
  | .standbyBrownout | .standbyOvervoltage | .stbyRstAssert | .linkTrainingPhaseEnd | .svnBurn | .mainEnRise
  | .prechargeComplete | .mainEnLow | .eoffNAssert | .intlkOpen | .j1Undervoltage | .j1Overvoltage => true
  | .mbxGo c _ | .graphLoad c _ | .stookRestore c _ => chanOk c
  | .mbxTake c | .mbxTimeout c | .stagedPart c | .hello c | .caps c | .ctxOpen c | .ctxClose c | .sheafBind c
  | .sheafRelease c | .sheafCotenant c | .graphSubmit c | .graphCancel c | .graphUnload c | .bucketPlan c
  | .bucketPlanClear c | .peerTableEngine c | .peerTableContext c | .stookTake c | .stookVerify c | .fieldTest c
  | .powerPolicy c | .fallowSheaf c | .fallowRectangle c | .attest c | .fwUpdate c | .fwUpdateDbgclose c | .logRead c
  | .nuarnLoad c => chanOk c
  | .mgmtUdpRequest _ a _ _ => decide (a < 2 ^ 16)
  | .fieldTestStart h => decide (h < 256)
  | .fieldTestComplete h _ ts => decide (h < 256) && ts.all tileOk
  | .stewardHeartbeatTimeout k | .stewardRestartComplete k | .stewardIdleTimeout k | .stewardWake k => stewardOk k
  | .cairnAccess k _ _ _ => stewardOk k
  | .remapDone l _ => lostOk l
  | .waferMappingComplete l | .hbmTrainingComplete l => lostOk l
  | .mainPowerupStart _ _ _ _ => true
  | .thermalTrip t _ _ => decide (1 ≤ t ∧ t ≤ 5)
  | .dieHot k _ => decide (k < 96)
  | .loopPeriod p => p.warm.all (fun k => decide (k < 64)) && p.cool.all (fun k => decide (k < 64))
  | .telemetryFrame t => decide (t.rails.length = 6) && t.ces.all (fun p => decide (p.1 < 12))
  | .tlmI3cAddressWrite a _ | .mgmtI3cWrite a _ => decide (a < 2 ^ 16)
  | .configurationRequest q => fnOk q.fn
  | .cairnSramUe k => decide (k < 5)

end Sys2Proof
end

