-- ==== Sys2Proof/Safety.lean ====
section
/-! DEFINITION. What counts as a safe run, in the terms the statements use: the commands that wait are well formed, the memories keep
their canonical form, and the module's trust is in order. -/
namespace Sys2Proof.Machine

/-- The fuse shadow holds no more than the fuses; while the standby reset holds nothing runs and the debug port is closed; where it is open
the strap allows it and the shadow's DBGDIS is clear; the flash devices keep their canonical form. -/
structure TrustInv (s : State) : Prop where
  dbgdis : s.shadow.dbgdis = true → s.fuses.dbgdis = true
  svn : ∀ i, s.shadow.svn.getLsbD i = true → s.fuses.svn.getLsbD i = true
  inReset : s.module.rst = true → s.cairn.maelec = none ∧ s.cairn.debugOpen = false
  debug : s.cairn.debugOpen = true → s.straps.dbg = false ∧ s.shadow.dbgdis = false
  flash : memWf s.flash0 = true ∧ memWf s.flash1 = true

/-- The HBM and both flash devices hold their canonical form: addresses strictly rising, no byte 0 listed. -/
def MemInv (s : State) : Prop := memWf s.hbm = true ∧ memWf s.flash0 = true ∧ memWf s.flash1 = true

/-- A state from which a run is meant: every waiting command names things the engine has, and both invariants hold. -/
structure Safe (s : State) : Prop where
  queue : s.pending.all Instr.wf = true
  memory : MemInv s
  trust : TrustInv s

end Sys2Proof.Machine
end

