-- ==== Sys2Proof/Certificates/Slice0/Obligations.lean ====
section
/-! DEFINITION. The statements for the provers, in the order of the manual's chapters: the queue and the tile first, then the
fabric, memory, graphs, Winnow, links, host, commands, faults and power. Each docstring names the rules it formalises. -/
namespace Sys2Proof.Claim
open Sys2Proof.Machine

/-- The tile of an instruction is up, its scalar pipeline runs the task in slot `k` with registers loaded and nothing
stalling it, the fetch at its PC passes (R37, R81, R90), and the ECC word there holds no error (R56). -/
structure Issues (s : State) (i k : Nat) (sl : Slot) : Prop where
  up : tileUp s i = true
  run : issuer (tileOf s i) = some (k, sl)
  fetch : fetchTrap (tileOf s i) sl (tileOf s i).pc.toNat = none
  soft : (tileOf s i).pc.toNat / 8 ∉ (tileOf s i).soft
  poison : (tileOf s i).pc.toNat / 8 ∉ (tileOf s i).poison

/-- The word at the PC of the tile is that of the instruction (R82, R83): what the tile fetches next is this command. -/
def Spells (s : State) (o : TInsn) (c : TInsn → Instr) : Prop := encodeInsn (c o) = some (wordAtPc (tileOf s o.tile))

/-- No pending unit instruction still writes one of these scalar registers (R38). -/
def Landed (s : State) (i : Nat) (regs : List Nat) : Prop := ∀ r ∈ regs, r ∉ pendingS (tileOf s i)

/-- S(rd) takes a value and the PC moves to the next instruction (R84's `next`): nothing else of the tile changes. -/
def writeS (t : Tile) (rd : Nat) (v : W32) : Tile := { t with s := tabPut t.s rd 0 v, pc := t.pc + 8 }

/-- A(rd) takes a value and the PC moves to the next instruction. -/
def writeA (t : Tile) (rd : Nat) (v : Addr) : Tile := { t with a := tabPut t.a rd 0 v, pc := t.pc + 8 }

/-- The machine goes on with tile `i` as `t`, and the event records it wrote handed to the log. -/
def goesOn (s : State) (i : Nat) (t : Tile) : Host.Outcome State Fault Refusal := .next (putTile s i t)

/-- Source 2 of ADD to MUL: IMM[31:0] where IMM[33] is 1, else S(rs2) (R100). -/
def source2 (o : TInsn) (t : Tile) : W32 :=
  if o.imm.getLsbD 33 then o.imm.setWidth 32 else tabGet t.s o.rs2.toNat 0

/-- The encodings of ADD to MUL that R84 and R100 allow. -/
def AluForm (o : TInsn) : Prop :=
  o.rd.toNat < 32 ∧ o.rs1.toNat < 32 ∧
    ((o.imm.getLsbD 33 = true ∧ o.imm.getLsbD 32 = false ∧ o.rs2 = 0) ∨ (o.imm = 0 ∧ o.rs2.toNat < 32))

end Sys2Proof.Claim

open Sys2Proof Sys2Proof.Machine Sys2Proof.Claim

/-- A step takes the command at the front of the queue and runs it with the queue's rest. -/
def Obligations.StepRunsFront : Prop :=
  ∀ (c : Instr) (l : List Instr) (s : State), step { s with pending := c :: l } = exec c { s with pending := l }

/-- ADD, SUB, AND, OR, XOR, SHL, SHR, SRA and MUL (R100): where the tile issues the instruction, S(rd) takes the result of the
rule's line modulo 2^32, the PC moves on by 8, and nothing else of the machine changes. -/
def Sys2Proof.Claim.ScalarArithmetic : Prop :=
  ∀ (o : TInsn) (s : State) (k : Nat) (sl : Slot), Issues s o.tile k sl → AluForm o →
    Landed s o.tile [o.rd.toNat, o.rs1.toNat] → (o.imm.getLsbD 33 = false → Landed s o.tile [o.rs2.toNat]) →
    let t := tileOf s o.tile
    let x := tabGet t.s o.rs1.toNat 0
    let y := source2 o t
    let res (v : W32) := goesOn s o.tile (writeS t o.rd.toNat v)
    (Spells s o .add → exec (.add o) s = res (x + y)) ∧ (Spells s o .sub → exec (.sub o) s = res (x - y)) ∧ (Spells s o .and → exec (.and o) s = res (x &&& y)) ∧
    (Spells s o .or → exec (.or o) s = res (x ||| y)) ∧ (Spells s o .xor → exec (.xor o) s = res (x ^^^ y)) ∧
    (Spells s o .shl → exec (.shl o) s = res (x <<< (y.toNat % 32))) ∧ (Spells s o .shr → exec (.shr o) s = res (x >>> (y.toNat % 32))) ∧
    (Spells s o .sra → exec (.sra o) s = res (x.sshiftRight (y.toNat % 32))) ∧ (Spells s o .mul → exec (.mul o) s = res (x * y))

/-- CMP, LI and LUI (R100): CMP writes 1 where the condition holds, else 0; LI writes IMM[31:0], zero-extended into an address
register; LUI writes the upper 16 bits of a scalar register or bits [47:32] of an address register and keeps the rest. -/
def Sys2Proof.Claim.CompareAndLoadImmediate : Prop :=
  ∀ (o : TInsn) (s : State) (k : Nat) (sl : Slot), Issues s o.tile k sl →
    let t := tileOf s o.tile
    let x := tabGet t.s o.rs1.toNat 0
    let y := tabGet t.s o.rs2.toNat 0
    let d := tabGet t.s o.rd.toNat 0
    let da := tabGet t.a (o.rd.toNat % 16) 0
    let cond (b : Bool) := goesOn s o.tile (writeS t o.rd.toNat (if b then 1 else 0))
    (o.rd.toNat < 32 → o.rs1.toNat < 32 → o.rs2.toNat < 32 → Landed s o.tile [o.rd.toNat, o.rs1.toNat, o.rs2.toNat] →
      (o.imm = 0 → (Spells s o .cmp → exec (.cmp o) s = cond (x == y))) ∧ (o.imm = 1 → (Spells s o .cmp → exec (.cmp o) s = cond (x != y))) ∧
      (o.imm = 2 → (Spells s o .cmp → exec (.cmp o) s = cond (x.slt y))) ∧ (o.imm = 3 → (Spells s o .cmp → exec (.cmp o) s = cond (!x.slt y))) ∧
      (o.imm = 4 → (Spells s o .cmp → exec (.cmp o) s = cond (x.ult y))) ∧ (o.imm = 5 → (Spells s o .cmp → exec (.cmp o) s = cond (!x.ult y)))) ∧
    (o.rs1 = 0 → o.rs2 = 0 → o.rd.toNat < 32 → Landed s o.tile [o.rd.toNat] →
      (o.imm.toNat < 2 ^ 32 → (Spells s o .li → exec (.li o) s = goesOn s o.tile (writeS t o.rd.toNat (o.imm.setWidth 32)))) ∧
      (o.imm.toNat < 2 ^ 16 → (Spells s o .lui → exec (.lui o) s = goesOn s o.tile (writeS t o.rd.toNat (o.imm.setWidth 16 ++ d.setWidth 16))))) ∧
    (o.rs1 = 0 → o.rs2 = 0 → 32 ≤ o.rd.toNat → o.rd.toNat < 48 →
      (o.imm.toNat < 2 ^ 32 → (Spells s o .li → exec (.li o) s = goesOn s o.tile (writeA t (o.rd.toNat % 16) (o.imm.setWidth 48)))) ∧
      (o.imm.toNat < 2 ^ 16 → (Spells s o .lui → exec (.lui o) s = goesOn s o.tile (writeA t (o.rd.toNat % 16) (o.imm.setWidth 16 ++ da.setWidth 32)))))

namespace Sys2Proof.Claim
open Sys2Proof.Machine

/-- A branch target that the fetch accepts: a multiple of 8 inside SRAM and inside a window with X (R90, R101). -/
def LegalTarget (sl : Slot) (tg : BitVec 18) : Prop :=
  tg.toNat % 8 = 0 ∧ tg.toNat + 8 ≤ 0x30000 ∧ inWindow sl.task.wins .x tg.toNat 8 = true

/-- PC + 8 * sext(imm[19:0]) modulo 2^18 (R101). -/
def relative (o : TInsn) (t : Tile) : BitVec 18 := t.pc + 8 * (o.imm.setWidth 20).signExtend 18

/-- The offset A(rs1) + sext(imm[17:0]) modulo 2^44 (R102). -/
def wordOffset (o : TInsn) (t : Tile) : Nat :=
  ((tabGet t.a (o.rs1.toNat % 16) 0).setWidth 44 + (o.imm.setWidth 18).signExtend 44 : BitVec 44).toNat

/-- A task may access the 32-bit word at a local offset: SPACE 0x0, aligned, in a window with the permission, in a bank that its
role owns (R58, R81, R102). -/
def WordOk (t : Tile) (sl : Slot) (o : TInsn) (p : Perm) : Prop :=
  (tabGet t.a (o.rs1.toNat % 16) 0).toNat < 2 ^ 44 ∧ wordOffset o t < 0x30000 ∧ wordOffset o t % 4 = 0 ∧
    inWindow sl.task.wins p (wordOffset o t) 4 = true ∧ banksOwned t sl.task.sec [⟨wordOffset o t, 4⟩] = true

/-- The ECC word at an offset holds no error (R56). -/
def CleanWord (t : Tile) (a : Nat) : Prop := a / 8 ∉ t.soft ∧ a / 8 ∉ t.poison

/-- The bytes at four consecutive offsets, little-endian. -/
def wordAt (t : Tile) (a : Nat) : W32 :=
  memRd t.sram (a + 3) ++ memRd t.sram (a + 2) ++ memRd t.sram (a + 1) ++ memRd t.sram a

end Sys2Proof.Claim

/-- BR, J, CALL and RET (R101), to targets that a fetch accepts: the PC takes the target, CALL writes PC + 8 to s31 first, a BR not
taken moves on by 8. -/
def Sys2Proof.Claim.Branches : Prop :=
  ∀ (o : TInsn) (s : State) (k : Nat) (sl : Slot), Issues s o.tile k sl →
    let t := tileOf s o.tile
    let goTo (tg : BitVec 18) := goesOn s o.tile { t with pc := tg }
    let taken := (tabGet t.s o.rs1.toNat 0 != 0) == o.imm.getLsbD 33
    let reg : BitVec 18 := (tabGet t.s o.rs1.toNat 0).setWidth 18
    let ret : BitVec 18 := (tabGet t.s 31 0).setWidth 18
    (o.rd = 0 → o.rs1.toNat < 32 → o.rs2 = 0 → bits o.imm.toNat 32 20 = 0 → Landed s o.tile [o.rs1.toNat] →
      (taken = false → (Spells s o .br → exec (.br o) s = goTo (t.pc + 8))) ∧
      (taken = true → LegalTarget sl (relative o t) → (Spells s o .br → exec (.br o) s = goTo (relative o t)))) ∧
    (o.rd = 0 → o.rs1.toNat < 32 → o.rs2 = 0 → o.imm.getLsbD 33 = false → bits o.imm.toNat 31 20 = 0 →
      (o.imm.getLsbD 32 = false → LegalTarget sl (relative o t) → (Spells s o .j → exec (.j o) s = goTo (relative o t))) ∧
      (o.imm.getLsbD 32 = true → Landed s o.tile [o.rs1.toNat] → LegalTarget sl reg → (Spells s o .j → exec (.j o) s = goTo reg))) ∧
    (o.rd = 0 → o.rs1 = 0 → o.rs2 = 0 → o.imm.toNat < 2 ^ 20 → Landed s o.tile [31] → LegalTarget sl (relative o t) →
      (Spells s o .call → exec (.call o) s = goesOn s o.tile { t with s := tabPut t.s 31 0 ((t.pc + 8).setWidth 32), pc := relative o t })) ∧
    (o.rd = 0 → o.rs1 = 0 → o.rs2 = 0 → o.imm = 0 → Landed s o.tile [31] → LegalTarget sl ret →
      (Spells s o .ret → exec (.ret o) s = goTo ret))

/-- A jump, a taken branch or a return whose target is no multiple of 8 or lies in no window with X raises the SRAM window trap
(0x01) with the PC of the branch and unit 0 (R101). -/
def Sys2Proof.Claim.BranchTargetTraps : Prop :=
  ∀ (o : TInsn) (s : State) (k : Nat) (sl : Slot), Issues s o.tile k sl →
    let t := tileOf s o.tile
    let trap := goesOn s o.tile (trapSlot k 1 t.pc 0 t)
    let ret : BitVec 18 := (tabGet t.s 31 0).setWidth 18
    o.rd = 0 → o.rs2 = 0 →
    (o.rs1.toNat < 32 → o.imm.toNat < 2 ^ 20 → ¬ LegalTarget sl (relative o t) → (Spells s o .j → exec (.j o) s = trap)) ∧
    (o.rs1.toNat < 32 → o.imm.toNat < 2 ^ 20 → Landed s o.tile [o.rs1.toNat] → tabGet t.s o.rs1.toNat 0 = 0 →
      ¬ LegalTarget sl (relative o t) → (Spells s o .br → exec (.br o) s = trap)) ∧
    (o.rs1 = 0 → o.imm = 0 → Landed s o.tile [31] → ¬ LegalTarget sl ret → (Spells s o .ret → exec (.ret o) s = trap))

/-- The fetch of every instruction (R81, R84, R90, R91): a PC that is no multiple of 8 or lies in no window with X, and one in a bank
of another role, trap with unit 0 whatever instruction the command names; so does a word whose MAJOR and MINOR are not assigned, as an
illegal instruction (0x07). -/
def Sys2Proof.Claim.FetchChecks : Prop :=
  ∀ (o : TInsn) (major : Nat) (ins : TInsn → Instr) (s : State) (k : Nat) (sl : Slot), ins ∈ majorOps major →
    tileUp s o.tile = true → issuer (tileOf s o.tile) = some (k, sl) →
    let t := tileOf s o.tile
    let a := t.pc.toNat
    let trap (code : Nat) := goesOn s o.tile (trapSlot k code t.pc 0 t)
    ((a % 8 ≠ 0 ∨ inWindow sl.task.wins .x a 8 = false) → exec (ins o) s = trap 1) ∧
    (a % 8 = 0 → a + 8 ≤ 0x30000 → inWindow sl.task.wins .x a 8 = true → banksOwned t sl.task.sec [⟨a, 8⟩] = false →
      exec (ins o) s = trap 6) ∧
    (Issues s o.tile k sl → assigned (wordAtPc t) = false → exec (ins o) s = trap 7)

/-- The instruction word (R82, R83, R117): MAJOR, MINOR, RD, RS1, RS2 and IMM stand at bits 63, 57, 51, 45, 39 and 33 downward; MAJOR and
MINOR pick the instruction from its group; and the word of every instruction decodes to that instruction with every operand. -/
def Sys2Proof.Claim.InstructionWords : Prop :=
  ∀ (o : TInsn) (major minor : Nat) (ins : TInsn → Instr), (majorOps major)[minor]? = some ins →
    ∃ w : BitVec 64, encodeInsn (ins o) = some w ∧ decodeWord o.tile w = some (ins o) ∧ assigned w = true ∧
      w.toNat = 2 ^ 58 * major + 2 ^ 52 * minor + 2 ^ 46 * o.rd.toNat + 2 ^ 40 * o.rs1.toNat + 2 ^ 34 * o.rs2.toNat + o.imm.toNat

/-- BR, J, CALL and RET, to legal targets and to others (R101), and the fetch and the words that every instruction shares: the four parts
above. -/
def Obligations.BranchInstructions : Prop := Branches ∧ BranchTargetTraps ∧ FetchChecks ∧ InstructionWords

/-- LDS and STS (R102): LDS loads the little-endian word at A(rs1) + sext(imm[17:0]) into S(rd); STS stores S(rs2) there, changing
those four bytes of the tile's SRAM and no other. Both move the PC on and change nothing else. -/
def Obligations.LoadStoreWord : Prop :=
  ∀ (o : TInsn) (s : State) (k : Nat) (sl : Slot), Issues s o.tile k sl →
    let t := tileOf s o.tile
    let a := wordOffset o t
    32 ≤ o.rs1.toNat → o.rs1.toNat < 48 → o.imm.toNat < 2 ^ 18 → CleanWord t a →
    (o.rd.toNat < 32 → o.rs2 = 0 → Landed s o.tile [o.rd.toNat] → WordOk t sl o .r →
      (∀ p ∈ pendingOps t, conflicts [⟨a, 4⟩] [] p = false) →
      (Spells s o .lds → exec (.lds o) s = goesOn s o.tile (writeS t o.rd.toNat (wordAt t a)))) ∧
    (o.rd = 0 → o.rs2.toNat < 32 → Landed s o.tile [o.rs2.toNat] → WordOk t sl o .w →
      (∀ p ∈ pendingOps t, conflicts [] [⟨a, 4⟩] p = false) → Spells s o .sts →
      ∃ m : Mem, exec (.sts o) s = goesOn s o.tile { t with sram := m, pc := t.pc + 8 } ∧
        (memWf t.sram = true → memWf m = true ∧
          (∀ i, i < 4 → memRd m (a + i) = ((tabGet t.s o.rs2.toNat 0) >>> (8 * i)).setWidth 8)) ∧
        (∀ b, b < a ∨ a + 4 ≤ b → memRd m b = memRd t.sram b))

/-- The tile control and status registers (R73 to R77): CSRR gives each one's fields; a read of CYCLE_LO also latches bits [47:32]
(R36); a read of ACCSTAT acts at once where no array instruction is outstanding (R120). -/
def Sys2Proof.Claim.CsrReads : Prop :=
  ∀ (o : TInsn) (s : State) (k : Nat) (sl : Slot), Issues s o.tile k sl →
    o.rd.toNat < 32 → o.rs1 = 0 → o.rs2 = 0 → Landed s o.tile [o.rd.toNat] →
    let t := tileOf s o.tile
    let e := envOf s o.tile
    let reads (n : BitVec 34) (v : Nat) :=
      o.imm = n → Spells s o .csrr → exec (.csrr o) s = goesOn s o.tile (writeS t o.rd.toNat (BitVec.ofNat 32 v))
    reads 0x001 (ixY o.tile * 256 + ixX o.tile) ∧
    reads 0x002 (if t.inSheaf then t.orgY * 256 + t.orgX else 0) ∧
    reads 0x003 (if t.inSheaf then t.dimH * 65536 + t.dimW else 0) ∧
    reads 0x004 (sl.task.ctx.toNat * 256 + sl.task.queue * 2 + (if sl.task.sec then 1 else 0)) ∧
    reads 0x011 t.cycHi ∧ reads 0x020 t.runlen ∧
    (arrayIdle t = true → reads 0x021 (accstat t)) ∧
    reads 0x030 ((t.sramOwn.map (fun p => p.2 * 4 ^ p.1)).sum) ∧
    reads 0x031 (bitSum t.sramNf * 65536 + bitSum t.sramSat) ∧ reads 0x032 t.eccCnt ∧
    (o.imm = 0x010 → Spells s o .csrr → exec (.csrr o) s = exec (.cycleLoRead o.tile o.rd) s ∧
      exec (.cycleLoRead o.tile o.rd) s = goesOn s o.tile
        { writeS t o.rd.toNat (BitVec.ofNat 32 (cycleNow e t % 2 ^ 32)) with cycHi := cycleNow e t / 2 ^ 32 })

/-- CSRW (R7, R73 to R77): RUNLEN takes the written bits, a 1 clears the flags of ACCSTAT and SRAMSTAT, and the read-only registers
keep their values; an access of ACCSTAT behind outstanding array instructions waits, and ACCSTAT_ACCESS completes it once the array
is idle (R120). -/
def Sys2Proof.Claim.CsrWrites : Prop :=
  (∀ (o : TInsn) (s : State) (k : Nat) (sl : Slot), Issues s o.tile k sl →
    o.rd = 0 → o.rs1.toNat < 32 → o.rs2 = 0 → Landed s o.tile [o.rs1.toNat] →
      let t := tileOf s o.tile
      let v := tabGet t.s o.rs1.toNat 0
      let done (t' : Tile) := goesOn s o.tile { t' with pc := t.pc + 8 }
      (o.imm = 0x020 → (Spells s o .csrw → exec (.csrw o) s = done { t with runlen := v.toNat % 256 })) ∧
      (o.imm = 0x031 → (Spells s o .csrw → exec (.csrw o) s = done { t with
        sramSat := t.sramSat.filter (fun b => !v.getLsbD b), sramNf := t.sramNf.filter (fun b => !v.getLsbD (16 + b)) })) ∧
      (o.imm = 0x021 → arrayIdle t = true → (Spells s o .csrw → exec (.csrw o) s = done { t with
        accA := { t.accA with sat := t.accA.sat && !v.getLsbD 4, nf := t.accA.nf && !v.getLsbD 5 }
        accB := { t.accB with sat := t.accB.sat && !v.getLsbD 6, nf := t.accB.nf && !v.getLsbD 7 } })) ∧
      (o.imm = 0x021 → arrayIdle t = false → (Spells s o .csrw → exec (.csrw o) s = done { t with stall := some (.accWrite v) })) ∧
      (o.imm ∈ [0x001, 0x002, 0x003, 0x004, 0x010, 0x011, 0x030, 0x032] → (Spells s o .csrw → exec (.csrw o) s = done t))) ∧
  (∀ (s' : State) (i : Nat) (rd : Nat) (w : W32), tileUp s' i = true → arrayIdle (tileOf s' i) = true →
      ((tileOf s' i).stall = some (.accRead rd) → exec (.accstatAccess i) s' =
        goesOn s' i { tileOf s' i with s := tabPut (tileOf s' i).s rd 0 (BitVec.ofNat 32 (accstat (tileOf s' i))), stall := none }) ∧
      ((tileOf s' i).stall = some (.accWrite w) → exec (.accstatAccess i) s' =
        goesOn s' i { accstatWrite w.toNat (tileOf s' i) with stall := none }))

/-- CSRR and CSRW (R73 to R77, R103): the two parts above. -/
def Obligations.TileCsrs : Prop := CsrReads ∧ CsrWrites

/-- AGEN and AINC (R103): AGEN keeps the SPACE of A(rs1) and adds S(rs2) << SCALE and a 30-bit signed offset modulo 2^44; AINC adds a
24-bit signed step to the low w bits of the offset of A(rd), w being 44 for WRAP 0, and keeps the rest. -/
def Sys2Proof.Claim.AddressArithmetic : Prop :=
  ∀ (o : TInsn) (s : State) (k : Nat) (sl : Slot), Issues s o.tile k sl → 32 ≤ o.rd.toNat → o.rd.toNat < 48 →
    let t := tileOf s o.tile
    let a := tabGet t.a (o.rs1.toNat % 16) 0
    let x := tabGet t.s o.rs2.toNat 0
    let d := tabGet t.a (o.rd.toNat % 16) 0
    (32 ≤ o.rs1.toNat → o.rs1.toNat < 48 → o.rs2.toNat < 32 → Landed s o.tile [o.rs2.toNat] →
      (Spells s o .agen → exec (.agen o) s = goesOn s o.tile (writeA t (o.rd.toNat % 16)
        (a.extractLsb' 44 4 ++ (a.setWidth 44 + (x.setWidth 44 <<< (o.imm.extractLsb' 30 4).toNat)
          + (o.imm.setWidth 30).signExtend 44 : BitVec 44))))) ∧
    (o.rs1 = 0 → o.rs2 = 0 → (o.imm.extractLsb' 28 6).toNat ≤ 44 → o.imm.extractLsb' 24 4 = 0 → Spells s o .ainc →
      let w := if o.imm.extractLsb' 28 6 = 0 then 44 else (o.imm.extractLsb' 28 6).toNat
      ∃ v : Addr, exec (.ainc o) s = goesOn s o.tile (writeA t (o.rd.toNat % 16) v) ∧
        v.toNat / 2 ^ w = d.toNat / 2 ^ w ∧
        (((v.toNat % 2 ^ w : Nat) : Int) - (d.toNat + (o.imm.setWidth 24).toInt)) % 2 ^ w = 0)

/-- The scalar instructions on registers (R100, R104): the three parts above. -/
def Obligations.ScalarInstructions : Prop := ScalarArithmetic ∧ CompareAndLoadImmediate ∧ AddressArithmetic

namespace Sys2Proof.Claim
open Sys2Proof.Machine

/-- A unit instruction as it enters its queue at issue: its place in program order, PC, task, ranges and register writes. -/
def issued (t : Tile) (k : Nat) (sl : Slot) (kind : UKind) (rds wrs : List Rng) (entries : Nat) (sregs : List Nat) : UOp :=
  ⟨t.opNo, t.pc, k, sl.loadNo, sl.task.sec, sl.task.ctx, sl.task.step, kind, rds, wrs, entries, sregs, 0⟩

/-- The scoreboard has this many free range entries (R39). -/
def Entries (t : Tile) (n : Nat) : Prop := entriesUsed t + n ≤ 16

/-- The tile after a unit instruction has entered the array, vector or copy queue (R37): the PC has moved on, nothing else changes. -/
def inArray (t : Tile) (op : UOp) : Tile := { t with opNo := t.opNo + 1, arrQ := t.arrQ ++ [op], pc := t.pc + 8 }
def inVector (t : Tile) (op : UOp) : Tile := { t with opNo := t.opNo + 1, vecQ := t.vecQ ++ [op], pc := t.pc + 8 }
def inCopy (t : Tile) (op : UOp) : Tile := { t with opNo := t.opNo + 1, cpyQ := t.cpyQ ++ [op], pc := t.pc + 8 }

/-- The value of A(k) and the range of n lines at it. -/
def aReg (t : Tile) (k : BitVec 6) : Nat := (tabGet t.a (k.toNat % 16) 0).toNat
def linesAt (a n : Nat) : List Rng := if n = 0 then [] else [⟨a % 2 ^ 44, 64 * n⟩]

def IsA (k : BitVec 6) : Prop := 32 ≤ k.toNat ∧ k.toNat < 48
def IsV (k : BitVec 6) : Prop := 48 ≤ k.toNat
def vNo (k : BitVec 6) : Nat := k.toNat % 16

end Sys2Proof.Claim

/-- MMA, ACCZ, ACCRD, ACCWR and ACCSW at issue (R37, R46, R124 to R130): an instruction that passes its encoding, format and window
checks enters the array queue with its operands, the run length captured for MMA, and the ranges it will read and write. -/
def Obligations.ArrayIssue : Prop :=
  ∀ (o : TInsn) (s : State) (k : Nat) (sl : Slot), Issues s o.tile k sl →
    let t := tileOf s o.tile
    let i := o.imm.toNat
    let bank := o.imm.getLsbD 33
    let enters (kind : UKind) (rds wrs : List Rng) (n : Nat) := goesOn s o.tile (inArray t (issued t k sl kind rds wrs n []))
    t.arrQ.length < 4 →
    (∀ (fa fb kb : Nat) (ora orb pair : Bool), bits i 30 27 = fa → bits i 26 23 = fb → bits i 22 16 = kb →
      o.imm.getLsbD 32 = ora → o.imm.getLsbD 31 = orb → o.imm.getLsbD 15 = pair →
      let kk := 32 * (kb + 1)
      o.rd = 0 → IsA o.rs1 → IsA o.rs2 → bits i 14 0 = 0 → (pair = true → bank = false) →
      (1 ≤ fa ∧ fa ≤ 7 ∧ (ora = true → fa ≤ 4)) → (1 ≤ fb ∧ fb ≤ 7 ∧ (orb = true → fb ≤ 4)) →
      chkLocal sl.task.wins .r (aReg t o.rs1) (if ora then 4096 else 64) (operandLines ora fa kk) = none →
      chkLocal sl.task.wins .r (aReg t o.rs2) (if orb then 4096 else 64) (operandLines orb fb kk) = none → Entries t 2 →
      (Spells s o .mma → exec (.mma o) s = enters (.mma bank ora orb fa fb kk pair t.runlen (aReg t o.rs1 % 2 ^ 44) (aReg t o.rs2 % 2 ^ 44))
        [⟨aReg t o.rs1 % 2 ^ 44, 64 * operandLines ora fa kk⟩, ⟨aReg t o.rs2 % 2 ^ 44, 64 * operandLines orb fb kk⟩] [] 2)) ∧
    (o.rd = 0 → o.rs1 = 0 → o.rs2 = 0 → i % 2 ^ 32 = 0 → Entries t 0 →
      (Spells s o .accz → exec (.accz o) s = enters (.accz bank (o.imm.getLsbD 32)) [] [] 0)) ∧
    (∀ fmt rm : Nat, bits i 30 27 = fmt → bits i 26 25 = rm → bits i 24 16 = 0 → IsA o.rd → o.rs1 = 0 → (fmt = 0 ∨ fmt = 0xD → rm = 0) →
      (rm ≠ 2 → o.rs2 = 0) → (rm = 2 → o.rs2.toNat ≤ 29 ∧ Landed s o.tile [o.rs2.toNat, o.rs2.toNat + 1, o.rs2.toNat + 2]) →
      (fmt ≤ 7 ∨ fmt = 0xD ∧ bank = false) → (o.imm.getLsbD 31 = true → fmt = 0) →
      chkLocal sl.task.wins .w (aReg t o.rd) 64 (accLines fmt) = none → Entries t 1 →
      (Spells s o .accrd → exec (.accrd o) s = enters (.accrd bank (o.imm.getLsbD 32) (o.imm.getLsbD 31) fmt rm
          (if rm = 2 then posBlock t o.rs2.toNat (bits i 15 0) else ⟨0, 0, 0, 0⟩) (aReg t o.rd % 2 ^ 44))
        (if o.imm.getLsbD 31 then [⟨aReg t o.rd % 2 ^ 44, 64 * accLines fmt⟩] else [])
        [⟨aReg t o.rd % 2 ^ 44, 64 * accLines fmt⟩] 1)) ∧
    (∀ fmt : Nat, bits i 30 27 = fmt → bits i 32 31 = 0 → bits i 26 0 = 0 → o.rd = 0 → IsA o.rs1 → o.rs2 = 0 →
      (fmt ≤ 2 ∨ fmt = 0xD ∧ bank = false) → chkLocal sl.task.wins .r (aReg t o.rs1) 64 (accLines fmt) = none → Entries t 1 →
      (Spells s o .accwr → exec (.accwr o) s = enters (.accwr bank fmt (aReg t o.rs1 % 2 ^ 44)) [⟨aReg t o.rs1 % 2 ^ 44, 64 * accLines fmt⟩] [] 1)) ∧
    (o.rd = 0 → o.rs1 = 0 → o.rs2 = 0 → o.imm = 0 → Entries t 0 → (Spells s o .accsw → exec (.accsw o) s = enters .accsw [] [] 0))

/-- The vector instructions at issue (R37, R131 to R134, R136 to R140, R145, R146): an instruction that passes its encoding, format
and window checks enters the vector queue with its operands and the scalar register it will write. -/
def Sys2Proof.Claim.VectorIssue : Prop :=
  ∀ (o : TInsn) (s : State) (k : Nat) (sl : Slot), Issues s o.tile k sl →
    let t := tileOf s o.tile
    let i := o.imm.toNat
    let d := vNo o.rd
    let x := vNo o.rs1
    let y := vNo o.rs2
    let enters (kind : UKind) (sregs : List Nat) := goesOn s o.tile (inVector t (issued t k sl kind [] [] 0 sregs))
    t.vecQ.length < 8 → Entries t 0 → IsV o.rs1 →
    (IsV o.rd → IsV o.rs2 → i ∈ [0, 1, 3] → (Spells s o .vaddF32 → exec (.vaddF32 o) s = enters (.vadd d x y i) []) ∧
      (Spells s o .vmulF32 → exec (.vmulF32 o) s = enters (.vmul d x y i) []) ∧ (Spells s o .vfmaF32 → exec (.vfmaF32 o) s = enters (.vfma d x y i) [])) ∧
    (IsV o.rd → IsV o.rs2 → i < 2 → (Spells s o .vmax → exec (.vmax o) s = enters (.vmax d x y (o.imm.getLsbD 0)) [])) ∧
    (IsV o.rd → o.rs2 = 0 → i = 0 → (Spells s o .vexp → exec (.vexp o) s = enters (.vexp d x) []) ∧ (Spells s o .vrcp → exec (.vrcp o) s = enters (.vrcp d x) []) ∧
      (Spells s o .vrsq → exec (.vrsq o) s = enters (.vrsq d x) [])) ∧
    (IsV o.rd → IsV o.rs2 → i < 4 → (Spells s o .vderiv → exec (.vderiv o) s = enters (.vderiv d x y i) [])) ∧
    (o.rd.toNat < 32 → o.rs2 = 0 → i < 3 → Landed s o.tile [o.rd.toNat] →
      (Spells s o .vred → exec (.vred o) s = enters (.vred o.rd.toNat x i) [o.rd.toNat])) ∧
    (IsV o.rd → IsV o.rs2 → i < 2 ^ 8 → bits i 1 0 ≠ 3 → Landed s o.tile [bits i 7 3] →
      (Spells s o .viaddW → exec (.viaddW o) s = enters (.viadd d x y (bits i 1 0) (o.imm.getLsbD 2) (bits i 7 3)) [bits i 7 3])) ∧
    (IsV o.rd → o.rs2 = 0 → i < 2 ^ 9 → bits i 3 0 ≤ 4 →
      (Spells s o .vstat → exec (.vstat o) s = enters (.vstat d x (bits i 3 0) (o.imm.getLsbD 4) (bits i 8 5)) [])) ∧
    (∀ (fd fs rm part sd : Nat) (row : CvtRow), bits i 33 30 = fd → bits i 29 26 = fs → bits i 25 24 = rm → bits i 23 21 = part →
      bits i 20 16 = sd → IsV o.rd → cvtPair fs fd = some row → part ≤ row.maxPart → (row.usesSd = false → sd = 0) →
      (fs ≠ 0 → rm = 0) → (row.n = 32 → if fs = 0 then x % 2 = 0 else d % 2 = 0) → (rm ≠ 2 → o.rs2 = 0) → (rm = 2 → o.rs2.toNat ≤ 29) →
      Landed s o.tile ((if row.usesSd then [sd] else []) ++
        (if rm = 2 then [o.rs2.toNat, o.rs2.toNat + 1, o.rs2.toNat + 2] else [])) →
      Spells s o .vcvt → exec (.vcvt o) s = enters (.vcvt d x fd fs rm part sd (sGet t sd)
        (if rm = 2 then posBlock t o.rs2.toNat (bits i 15 0) else ⟨0, 0, 0, 0⟩)) (if row.usesSd && fs == 0 then [sd] else []))

/-- VLD and VST at issue (R52, R131): a row access of a line that a window grants, and a column read whose lines one bank holds and a
window grants, enter the vector queue with their ranges. -/
def Sys2Proof.Claim.VectorLoadStoreIssue : Prop :=
  ∀ (o : TInsn) (s : State) (k : Nat) (sl : Slot), Issues s o.tile k sl →
    let t := tileOf s o.tile
    let ea := effAddr o t
    let enters (kind : UKind) (rds wrs : List Rng) := goesOn s o.tile (inVector t (issued t k sl kind rds wrs 1 []))
    t.vecQ.length < 8 → Entries t 1 → IsA o.rs1 →
    (IsV o.rd → o.rs2 = 0 → o.imm.toNat < 2 ^ 18 → chkLocal sl.task.wins .r ea 64 1 = none →
      (Spells s o .vld → exec (.vld o) s = enters (.vld (vNo o.rd) false 1 1 (ea % 2 ^ 44)) [⟨ea % 2 ^ 44, 64⟩] [])) ∧
    (∀ es st : Nat, IsV o.rd → o.rs2 = 0 → o.imm.getLsbD 33 = true → bits o.imm.toNat 32 31 = es → bits o.imm.toNat 30 29 = st → es ≠ 3 →
      bits o.imm.toNat 28 18 = 0 → colBad sl.task.wins ea (2 ^ es) (2 ^ st) = none → Spells s o .vld →
      exec (.vld o) s = enters (.vld (vNo o.rd) true (2 ^ es) (2 ^ st) (ea % 2 ^ 44))
        [⟨ea % 2 ^ 44 / 64 * 64, 64 * ((64 / 2 ^ es - 1) * 2 ^ st + 1)⟩] []) ∧
    (o.rd = 0 → IsV o.rs2 → bits o.imm.toNat 32 18 = 0 → chkLocal sl.task.wins .w ea 64 1 = none →
      (Spells s o .vst → exec (.vst o) s = enters (.vst (vNo o.rs2) (o.imm.getLsbD 33) (ea % 2 ^ 44))
        (if o.imm.getLsbD 33 then [⟨ea % 2 ^ 44, 64⟩] else []) [⟨ea % 2 ^ 44, 64⟩]))

/-- The issue of vector instructions: the two parts above. -/
def Obligations.VectorInstructions : Prop := VectorIssue ∧ VectorLoadStoreIssue

/-- CPY, SEND, MCAST, RECV and SWREAD at issue (R37, R104 to R108, R275): an instruction that passes its checks enters the copy queue with
its addresses, its count of lines, its class, format, ADD and step-local TID, and the local ranges the scoreboard covers; a count of 0
covers none. -/
def Obligations.CopyIssue : Prop :=
  ∀ (o : TInsn) (s : State) (k : Nat) (sl : Slot), Issues s o.tile k sl →
    let t := tileOf s o.tile
    let i := o.imm.toNat
    let c := (tabGet t.s o.rs2.toNat 0).toNat
    let n := c % 65536
    let src := aReg t o.rs1
    let dst := aReg t o.rd
    let add := o.imm.getLsbD 29
    let tid := stepTid (o.imm.setWidth 20) sl.task.step
    let enters (kind : UKind) (rds wrs : List Rng) := goesOn s o.tile (inCopy t (issued t k sl kind rds wrs 1 []))
    t.cpyQ.length < 16 → Entries t 1 → IsA o.rd → o.rs2.toNat < 32 → Landed s o.tile [o.rs2.toNat] →
    (∀ cls fmt : Nat, bits i 33 30 = cls → bits i 27 24 = fmt → cls ∈ [0, 4, 5, 8, 9, 0xD] → fmt < 0xE → bits i 23 20 = 0 →
      (add = true → fmt = 0) → IsA o.rs1 →
      ((add = true → n ≠ 0 → spaceOf dst = 0) → cpyAddr (envOf s o.tile) sl src dst n = none → Spells s o .cpy → exec (.cpy o) s =
        enters (.cpy (spaceOf src) (src % 2 ^ 44) (spaceOf dst) (dst % 2 ^ 44) n add cls fmt tid)
          ((if spaceOf src = 0 then linesAt src n else []) ++ (if add ∧ spaceOf dst = 0 then linesAt dst n else []))
          (if spaceOf dst = 0 then linesAt dst n else [])) ∧
      (sendAddr sl t src dst n 0 false = none → Spells s o .send → exec (.send o) s =
        enters (.send (src % 2 ^ 44) (bits dst 39 32) (bits dst 31 24) (dst % 2 ^ 18) n 0 0 add (o.imm.getLsbD 28) cls fmt tid)
          (linesAt src n) []) ∧
      (c < 2 ^ 25 → sendAddr sl t src dst n (bits c 23 16) (bitOf c 24) = none → Spells s o .mcast → exec (.mcast o) s =
        enters (.send (src % 2 ^ 44) (bits dst 39 32) (bits dst 31 24) (dst % 2 ^ 18) n (if bitOf c 24 then 2 else 1)
          (bits c 23 16) add (o.imm.getLsbD 28) cls fmt tid) (linesAt src n) [])) ∧
    (o.rs1 = 0 → i < 2 ^ 20 → chkLocal sl.task.wins .w dst 64 n = none → Spells s o .recv →
      exec (.recv o) s = enters (.recv (dst % 2 ^ 44) n tid) [] (linesAt dst n)) ∧
    (∀ fmt rm kb v0 : Nat, bits i 33 30 = fmt → bits i 28 27 = rm → bits c 22 16 = kb → bits c 28 23 = v0 → 1 ≤ fmt → fmt ≤ 7 → rm ≠ 2 →
      bits i 26 20 = 0 → IsA o.rs1 → c < 2 ^ 29 → n % (kb + 1) = 0 → v0 + n / (kb + 1) ≤ 64 →
      (add = true → kb ≤ 1 ∧ (n / (kb + 1) = 32 ∨ n / (kb + 1) = 64) ∧ v0 = 0) →
      (n ≠ 0 → spaceOf src = 3 ∧ chkStream (envOf s o.tile) sl.task.ctx tid src n = none ∧
        ∀ r ∈ swFootprint n fmt add kb v0, chkLocal sl.task.wins .w (dst + r.1) 64 r.2 = none) → Spells s o .swread →
      exec (.swread o) s = enters (.swread (src % 2 ^ 44) (dst % 2 ^ 44) n fmt add rm kb v0 tid) []
        (if n = 0 then [] else (swFootprint n fmt add kb v0).map (fun r => ⟨dst % 2 ^ 44 + r.1, 64 * r.2⟩)))

namespace Sys2Proof.Claim
open Sys2Proof.Machine

/-- The unit instructions that are queued or started, a waiting RECV apart (R114). -/
def inUnits (t : Tile) : List UOp :=
  t.arrQ ++ t.vecQ ++ t.cpyQ ++ t.prod.toList ++ t.port.toList ++ t.vec.toList ++ t.cpy.toList

/-- The receive counters after n is taken from the one of a key and its late marks cleared; counters at 0 on which nobody waits are
freed (R109, R111). -/
def rxTaken (t : Tile) (c : BitVec 8) (tid : BitVec 20) (n : Nat) : List RxCounter :=
  (t.rx.map (fun r => if r.ctx = c ∧ r.tid = tid then { r with count := r.count - n, late := false, lateWatch := false } else r)).filter
    (fun r => r.count != 0 || r.ovf)

/-- The same without touching the late marks, as when a wait that has already begun is satisfied. -/
def rxSpent (t : Tile) (c : BitVec 8) (tid : BitVec 20) (n : Nat) : List RxCounter :=
  (t.rx.map (fun r => if r.ctx = c ∧ r.tid = tid then { r with count := r.count - n } else r)).filter
    (fun r => r.count != 0 || r.ovf)

/-- A slot in a state, everything else kept. -/
def slotAs (t : Tile) (k : Nat) (sl : Slot) : Tile := { t with slots := tabSet t.slots k sl }

/-- The order in which queues of one role are selected (R67). -/
def queueRank (q : Nat) : Nat := if q = 1 then 0 else if q = 0 then 1 else if q = 3 then 2 else 3

/-- Lane i of a vector register. -/
def lane (v : Line) (i : Nat) : W32 := v.extractLsb' (32 * i) 32

end Sys2Proof.Claim

/-- WAITT, RECV_SATISFIED, WAITT_SATISFIED (R107, R109, R112) and WAIT_WATCHDOG_EXPIRY (R111), on a tile with at most the wait itself
pending: a WAITT whose count is there subtracts it and goes on; one whose counter holds less, or does not exist, stalls with a
counter of its key; the satisfying count is subtracted and the stall or the range entry released; an expired wait raises the
wait-watchdog trap with the PC of its instruction. -/
def Sys2Proof.Claim.ReceiveWaits : Prop :=
  (∀ (o : TInsn) (s : State) (k : Nat) (sl : Slot), Issues s o.tile k sl → (tileOf s o.tile).recvs = [] →
    o.rd = 0 → o.rs1.toNat < 32 → o.rs2 = 0 → o.imm.toNat < 2 ^ 20 → Landed s o.tile [o.rs1.toNat] →
    let t := tileOf s o.tile
    let n := (tabGet t.s o.rs1.toNat 0).toNat % 65536
    let c := sl.task.ctx
    let tid := stepTid (o.imm.setWidth 20) sl.task.step
    (∀ r : RxCounter, rxFind t c tid = some r → r.ovf = false →
      (n ≤ r.count → (Spells s o .waitt → exec (.waitt o) s = goesOn s o.tile { t with rx := rxTaken t c tid n, pc := t.pc + 8 })) ∧
      (r.count < n → (Spells s o .waitt → exec (.waitt o) s = goesOn s o.tile { t with
        rx := t.rx.map (fun x => if x.ctx = c ∧ x.tid = tid then { x with late := false, lateWatch := false } else x)
        stall := some (.waitt tid n true t.pc), pc := t.pc + 8 }))) ∧
    (∀ r : RxCounter, rxFind t c tid = some r → r.ovf = true → (Spells s o .waitt → exec (.waitt o) s = goesOn s o.tile (trapSlot k 3 t.pc 0 t))) ∧
    (rxFind t c tid = none → n = 0 → (Spells s o .waitt → exec (.waitt o) s = goesOn s o.tile { t with pc := t.pc + 8 })) ∧
    (rxFind t c tid = none → 0 < n → t.rx.length < 8 → (Spells s o .waitt → exec (.waitt o) s = goesOn s o.tile { t with
      rx := t.rx.filter (fun r => r.count != 0 || r.ovf) ++ [⟨c, tid, 0, false, false, false⟩]
      stall := some (.waitt tid n true t.pc), pc := t.pc + 8 }))) ∧
  (∀ (s : State) (i k : Nat) (sl : Slot) (tid : BitVec 20) (n : Nat) (pc : BitVec 18) (r : RxCounter), tileUp s i = true →
    let t := tileOf s i
    t.recvs = [] → t.running = some k → tabFind t.slots k = some sl → t.stall = some (.waitt tid n true pc) →
    rxFind t sl.task.ctx tid = some r →
    (n ≤ r.count → exec (.waittSatisfied i) s = goesOn s i { t with rx := rxSpent t sl.task.ctx tid n, stall := none }) ∧
    (r.count < n → exec (.waitWatchdogExpiry i none) s = goesOn s i (trapSlot k 5 pc 0 (rxTimeout sl.task.ctx tid t)))) ∧
  (∀ (s : State) (i : Nat) (w : RecvWait) (r : RxCounter), tileUp s i = true →
    let t := tileOf s i
    t.recvs = [w] → t.stall = none → w.alloc = true → rxFind t w.op.ctx w.tid = some r →
    (w.n ≤ r.count → exec (.recvSatisfied i 0) s = goesOn s i { t with rx := rxSpent t w.op.ctx w.tid w.n, recvs := [] }) ∧
    (r.count < w.n → exec (.waitWatchdogExpiry i (some 0)) s =
      goesOn s i (trapSlot w.op.slot 5 w.op.pc 3 (rxTimeout w.op.ctx w.tid t))))

/-- FENCE and FENCE_COMPLETE (R114, R244): where the effects that IMM[1:0] selects are complete — the task's unit instructions, its
packets' acknowledgements, its lines to HBM — issue goes on; else the task stalls until FENCE_COMPLETE finds them complete. -/
def Sys2Proof.Claim.FenceWaits : Prop :=
  (∀ (o : TInsn) (s : State) (k : Nat) (sl : Slot), Issues s o.tile k sl → o.rd = 0 → o.rs1 = 0 → o.rs2 = 0 → o.imm.toNat < 3 →
    let t := tileOf s o.tile
    let clear := (∀ p ∈ inUnits t, ¬ (p.slot = k ∧ p.load = sl.loadNo)) ∧ (1 ≤ o.imm.toNat → sl.owed = 0 ∧ sl.hbmOwed = 0)
    (clear → (Spells s o .fence → exec (.fence o) s = goesOn s o.tile { t with pc := t.pc + 8 })) ∧
    (¬ clear → (Spells s o .fence → exec (.fence o) s = goesOn s o.tile { t with stall := some (.fence o.imm.toNat t.pc), pc := t.pc + 8 }))) ∧
  (∀ (s : State) (i k mode : Nat) (sl : Slot) (pc : BitVec 18), tileUp s i = true →
    let t := tileOf s i
    t.running = some k → tabFind t.slots k = some sl → t.stall = some (.fence mode pc) → mode < 3 →
    (∀ p ∈ inUnits t, ¬ (p.slot = k ∧ p.load = sl.loadNo)) → (1 ≤ mode → sl.owed = 0 ∧ sl.hbmOwed = 0) →
    exec (.fenceComplete i) s = goesOn s i { t with stall := none })

/-- POST (R113): one data-less message enters the Awn network at priority PRI, TOKEN for TOK = 1 and COUNT for TOK = 0, to the tile
of the sheaf that A(rd) names, with the task's context, its EPOCH and the step-local TID. -/
def Sys2Proof.Claim.PostSends : Prop :=
  ∀ (o : TInsn) (s : State) (k : Nat) (sl : Slot), Issues s o.tile k sl → IsA o.rd → o.rs1 = 0 → o.rs2 = 0 →
    bits o.imm.toNat 33 32 ≠ 3 → bits o.imm.toNat 31 29 = 0 → bits o.imm.toNat 27 20 = 0 →
    let t := tileOf s o.tile
    let a := aReg t o.rd
    chkSheaf t a 0 false = none →
    (Spells s o .post → exec (.post o) s = goesOn s o.tile { injectAwn t
      { dstX := bits a 39 32, dstY := bits a 31 24, epoch := epochOf t sl.task.sec, ctx := sl.task.ctx
        tid := stepTid (o.imm.setWidth 20) sl.task.step, pri := bits o.imm.toNat 33 32, src := o.tile, toSaddle := false
        body := if o.imm.getLsbD 28 then .token else .count } with pc := t.pc + 8 })

/-- WAITT, RECV, FENCE and POST and the events that end their waits: the three parts above. -/
def Obligations.Synchronisation : Prop := ReceiveWaits ∧ FenceWaits ∧ PostSends

/-- TEND, YIELD and TASK_SELECT (R67 to R69, R115): TEND makes the slot Draining, YIELD makes it Ready again with PC, s0 to s7 and a0 to
a3 saved, and the dispatcher selects; a task selected for the first time starts at its code entry with its arguments in s0 to s7 and
every other scalar register 0, and the vector registers of the same context kept. -/
def Sys2Proof.Claim.EndYieldSelect : Prop :=
  (∀ (o : TInsn) (s : State) (k : Nat) (sl : Slot), Issues s o.tile k sl → o.rd = 0 → o.rs1 = 0 → o.rs2 = 0 → o.imm = 0 →
    let t := tileOf s o.tile
    ((Spells s o .tend → exec (.tend o) s = goesOn s o.tile (selectNext { slotAs t k { sl with st := .draining } with running := none }))) ∧
    (Landed s o.tile (List.range 8) → sl.cancelled = false →
      (Spells s o .yield → exec (.yield o) s = goesOn s o.tile (selectNext { slotAs t k { sl with st := .ready, save := some ⟨t.pc + 8,
        (List.range 8).map (fun i => tabGet t.s i 0), (List.range 4).map (fun i => tabGet t.a i 0), 0⟩ } with running := none })))) ∧
  (∀ (s : State) (i k : Nat) (sl : Slot), tileUp s i = true →
    let t := tileOf s i
    t.power = .run → t.running = none → pickSlot t = some (k, sl) → sl.save = none → pendingS t = [] →
    t.prevCtx = some sl.task.ctx → sl.task.args.length = 8 → sl.task.bases.length = 4 →
    ∃ t' : Tile, exec (.taskSelect i) s = goesOn s i t' ∧ t'.running = some k ∧ t'.pc = sl.task.entry ∧ t'.pendLoad = none ∧
      (tabFind t'.slots k).map (·.st) = some .running ∧ t'.v = t.v ∧ t'.sram = t.sram ∧
      (∀ j, j < 8 → some (tabGet t'.s j 0) = sl.task.args[j]?) ∧ (∀ j, 8 ≤ j → tabGet t'.s j 0 = 0) ∧
      (∀ j, j < 4 → some (tabGet t'.a j 0) = sl.task.bases[j]?) ∧ (∀ j, 4 ≤ j → tabGet t'.a j 0 = 0))

/-- The selection order (R67), where no Q2 slot is promoted: the slot selected is Ready; no primary slot is Ready if it is secondary; no
slot of its role waits in a queue that goes before; none of its role and queue was loaded earlier. -/
def Sys2Proof.Claim.SelectionOrder : Prop :=
  ∀ (t : Tile) (k : Nat) (sl : Slot), (∀ p ∈ t.slots, p.2.promo = none ∧ p.2.task.queue < 4) → pickSlot t = some (k, sl) →
    (k, sl) ∈ t.slots ∧ sl.st = .ready ∧
    ∀ p ∈ t.slots, p.2.st = .ready →
      (sl.task.sec = true → p.2.task.sec = true) ∧
      (p.2.task.sec = sl.task.sec → queueRank sl.task.queue ≤ queueRank p.2.task.queue) ∧
      (p.2.task.sec = sl.task.sec → p.2.task.queue = sl.task.queue → sl.loadNo ≤ p.2.loadNo)

/-- A trap (R92): the slot becomes Faulted with the trap code, the PC and the unit; its unit instructions that have not begun are
discarded and those that have begun stay; no SRAM byte, accumulator or owner tag changes. -/
def Sys2Proof.Claim.TrapFaultsSlot : Prop :=
  ∀ (t : Tile) (k code unit : Nat) (pc : BitVec 18) (sl : Slot), tabFind t.slots k = some sl → (∀ p ∈ t.slots, p.1 = k → p.2 = sl) →
    sl.st ≠ .faulted →
    let t' := trapSlot k code pc unit t
    (tabFind t'.slots k).map (fun x => (x.st, x.trap, x.task)) = some (SlotSt.faulted, some ⟨code, pc, unit⟩, sl.task) ∧
    t'.arrQ = t.arrQ.filter (fun o => o.slot != k) ∧ t'.vecQ = t.vecQ.filter (fun o => o.slot != k) ∧
    t'.cpyQ = t.cpyQ.filter (fun o => o.slot != k) ∧ t'.prod = t.prod ∧ t'.port = t.port ∧ t'.vec = t.vec ∧ t'.cpy = t.cpy ∧
    t'.sram = t.sram ∧ t'.accA = t.accA ∧ t'.accB = t.accB ∧ t'.sramOwn = t.sramOwn ∧ (t.running ≠ some k → t'.running = t.running)

/-- How a task ends, yields, is selected and traps: the three parts above. -/
def Obligations.TaskSwitches : Prop := EndYieldSelect ∧ SelectionOrder ∧ TrapFaultsSlot

/-- UNIT_INSTRUCTION_START (R37, R58, R118, R119): the head of the vector or array queue starts where its engine is free and the
scoreboard lets it; one whose ranges lie in a bank of another role raises the ownership trap with its own PC; ACCZ claims its bank
for its role, and an MMA on a bank its role does not own traps. -/
def Obligations.UnitStarts : Prop :=
  ∀ (s : State) (i : Nat) (op : UOp) (rest : List UOp), tileUp s i = true →
    let t := tileOf s i
    (t.vecQ = op :: rest → t.vec = none → rangesClear t op = true →
      (banksOwned t op.sec (op.rds ++ op.wrs) = true →
        exec (.unitInstructionStart i .vector) s = goesOn s i { t with vecQ := rest, vec := some op }) ∧
      (banksOwned t op.sec (op.rds ++ op.wrs) = false →
        exec (.unitInstructionStart i .vector) s = goesOn s i (trapSlot op.slot 6 op.pc 2 { t with vecQ := rest }))) ∧
    (t.arrQ = op :: rest → t.prod = none → t.port = none → rangesClear t op = true →
      (op.kind = .accz false false → op.rds = [] → op.wrs = [] →
        (t.accA.own = 0 ∨ t.accA.own = roleTag op.sec) → exec (.unitInstructionStart i .array) s =
          goesOn s i { t with arrQ := rest, port := some op, accA := { t.accA with own := roleTag op.sec } }) ∧
      (∀ fa fb kk rl a b : Nat, ∀ ora orb : Bool, op.kind = .mma false ora orb fa fb kk false rl a b →
        (t.accA.own = roleTag op.sec → banksOwned t op.sec (op.rds ++ op.wrs) = true →
          exec (.unitInstructionStart i .array) s = goesOn s i { t with arrQ := rest, prod := some op }) ∧
        (t.accA.own ≠ roleTag op.sec →
          exec (.unitInstructionStart i .array) s = goesOn s i (trapSlot op.slot 6 op.pc 1 { t with arrQ := rest }))))

/-- UNIT_INSTRUCTION_COMPLETE (R70): the result of a vector instruction lane by lane — VADD.F32, VMUL.F32 and VFMA.F32 the exact result
rounded once (R132), VRED the sum of the lanes modulo 2^32 (R134) — and of ACCZ and ACCSW (R127,
R130). Nothing else of the tile changes. -/
def Sys2Proof.Claim.UnitResults : Prop :=
  ∀ (s : State) (i : Nat) (op : UOp), tileUp s i = true → (tileOf s i).pendLoad = none →
    let t := tileOf s i
    let vr (n : Nat) : Line := tabGet t.v n 0
    let lanesOf (d : Nat) (f : Nat → W32) := ∃ v : Line, exec (.unitInstructionComplete i .vector) s =
      goesOn s i { t with vec := none, v := tabPut t.v d 0 v } ∧ ∀ j, j < 16 → lane v j = f j
    let word (n : Nat) : W32 := BitVec.ofNat 32 n
    (t.vec = some op →
      (∀ d a b rm : Nat, op.kind = .vadd d a b rm →
        lanesOf d (fun j => word (rmRound fmtFP32 rm 0 (fvAdd (f32 (lane (vr a) j).toNat) (f32 (lane (vr b) j).toNat))))) ∧
      (∀ d a b rm : Nat, op.kind = .vmul d a b rm →
        lanesOf d (fun j => word (rmRound fmtFP32 rm 0 (fvMul (f32 (lane (vr a) j).toNat) (f32 (lane (vr b) j).toNat))))) ∧
      (∀ d a b rm : Nat, op.kind = .vfma d a b rm →
        lanesOf d (fun j => word (rmRound fmtFP32 rm 0
          (fvAdd (fvMul (f32 (lane (vr a) j).toNat) (f32 (lane (vr b) j).toNat)) (f32 (lane (vr d) j).toNat))))) ∧
      (∀ d a : Nat, op.kind = .vred d a 2 → exec (.unitInstructionComplete i .vector) s = goesOn s i { t with
        vec := none, s := tabPut t.s d 0 (((List.range 16).map (fun j => lane (vr a) j)).sum) })) ∧
    (t.port = some op → op.kind = .accz false false → exec (.unitInstructionComplete i .bankPort) s =
      goesOn s i { t with port := none, accA := { t.accA with elems := [], sat := false, nf := false } }) ∧
    (t.prod = some op → op.kind = .accsw → exec (.unitInstructionComplete i .product) s =
      goesOn s i { t with prod := none, accA := t.accB, accB := t.accA })

/-- VLD and VST at completion (R131): VLD loads the 64 bytes of the line into V(rd); VST stores V(rs2) into the 64 bytes of its line and
leaves every other byte of the tile's SRAM. -/
def Sys2Proof.Claim.VectorLoadStoreResults : Prop :=
  ∀ (s : State) (i : Nat) (op : UOp), tileUp s i = true → (tileOf s i).pendLoad = none →
    let t := tileOf s i
    t.vec = some op → t.soft = [] → t.poison = [] →
    (∀ d ea : Nat, op.kind = .vld d false 1 1 ea → ∃ v : Line, exec (.unitInstructionComplete i .vector) s =
      goesOn s i { t with vec := none, v := tabPut t.v d 0 v } ∧
        ∀ j, j < 64 → v.extractLsb' (8 * j) 8 = memRd t.sram (ea + j)) ∧
    (∀ d ea : Nat, op.kind = .vst d false ea → ∃ m : Mem, exec (.unitInstructionComplete i .vector) s =
      goesOn s i { t with vec := none, sram := m } ∧
        (memWf t.sram = true → memWf m = true ∧ ∀ j, j < 64 → memRd m (ea + j) = (tabGet t.v d 0).extractLsb' (8 * j) 8) ∧
        (∀ b, b < ea ∨ ea + 64 ≤ b → memRd m b = memRd t.sram b))

/-- What a tile's units leave when they finish: the two parts above. -/
def Obligations.UnitCompletions : Prop := UnitResults ∧ VectorLoadStoreResults

/-- The dispatcher's events: DISPATCHER_LOAD puts the head of the primary Q1 list into a Free slot, Waiting on its tokens or Ready
(R63, R64, R230); COMPLETION_POST of a drained task frees its slot and sends its COMPLETION message at priority 1 (R235, R237);
Q2_PROMOTION promotes a Ready primary Q2 slot with the Ready primary Q0 slots recorded (R232); RUN_LIMIT_EXPIRY traps a secondary
task whose run limit has started (R233); FREQUENCY_CHANGE sets the DVFS point, clamped to 2.7 GHz, and changes nothing else of the tile but
the form of its cycle count (R34 to R36). -/
def Obligations.DispatcherEvents : Prop :=
  ∀ (s : State) (i : Nat), tileUp s i = true →
    let t := tileOf s i
    let e := envOf s i
    (∀ (pre : BitVec 8) (h : Head) (r : RoleCtx), t.power = .run → pre.getLsbD 1 = true → slotAvail t 1 false = true →
      queueHead s i 1 false = some (.head h) → roleOf t false = some r →
      (∀ p ∈ t.early, ¬ (p.1 = r.ctx ∧ p.2 = stepTid h.task.tid (instStep h.sub h.inst))) →
      ∃ t' : Tile, exec (.dispatcherLoad i pre) s =
          .next (noteLoad (putTile s i t') r.ctx h.graph.handle h.sub.no (instStep h.sub h.inst) h.idx) ∧
        (tabFind t'.slots (freeSlot t)).map (fun x => (x.st, x.counter, x.task.ctx, x.task.tid, x.task.step, x.loadNo)) =
          some (if startTokens h = 0 then .ready else .waiting, startTokens h, r.ctx,
            stepTid h.task.tid (instStep h.sub h.inst), instStep h.sub h.inst, t.loads) ∧
        (∀ k, k ≠ freeSlot t → tabFind t'.slots k = tabFind t.slots k) ∧ t'.running = t.running ∧ t'.sram = t.sram) ∧
    (∀ (k : Nat) (sl : Slot), tabFind t.slots k = some sl → sl.st = .draining → sl.owed = 0 → sl.hbmOwed = 0 →
      sl.task.ordered = false → sl.task.silent = false → sl.trap = none → sl.task.edges = [] →
      (∀ p ∈ inUnits t, ¬ (p.slot = k ∧ p.load = sl.loadNo)) → (∀ w ∈ t.recvs, w.op.slot ≠ k) →
      exec (.completionPost i k) s = goesOn s i (injectAwn (slotFree k t)
        ⟨(attachTile e.w (retireSaddle e.w i) 0).1, (attachTile e.w (retireSaddle e.w i) 0).2, epochOf t sl.task.sec, sl.task.ctx, 0, 1,
          i, true, .complTask sl.task.graph sl.task.task false sl.task.step sl.task.subNo sl.task.repass⟩) ∧ tabFind (slotFree k t).slots k = none) ∧
    (∀ (k : Nat) (sl : Slot), tabFind t.slots k = some sl → sl.st = .ready → sl.task.queue = 2 → sl.task.sec = false →
      sl.task.prom ≠ 0 → sl.promo = none →
      exec (.q2Promotion i k) s = goesOn s i { slotAs t k { sl with promo := some t.promos, recorded :=
        (t.slots.filter (fun p => p.2.st == .ready && (!p.2.task.sec && p.2.task.queue == 0))).map (·.2.loadNo) } with
          promos := t.promos + 1 }) ∧
    (∀ (k : Nat) (sl : Slot), t.running = some k → t.pendLoad = none → tabFind t.slots k = some sl →
      sl.task.sec = true → t.runLim = true →
      exec (.runLimitExpiry i) s = goesOn s i (trapSlot k 5 t.pc 0 t)) ∧
    (∀ f : Nat, 10 ≤ f → t.power = .run → ∃ s' : State, exec (.frequencyChange i f) s = .next s' ∧
      tileOf s' i = { t with freq := min f 27, cycBase := cycleNow e t, cycFrom := coreClock e t, evq := [] } ∧ ∀ j, j ≠ i → tileOf s' j = tileOf s j)

namespace Sys2Proof.Claim

/-- A command answers a next state, and the state is as said. -/
def Answers (o : Host.Outcome State Fault Refusal) (P : State → Prop) : Prop := ∃ s' : State, o = .next s' ∧ P s'

/-- Byte `j` of a line. -/
def byteOf (l : Line) (j : Nat) : Byte := l.extractLsb' (8 * j) 8

/-- One memory holds a line at an address and is the other one elsewhere; and keeps the canonical form. -/
def LineStored (old new : Mem) (a : Nat) (l : Line) : Prop :=
  (memWf old = true → memWf new = true ∧ ∀ j, j < 64 → memRd new (a + j) = byteOf l j) ∧
    ∀ b, b < a ∨ a + 64 ≤ b → memRd new b = memRd old b

/-- The router's queue of each input is as before, but for one, which is given. -/
def OneQueue {α : Type} (old new : Tab (List α)) (key : Nat) (q : List α) : Prop :=
  ∀ k, tabGet new k [] = if k = key then q else tabGet old k []

end Sys2Proof.Claim

/-- MESH_FLIT_HOP and AWN_HOP (R183, R186, R197, R204, R207): the one packet, or message, that waits for an output leaves for the
neighbour that its X-first route names, with HOP counted modulo 16 in a packet, and stands last in the input queue of its VC, or
priority, there. Nothing else of the machine changes but the output's arbitration. -/
def Sys2Proof.Claim.NetworkHops : Prop :=
  ∀ (s : State) (i j port inp : Nat), routerUp s i = true → port < 4 → neighbour (gridW s) i port = some j → inp < 7 →
    let t := tileOf s i
    let u := tileOf s j
    (∀ (p : Pkt) (rest : List Pkt), p.cls < 16 → p.rk = 0 →
      let vc := p.cls / 4
      tabGet t.mesh.inq (4 * inp + vc) [] = p :: rest → (∀ k, k ≠ 4 * inp + vc → tabGet t.mesh.inq k [] = []) →
      (inp = 4 → tabGet t.meshSrc (16 + vc) [] = []) →
      unicastPort (ixX i) (ixY i) p.dstX p.dstY 4 = port → meshRoom s i port vc = true →
      Answers (exec (.meshFlitHop i port []) s) fun s' => ∃ m m' : Router Pkt,
        s' = setTile (setTile s i { t with mesh := m }) j { u with mesh := m' } ∧ m.eject = t.mesh.eject ∧
        OneQueue t.mesh.inq m.inq (4 * inp + vc) rest ∧ m'.eject = u.mesh.eject ∧ m'.arb = u.mesh.arb ∧
        OneQueue u.mesh.inq m'.inq (4 * farInput port + vc)
          (tabGet u.mesh.inq (4 * farInput port + vc) [] ++ [{ p with hop := (p.hop + 1) % 16 }])) ∧
    (∀ (m : AwnMsg) (rest : List AwnMsg), m.pri < 3 → awnReserved m.body = false →
      tabGet t.awn.inq (3 * inp + m.pri) [] = m :: rest → (∀ k, k ≠ 3 * inp + m.pri → tabGet t.awn.inq k [] = []) →
      (inp = 4 → tabGet t.awnSrc (12 + m.pri) [] = []) →
      unicastPort (ixX i) (ixY i) m.dstX m.dstY 4 = port → awnRoom s i port m.pri = true →
      Answers (exec (.awnHop i port false) s) fun s' => ∃ r r' : Router AwnMsg,
        s' = setTile (setTile s i { t with awn := r }) j { u with awn := r' } ∧ r.eject = t.awn.eject ∧
        OneQueue t.awn.inq r.inq (3 * inp + m.pri) rest ∧ r'.eject = u.awn.eject ∧ r'.arb = u.awn.arb ∧
        OneQueue u.awn.inq r'.inq (3 * farInput port + m.pri) (tabGet u.awn.inq (3 * farInput port + m.pri) [] ++ [m]))

/-- MESH_PACKET_ARRIVAL and ACK_SEND (R189 to R192): a packet of the context's present EPOCH, for a bank of its role, is written at LINE,
counted in the receive counter of its key and owed an acknowledgement; one of another EPOCH, and one for a bank that its role does
not own, is neither written nor counted nor acknowledged; an owed ACK leaves for the source tile, or for the swath controller whose lines it
acknowledges, at priority 1. -/
def Sys2Proof.Claim.PacketArrival : Prop :=
  ∀ (s : State) (i : Nat), routerUp s i = true →
    let t := tileOf s i
    (∀ (p : Pkt) (rest : List Pkt) (r : RoleCtx), t.mesh.eject = p :: rest → p.body = .line → malformedPkt p = false →
      p.psn = false → p.hop = pathHops p (ixX i) (ixY i) % 16 → t.pri = some r → r.ctx = p.ctx →
      let gone := { t with mesh := { t.mesh with eject := rest } }
      let lo := 64 * p.line
      (∀ c : RxCounter, r.epoch = p.epoch → tabGet t.sramOwn (bankOf lo) 0 = 1 → hazard t lo = false → t.soft = [] → t.poison = [] →
        p.add = false → p.tok = false → rxFind t p.ctx p.tid = some c → (∀ x ∈ t.rx, x.lateWatch = false) →
        ∃ m : Mem, LineStored t.sram m lo p.data ∧ exec (.meshPacketArrival i) s = goesOn s i { gone with
          sram := m, acks := owe p (tileIx p.srcX p.srcY) false t.acks
          rx := t.rx.map (fun x => if x.ctx = p.ctx ∧ x.tid = p.tid then
            { x with count := min 65535 (x.count + 1), ovf := x.ovf || decide (x.count = 65535) } else x) }) ∧
      ((r.epoch ≠ p.epoch ∨ tabGet t.sramOwn (bankOf lo) 0 ≠ 1) → t.power = .run → Answers (exec (.meshPacketArrival i) s) fun s' =>
        let t' := tileOf s' i
        t'.mesh = gone.mesh ∧ t'.sram = t.sram ∧ t'.rx = t.rx ∧ t'.early = t.early ∧ t'.acks = t.acks ∧ t'.slots = t.slots)) ∧
    (∀ (n : Nat) (a : AckDue), t.acks[n]? = some a → exec (.ackSend i n) s = .next (setTile s i
      (injectAwn { t with acks := t.acks.eraseIdx n }
        ⟨ixX a.src, ixY a.src, a.epoch, a.ctx, 0, 1, i, false, if a.swath then .swAck a.n else .ack a.slot a.n false⟩)))

/-- Packets on the mesh and at their tile: the two parts above. -/
def Obligations.MeshTransport : Prop := NetworkHops ∧ PacketArrival

/-- TOKEN, COUNT and ACK (R65, R109, R192, R229): a TOKEN counts down the Waiting slot of its key, which becomes Ready at 0 and, being a
primary's, starts the run limit of a running secondary task (R233), and with no
slot of its key waits in the early-token table; a COUNT adds 1 to the receive counter of its key; an ACK takes its packets off what
the source slot is owed. -/
def Obligations.AwnMessages : Prop :=
  ∀ (s : State) (i pri : Nat) (m : AwnMsg), routerUp s i = true →
    let t := tileOf s i
    t.awn.eject.find? (fun x => x.pri == pri) = some m → awnFresh t m = true →
    let gone := { t with awn := { t.awn with eject := t.awn.eject.filter (fun x => x.pri != pri) } }
    (m.body = .token →
      (∀ (k : Nat) (sl : Slot), tabFind t.slots k = some sl → sl.st = .waiting → sl.task.ctx = m.ctx → sl.task.tid = m.tid →
        (∀ p ∈ t.slots, (p.2.task.ctx = m.ctx ∧ p.2.task.tid = m.tid) → p = (k, sl)) →
        exec (.token i pri) s = goesOn s i (armLimit (slotAs gone k
          { sl with counter := sl.counter - 1, st := if sl.counter ≤ 1 then .ready else .waiting }))) ∧
      ((∀ p ∈ t.slots, ¬ (p.2.task.ctx = m.ctx ∧ p.2.task.tid = m.tid)) → t.early.length < 32 →
        exec (.token i pri) s = goesOn s i { gone with early := t.early ++ [(m.ctx, m.tid)] })) ∧
    (∀ c : RxCounter, m.body = .count → rxFind t m.ctx m.tid = some c → (∀ x ∈ t.rx, x.lateWatch = false) →
      exec (.count i pri) s = goesOn s i { gone with rx := t.rx.map (fun x => if x.ctx = m.ctx ∧ x.tid = m.tid then
        { x with count := min 65535 (x.count + 1), ovf := x.ovf || decide (x.count = 65535) } else x) }) ∧
    (∀ (k n : Nat) (sl : Slot), tabFind t.slots k = some sl → sl.task.ctx = m.ctx →
      (m.body = .ack k n false → exec (.ack i pri) s = goesOn s i (slotAs gone k { sl with owed := sl.owed - n })) ∧
      (m.body = .ack k n true → exec (.ack i pri) s = goesOn s i (slotAs gone k { sl with hbmOwed := sl.hbmOwed - n })))

/-- PROBE, CORE_ANSWER_TIMEOUT, ANSWER and ROUTER_ANSWER (R206): a PROBE leaves the retire unit for its tile at Awn priority 0; a
running core that it reaches answers at priority 0 with its tile index and the probe's tag; the router of a fallow tile answers in its
place, and the router of a core that did not answer in time; the retire unit passes the answer at the head of its inbox to Maelec over
ring class H. -/
def Sys2Proof.Claim.Probes : Prop :=
  (∀ (s : State) (i tag : Nat) (silent : Bool),
    let t := tileOf s i
    let home := attachTile (gridW s) (retireSaddle (gridW s) i) 0
    let sent (t : Tile) (b : AwnBody) := injectAwn t ⟨home.1, home.2, 0, 0, 0, 0, i, true, b⟩
    (tileUp s i = true → awnHead s i 0 = none → i ∉ s.cairn.probing → exec (.probe i tag silent) s =
      .next (awnFromDie { s with cairn := { s.cairn with probing := s.cairn.probing ++ [i] } } (tileIx home.1 home.2) 6
        ⟨ixX i, ixY i, 0, 0, 0, 0, tileIx home.1 home.2, false, .probe i tag⟩)) ∧
    (∀ (m : AwnMsg) (g : Nat), routerUp s i = true → t.awn.eject.find? (fun x => x.pri == 0) = some m → m.body = .probe i g →
      let u := { t with awn := { t.awn with eject := t.awn.eject.filter (fun x => x.pri != 0) } }
      (t.power = .run → t.failed = false → exec (.probe i tag false) s = .next (setTile (setTile s i u) i (sent u (.answer i g)))) ∧
      (t.power = .fallow → exec (.probe i tag silent) s = .next (setTile (setTile s i u) i (sent u (.routerAnswer i g)))) ∧
      (t.power = .run → exec (.probe i tag true) s = .next (setTile s i { u with probes := t.probes ++ [g] }))) ∧
    (∀ (g : Nat) (rest : List Nat), routerUp s i = true → t.probes = g :: rest →
      let u := { t with probes := rest }
      exec (.coreAnswerTimeout i) s = .next (setTile (setTile s i u) i (sent u (.routerAnswer i g))))) ∧
  (∀ (s : State) (k tile tag : Nat) (m : AwnMsg) (rest : List AwnMsg),
    let d := saddleOf s k
    d.inbox = m :: rest →
    let passed (r : Bool) := sendRing (setSaddle s k { d with inbox := rest }) (ringStop k) maelecStop .h false (.answer tile tag r)
    (m.body = .answer tile tag → exec (.answer k) s = .next (passed false)) ∧
    (m.body = .routerAnswer tile tag → exec (.routerAnswer k) s = .next (passed true)))

/-- LINK_SPARE, LINK_REPAIR_COMPLETE and PARITY_WINDOW_EXPIRY (R210, R211): a group with 2 errors pauses its link direction and steers the
named wires; a third failed wire fails the link, which never carries a flit again, and takes the engine out of service; the end of
the repair lets the link run and restarts the group's count, and so does the end of 65,536 cycles without a repair. -/
def Sys2Proof.Claim.SpareWires : Prop :=
  ∀ (s : State) (i port group : Nat) (awn : Bool), routerUp s i = true → port < 9 → port ≠ 4 →
    let ls := linksOf (tileOf s i) awn port
    let l := tabGet ls (linkIx port) .init
    let g := tabGet l.groups group ⟨0, []⟩
    let after (s' : State) := tabGet (linksOf (tileOf s' i) awn port) (linkIx port) .init
    (∀ w : Nat, w < 32 → l.failed = false → 2 ≤ g.errs → w ∉ g.steered →
      (g.steered.length < 2 → Answers (exec (.linkSpare i port group awn (1#32 <<< w)) s) fun s' =>
        group ∈ (after s').repairing ∧ (after s').failed = false ∧
          tabGet (after s').groups group ⟨0, []⟩ = ⟨0, g.steered ++ [w]⟩ ∧ linkRuns (linksOf (tileOf s' i) awn port) (linkIx port) = false) ∧
      (g.steered.length = 2 → Answers (exec (.linkSpare i port group awn (1#32 <<< w)) s) fun s' =>
        (after s').failed = true ∧ s'.cairn.oos.isSome = true)) ∧
    (tabFind ls (linkIx port) = some l →
      let zero := tabMod l.groups group ⟨0, []⟩ (fun x => { x with errs := 0 })
      exec (.linkRepairComplete i port group awn) s = .next (setTile s i (setLinks (tileOf s i) awn port
        (tabSet ls (linkIx port) { l with groups := zero, repairing := l.repairing.filter (· != group) }))) ∧
      exec (.parityWindowExpiry i port group awn) s = .next (setTile s i (setLinks (tileOf s i) awn port
        (tabSet ls (linkIx port) { l with groups := zero }))))

/-- Probes of islands and the repair of link wires: the two parts above. -/
def Obligations.ProbesAndWires : Prop := Probes ∧ SpareWires

namespace Sys2Proof.Claim

/-- The checks of R260 pass: the EPOCH is the present one, the view offset of the open context stands at `a` on this stack, and its slab
is the context's. -/
structure SlabOpen (s : State) (k : Nat) (p : Pkt) (off : Nat) (x : Ctx) (a : Nat) : Prop where
  ctx : ctxOf s p.ctx = some x
  epoch : p.epoch = tabGet (saddleOf s k).epochs p.ctx.toNat 0
  phys : viewPhys x off = some a
  stack : a / 2 ^ 36 = k
  owner : tabFind (saddleOf s k).owner (a % 2 ^ 36 / 2 ^ 27) = some p.ctx

/-- The attachment tile of an edge link of a Saddle die (R184). -/
def linkTile (s : State) (k link : Nat) : Nat := tileIx (attachTile (gridW s) k link).1 (attachTile (gridW s) k link).2

/-- The die behind the Edge input (6) or Face input (5) of a tile has one more packet to send there, last of the packet's VC. -/
def Arrived (s s' : State) (i inp : Nat) (p : Pkt) : Prop :=
  tabGet (tileOf s' i).meshSrc (4 * inp + p.cls / 4) [] = tabGet (tileOf s i).meshSrc (4 * inp + p.cls / 4) [] ++ [p]

/-- The acknowledgement that a line write is accepted: to its source at priority 1, toward the Edge input of the attachment tile. -/
def Accepted (s s' : State) (i : Nat) (p : Pkt) : Prop :=
  tabGet (tileOf s' i).awnSrc 19 [] =
    tabGet (tileOf s i).awnSrc 19 [] ++ [⟨p.srcX, p.srcY, p.epoch, p.ctx, 0, 1, i, false, .ack p.slot 1 true⟩]

end Sys2Proof.Claim

/-- SADDLE_READ_REQUEST, HBM_READ_RETURN and SADDLE_WRITE (R260, R262 to R266): a checked read takes the line as it stands at its arrival;
its data goes back on its edge link on the CLASS the CPY named, with PSN where the line is or becomes bad; a checked write is in HBM
at once, every other byte as before, and is acknowledged to its source; a packet with a stale EPOCH, and one for a slab that is not
its context's, is discarded and no byte moves. -/
def Sys2Proof.Claim.SaddleMemory : Prop :=
  ∀ (s : State) (k link : Nat) (p : Pkt) (rest : List Pkt),
    let d := saddleOf s k
    (tabGet d.links link [] = p :: rest →
      (∀ (off op idx cls a : Nat) (x : Ctx), p.body = .readReq 2 off op idx cls → SlabOpen s k p off x a →
        exec (.saddleReadRequest k link) s = .next (setSaddle s k { d with
          links := tabPut d.links link [] rest
          reads := d.reads ++ [⟨link, tileIx p.srcX p.srcY, p.slot, op, idx, p.ctx, off, a, cls, p.fmt, p.tid, p.epoch,
            memLine s.hbm a⟩] })) ∧
      (∀ (off a : Nat) (x : Ctx), p.body = .write 2 off → off ≠ atEsc → off ≠ atCombine → p.psn = false → SlabOpen s k p off x a →
        Answers (exec (.saddleWrite k link) s) fun s' => LineStored s.hbm s'.hbm (a / 64 * 64) p.data ∧ a / 64 ∉ s'.hbmBad ∧
          tabGet (saddleOf s' k).links link [] = rest ∧ Accepted s s' (linkTile s k link) p ∧
          ∀ i, i ≠ linkTile s k link → tileOf s' i = tileOf s i) ∧
      (∀ (off : Nat) (x : Ctx) (a : Nat), p.body = .write 2 off → off ≠ atEsc → off ≠ atCombine →
        (p.epoch ≠ tabGet d.epochs p.ctx.toNat 0 ∨
          (ctxOf s p.ctx = some x ∧ viewPhys x off = some a ∧ a / 2 ^ 36 = k ∧
            tabFind d.owner (a % 2 ^ 36 / 2 ^ 27) ≠ some p.ctx ∧ d.scrubs = [])) →
        Answers (exec (.saddleWrite k link) s) fun s' => s'.hbm = s.hbm ∧ s'.hbmBad = s.hbmBad ∧ s'.tiles = s.tiles ∧
          tabGet (saddleOf s' k).links link [] = rest)) ∧
    (∀ (r : ReadOut) (rs : List ReadOut) (ecc : HbmEcc), d.reads = r :: rs →
      Answers (exec (.hbmReadReturn k 0 ecc) s) fun s' => (saddleOf s' k).reads = rs ∧ s'.hbm = s.hbm ∧
        (∃ q : Pkt, Arrived s s' (linkTile s k r.link) 6 q ∧ q.cls = r.cls ∧ q.data = r.data ∧ q.body = .readData r.op r.idx ∧
          q.dstX = ixX r.tile ∧ q.dstY = ixY r.tile ∧ q.ctx = r.ctx ∧ q.epoch = r.epoch ∧
          q.psn = (s.hbmBad.contains (r.phys / 64) || ecc == .uncorrectable)) ∧
        (ecc = .uncorrectable → r.phys / 64 ∈ s'.hbmBad))

/-- ESCALATION_APPEND (R256): the line is stored in slot ES_WR mod 1,023, ES_WR counts on, the write is accepted; with 1,023 slots filled
it is held and nothing changes. SLAB_SCRUB_COMPLETE (R258): the slabs of the oldest scrub hold zeros and belong to their new owner, into whose
view, once it is whole, the reset values of its window size and layer table go (R169, R174; the model's reading, log entry 50). -/
def Sys2Proof.Claim.AppendAndScrub : Prop :=
  (∀ (s : State) (k link : Nat) (p : Pkt) (rest : List Pkt) (x : Ctx) (a b : Nat), memWf s.hbm = true →
    tabGet (saddleOf s k).links link [] = p :: rest → p.body = .write 2 atEsc → p.psn = false → SlabOpen s k p atEsc x a →
    let wr := viewRead s x cbEsWr 4
    let rd := viewRead s x cbEsRd 4
    viewPhys x (atEsc + 64 * (1 + wr % 1023)) = some b →
    ((2 ^ 32 + wr - rd) % 2 ^ 32 ≠ 1023 → Answers (exec (.escalationAppend k link) s) fun s' =>
      (∀ j, j < 64 → memRd s'.hbm (b / 64 * 64 + j) = byteOf p.data j) ∧ viewRead s' x cbEsWr 4 = (wr + 1) % 2 ^ 32 ∧
        tabGet (saddleOf s' k).links link [] = rest ∧ Accepted s s' (linkTile s k link) p) ∧
    ((2 ^ 32 + wr - rd) % 2 ^ 32 = 1023 → exec (.escalationAppend k link) s = .next s)) ∧
  (∀ (s : State) (k : Nat) (r : Scrub) (rest : List Scrub), (saddleOf s k).scrubs = r :: rest →
    ∃ z : State, exec (.slabScrubComplete k) s = .next (match r.owner with
        | some c => openView z c
        | none => z) ∧
      (∀ n ∈ r.slabs, ∀ j, j < 2 ^ 27 → memRd z.hbm (2 ^ 36 * k + 2 ^ 27 * n + j) = 0) ∧
      (∀ b, (∀ n ∈ r.slabs, b < 2 ^ 36 * k + 2 ^ 27 * n ∨ 2 ^ 36 * k + 2 ^ 27 * (n + 1) ≤ b) → memRd z.hbm b = memRd s.hbm b) ∧
      (saddleOf z k).scrubs = rest ∧ ∀ c, r.owner = some c → ∀ n ∈ r.slabs, tabFind (saddleOf z k).owner n = some c)

/-- HEALTH_COMBINE (R257): a record of a TID that the directory does not hold is dropped and counted; one of an older step than the
window record's is dropped and counted; one of the same step is combined field by field under R168; one of a newer step, or for an
empty slot, takes the slot. -/
def Sys2Proof.Claim.HealthCombine : Prop :=
  (∀ (s : State) (c : BitVec 8) (x : Ctx) (v tid tile : Nat) (step : W32), ctxOf s c = some x →
    let drop := viewPut s x cbHwDrop 4 (min (viewRead s x cbHwDrop 4 + 1) (2 ^ 32 - 1))
    (tidIndex s x tid = none → combineHealth s c v tid step tile = drop) ∧
    (∀ i : Nat, tidIndex s x tid = some i →
      let a := atWindow + 32 * ((viewRead s x cbHwW 1 + 1) * i + step.toNat % (viewRead s x cbHwW 1 + 1))
      let old := viewRead s x a 32
      let takes (r : HRec) := updCtx (viewPut s x a 32 (r.data + 2 ^ 224 * step.toNat)) c (noteReporter i step tile)
      (∀ n : Nat, old ≠ 0 → 1 ≤ n → n ≤ 2 ^ 31 → bits old 255 224 = (step.toNat + n) % 2 ^ 32 →
        combineHealth s c v tid step tile = drop) ∧
      (old ≠ 0 → bits old 255 224 = step.toNat → combineHealth s c v tid step tile = takes ((HRec.of old).combine (HRec.of v))) ∧
      (∀ n : Nat, 1 ≤ n → n < 2 ^ 31 → bits old 255 224 = (step.toNat + 2 ^ 32 - n) % 2 ^ 32 →
        combineHealth s c v tid step tile = takes (HRec.empty.combine (HRec.of v))) ∧
      (old = 0 → combineHealth s c v tid step tile = takes (HRec.empty.combine (HRec.of v))))) ∧
  (∀ a b : HRec, (a.combine b).zeros = min (a.zeros + b.zeros) (2 ^ 32 - 1) ∧ (a.combine b).sats = min (a.sats + b.sats) (2 ^ 32 - 1) ∧
    (a.combine b).nonfin = min (a.nonfin + b.nonfin) (2 ^ 32 - 1) ∧ (a.combine b).uflows = min (a.uflows + b.uflows) (2 ^ 32 - 1) ∧
    (a.combine b).total = min (a.total + b.total) (2 ^ 64 - 1) ∧ (a.combine b).maxexp = max a.maxexp b.maxexp) ∧
  (∀ (s : State) (k link : Nat) (p : Pkt) (rest : List Pkt) (x : Ctx) (a : Nat),
    tabGet (saddleOf s k).links link [] = p :: rest → p.body = .write 2 atCombine → p.psn = false → SlabOpen s k p atCombine x a →
    Answers (exec (.healthCombine k link) s) fun s' =>
      s' = combineHealth (saddleAck (saddlePop s k link) k link p) p.ctx (bits p.data.toNat 255 0) (bits p.data.toNat 287 256)
        (BitVec.ofNat 32 (bits p.data.toNat 319 288)) (tileIx p.srcX p.srcY))

/-- The Saddle die's memory commands, appends, scrubs and health combines: the three parts above. -/
def Obligations.SaddleWork : Prop := SaddleMemory ∧ AppendAndScrub ∧ HealthCombine

/-- SWREAD_REQUEST and MERGE_WINDOW_EXPIRY (R201 to R203, R273, R276): a request that no open entry matches opens one; one that matches
joins it; an entry whose window ends is served as one multicast of its lines, converted, each of which its requester will acknowledge
(R200), its requests count toward READERS, and the block is released at READERS; while its first line lacks bytes it waits; a request that no block table entry holds is discarded. -/
def Sys2Proof.Claim.SwathMerging : Prop :=
  ∀ (s : State) (p : Nat),
    let w := swathOf s p
    (∀ m ∈ w.merges, m.released = false) →
    (∀ (r : SwReq) (rest : List SwReq), w.waiting = [] → w.reqs = r :: rest →
      (∀ (e : Nat) (b : BlkEntry), findBlk w r = some (e, b) →
        ((∀ m ∈ w.merges, m.reqs.any (sameKey r) = false) → w.merges.length < 64 → 0 < b.merge →
          exec (.swreadRequest p) s = .next (setSwath s p { w with reqs := rest, merges := w.merges ++ [⟨[r], false, []⟩] })) ∧
        (∀ (l1 l2 : List MergeEntry) (m : MergeEntry), w.merges = l1 ++ m :: l2 → (∀ q ∈ l1, q.reqs.any (sameKey r) = false) →
          m.reqs.any (sameKey r) = true → m.reqs.length + 1 < b.merge + 1 →
          exec (.swreadRequest p) s =
            .next (setSwath s p { w with reqs := rest, merges := l1 ++ { m with reqs := m.reqs ++ [r] } :: l2 }))) ∧
      (findBlk w r = none → Answers (exec (.swreadRequest p) s) fun s' => swathOf s' p = { w with reqs := rest } ∧ s'.tiles = s.tiles)) ∧
    (∀ (n e : Nat) (r : SwReq) (b : BlkEntry), w.merges[n]? = some ⟨[r], false, []⟩ → findBlk w r = some (e, b) →
      let lines := swLines w.buf b.sfmt r
      (lines ≠ [] → answerReady b r 0 = false → exec (.mergeWindowExpiry p n) s =
        .next (setSwath s p { w with merges := w.merges.set n ⟨[r], true, [(0, 0)]⟩ })) ∧
      ((∀ i, i < lines.length → answerReady b r i = true) → b.src ≠ 0x80 → Answers (exec (.mergeWindowExpiry p n) s) fun s' =>
        let d := portTile (gridW s) p
        (tabGet (tileOf s' (tileIx d.1 d.2)).meshSrc 21 []).map (fun q => (q.data, q.body, q.rk, q.span, q.dstX, q.dstY)) =
          (tabGet (tileOf s (tileIx d.1 d.2)).meshSrc 21 []).map (fun q => (q.data, q.body, q.rk, q.span, q.dstX, q.dstY)) ++
            lines.map (fun l => (l.2.1, .swLine [(r.tile, r.op)] l.1 l.2.2, 1, 0, ixX r.tile, ixY r.tile)) ∧
        tabFind (swathOf s' p).table e = some (if b.served + 1 < b.readers then { b with served := b.served + 1 }
          else { b with served := 0, st := .empty, valid := [] }) ∧ (swathOf s' p).buf = w.buf ∧
        tabGet (swathOf s' p).owed r.ctx.toNat 0 = tabGet w.owed r.ctx.toNat 0 + lines.length))

/-- FILL_LINE (R273): a fill line is written into the buffer at its place, its valid bit is set, the entry is FILLING and, with the last
line, READY; a READY entry holds the line. STREAM_SEQUENCER_ITEM (R274): once the item's entry is EMPTY, the version allows it and the
Stream region has room, each line of the item leaves as a WGT packet for the port tile; else nothing happens. -/
def Sys2Proof.Claim.SwathFills : Prop :=
  (∀ (s : State) (p : Nat) (f : FillLine) (rest : List FillLine) (b : BlkEntry),
    let w := swathOf s p
    w.merges = [] → tabFind w.table f.entry = some b → f.line < b.len → bindPeer s p f.entry b = none →
    let valid := addNew f.line b.valid
    let filled := { w with
      buf := memSetLine w.buf (b.base + 64 * f.line) f.data
      table := tabSet w.table f.entry { b with valid := valid, st := if valid.length = b.len then .ready else .filling }
      bad := if f.psn then addNew (b.base + 64 * f.line) w.bad else w.bad.filter (· != b.base + 64 * f.line) }
    (w.fromMesh = f :: rest → f.lent = false → b.st ≠ .ready → exec (.fillLine p false) s = .next (setSwath s p { filled with fromMesh := rest })) ∧
    (w.fromSpur = f :: rest → f.lent = true → b.st ≠ .ready → Answers (exec (.fillLine p true) s) fun s' =>
      swathOf s' p = { filled with fromSpur := rest } ∧
        tabGet (linkOf s' p).freed 1 0 = (tabGet (linkOf s p).freed 1 0 + 1) % 2 ^ 16) ∧
    (w.fromMesh = f :: rest → b.st = .ready → exec (.fillLine p false) s = .next s)) ∧
  (∀ (s : State) (k src port e : Nat) (c : BitVec 8) (x : Ctx) (w : StreamWalk) (b : BlkEntry), ctxOf s c = some x → x.reset = none →
    walkNow x k (tabFind (saddleOf s k).walks c.toNat) = w → w.line = 0 → (planItems x k w.step)[w.pos]? = some (src, port, e) →
    tabFind (swathOf s port).table e = some b → fillsMoving s port e = false →
    (b.st = .empty → versionAllows x b.sfmt src b.len w.step = true → 0 < b.len → b.len ≤ streamLinesMax - streamStaged s k →
      Answers (exec (.streamSequencerItem k ⟨c, []⟩) s) fun s' =>
        tabFind (saddleOf s' k).walks c.toNat = some { w with pos := w.pos + 1 } ∧ s'.hbm = s.hbm ∧
        ∀ i, i < b.len → ∀ a, viewPhys x (src + 64 * i) = some a →
          ∃ q ∈ tabGet (tileOf s' (linkTile s k ((src + 64 * i) / 64 % 8))).meshSrc 25 [], q.body = .fill port e i w.step ∧
            q.data = memLine s.hbm a ∧ q.cls = 4 ∧ (q.dstX, q.dstY) = portTile (gridW s) port ∧ q.ctx = c) ∧
    (b.st ≠ .empty → ∀ ecc : List (Nat × HbmEcc), exec (.streamSequencerItem k ⟨c, ecc⟩) s = .next s))

/-- Reads through a port die's swath controller: the two parts above. -/
def Obligations.SwathController : Prop := SwathMerging ∧ SwathFills

/-- RING_FLIT (R267, R268): in its class's turn a flit moves one segment the way that has fewer segments, and uses one of its class's
shares there; without a share left it waits; after a CRC failure it tries again from the same stop, and after the third retry goes on
with PSN set; at its destination it is delivered: a report reaches Maelec's list. -/
def Obligations.RingMoves : Prop :=
  (∀ (s : State) (n : Nat) (f : Flit), s.ring[n]? = some f → (∀ g ∈ s.ring.take n, sameFlow g f = false) → f.at_ < 28 → f.dst < 28 →
    f.at_ ≠ f.dst →
    let next := if f.cw then (f.at_ + 1) % 28 else (f.at_ + 27) % 28
    let left := shareOf (roundNow s (segKey f)) f.cls
    let turn := { s with ringArb := tabSet s.ringArb (segKey f) (takeShare (roundNow s (segKey f)) f.cls) }
    (left = 0 → ∀ ok : Bool, exec (.ringFlit n ok) s = .next s) ∧
    (left ≠ 0 → next ≠ f.dst → exec (.ringFlit n true) s = .next { turn with ring := s.ring.set n { f with at_ := next, tries := 0 } }) ∧
    (left ≠ 0 → f.tries < 3 → Answers (exec (.ringFlit n false) s) fun s' => s'.ring = s.ring.set n { f with tries := f.tries + 1 }) ∧
    (left ≠ 0 → f.tries = 3 → next ≠ f.dst → exec (.ringFlit n false) s =
      .next { turn with ring := s.ring.set n { f with at_ := next, tries := 0, psn := true } }) ∧
    (∀ r : LogRec, left ≠ 0 → next = f.dst → f.body = .report r →
      exec (.ringFlit n true) s = .next { turn with ring := s.ring.eraseIdx n, reports := s.reports ++ [r] })) ∧
  (∀ (s : State) (src dst : Nat) (cls : RingClass) (b : FlitBody), src < 28 → dst < 28 →
    ∃ f : Flit, sendRing s src dst cls false b = { s with ring := s.ring ++ [f] } ∧ f.at_ = src ∧ f.tries = 0 ∧
      (f.cw = true ↔ (dst + 28 - src) % 28 ≤ (src + 28 - dst) % 28))

/-- COMPLETION and INSTANCE_DONE (R240, R241, R246, R445): a completion of the present EPOCH writes one TASK record of the glean log, with
GSN counted on and the LAYERTAB noted at its load, and retires its task once; one already retired writes nothing; the oldest instance whose tasks are all retired writes
INSTANCE_DONE to the completion ring, and its submission's last one SUBMISSION_DONE, which ends it. -/
def Obligations.Retirement : Prop :=
  (∀ (s : State) (k g t : Nat) (m : AwnMsg) (rest : List AwnMsg) (step : W32) (x : Ctx) (b : Submission) (gr : Graph) (gt : GTask),
    (saddleOf s k).inbox = m :: rest → m.body = .complTask g t false step b.no false → ctxOf s m.ctx = some x → m.epoch = epochNow s m.ctx →
    gleanFull x (recsOf x g t) = false → findSub x b.no = some b → findGraph x g = some gr → gr.tasks[t]? = some gt → gt.anchors = [] → x.reset = none →
    let i := (step - b.first).toNat
    let ltv := ((x.loads.find? (fun n => n.key == (b.no, i, t))).map (·.ltv)).getD x.lastLayerTab
    (t ∉ retiredIn b i → b.done ≤ i → Answers (exec (.completion k) s) fun s' => (saddleOf s' k).inbox = rest ∧
      s'.hbm = (viewPut s x (atGlean + 32 * (x.gsn % 8388608)) 32 (1 + 2 ^ 64 * (x.gsn % 2 ^ 32) + 2 ^ 96 * step.toNat + 2 ^ 128 * b.no
        + 2 ^ 160 * ltv + 2 ^ 192 * (g + 2 ^ 16 * t + 2 ^ 38 * m.src))).hbm ∧
      ∃ x' : Ctx, ctxOf s' m.ctx = some x' ∧ x'.gsn = x.gsn + 1 ∧ (findSub x' b.no).map (fun b => retiredIn b i) = some (retiredIn b i ++ [t])) ∧
    ((t ∈ retiredIn b i ∨ i < b.done) →
      exec (.completion k) s = .next (setSaddle s k { saddleOf s k with inbox := rest }))) ∧
  (∀ (s : State) (c : BitVec 8) (x : Ctx) (b : Submission), ctxOf s c = some x → doneSub x = some b → (∀ y ∈ x.subs, y.no = b.no → y = b) →
    x.heldRecs = [] →
    let wr := viewRead s x cbCrWr 4
    let rd := viewRead s x cbCrRd 4
    (2 ^ 32 + wr - rd) % 2 ^ 32 < 4096 →
    let done : CrRec := ⟨2 + 2 ^ 8 * (x.crSeq % 2 ^ 24) + 2 ^ 32 * c.toNat + 2 ^ 48 * b.graph + 2 ^ 64 * (b.no % 2 ^ 32)
      + 2 ^ 96 * (b.first + BitVec.ofNat 32 b.done).toNat, b.notify⟩
    (b.done + 1 < b.count → Answers (exec (.instanceDone c) s) fun s' =>
      s'.hbm = (viewPut (viewPut s x (atCompl + 32 * (wr % 4096)) 32 done.data) x cbCrWr 4 ((wr + 1) % 2 ^ 32)).hbm ∧
      ∃ x' : Ctx, ctxOf s' c = some x' ∧ x'.crSeq = (x.crSeq + 1) % 2 ^ 24 ∧
        findSub x' b.no = some { b with done := b.done + 1, retired := tabDel b.retired b.done, finished := false }) ∧
    (b.done + 1 = b.count → b.cancelling = false → Answers (exec (.instanceDone c) s) fun s' =>
      ∃ x' : Ctx, ctxOf s' c = some x' ∧ findSub x' b.no = none ∧ x'.crSeq = ((x.crSeq + 1) % 2 ^ 24 + 1) % 2 ^ 24))

/-- BUCKET_LANDING (R281, R307): a whole chunk sum of a committed bucket is taken into Landing, mantissas and side line as they came; the
bucket is landed with its last chunk, and its slot Free. -/
def Sys2Proof.Claim.BucketLands : Prop :=
  ∀ (s : State) (k link chunk b : Nat) (step : W32) (q : List Pkt) (c : BitVec 8) (x : Ctx) (pl : Plan) (e : PlanBucket) (u : BSlot),
    (saddleOf s k).links = [(link, q)] → q ≠ [] → (∀ p ∈ q, landingOf p = some (c, step, b, chunk) ∧ p.psn = false ∧ p.fmt = attFmt pl u.att ∧
      p.epoch = tabGet (saddleOf s k).epochs c.toNat 0) → q.any landingLast = true → ctxOf s c = some x → x.win.plan = some pl →
    pl.buckets[b]? = some e → findSlot s c step b = some u → u.st = .committed → chunk ∉ u.landed → findItem s k c step b = none →
    landingUsed s k + 64 * q.length ≤ landingSize →
    let sum := chunkMant (attFmt pl u.att) (chunkBlocks e chunk) ((q.map (·.data)).drop 1)
    Answers (exec (.bucketLanding k) s) fun s' => tabGet (saddleOf s' k).links link [] = [] ∧ s'.hbm = s.hbm ∧
      findItem s' k c step b = some ⟨k, c, step, b, u.att, attFmt pl u.att, if chunkCount e = 1 then .landed else .landing,
        [(chunk, (((q.map (·.data))[0]?).getD 0, sum))], []⟩ ∧
      findSlot s' c step b = if u.landed.length + 1 = chunkCount e then none else some { u with landed := chunk :: u.landed }

/-- BUCKET_UPDATE (R280 to R283, R285): a landed bucket of a step whose clip limit is not +0 waits at the barrier with its squared-norm partial
formed; a released one is updated, emitted and published with the factor and the schedule multiplier of its step, and held where the
schedule entry is missing; one whose bucket has not yet been updated at the step before does not
begin. The lines that the unit reads show no error here (R266). -/
def Sys2Proof.Claim.BucketUpdates : Prop :=
  ∀ (s : State) (k b : Nat) (c : BitVec 8) (step : W32) (u : UpdItem) (x : Ctx) (pl : Plan) (e : PlanBucket), findItem s k c step b = some u →
    ctxOf s c = some x → x.win.plan = some pl → pl.buckets[b]? = some e → x.reset = none → x.stook = none → x.cad = none →
    (olderDone x pl u = true → u.st = .landed → clipLatch x step = none → viewRead s x cbClipC 4 ≠ 0 →
      Answers (exec (.bucketUpdate k c step ⟨b, []⟩) s) fun s' => findItem s' k c step b = some { u with st := .barrier } ∧ s'.hbm = s.hbm ∧
        ∃ x' : Ctx, ctxOf s' c = some x' ∧ clipOf s' c step = viewRead s x cbClipC 4 ∧
          (normOf x' step).bind (fun n => tabFind n.partials b) = some (normPartial s x pl e u)) ∧
    (∀ (f : Nat) (rho : BitVec 32), olderDone x pl u = true → u.st = .released → factorAt x k step = some (f, true) →
      schedOf x k step = some ⟨k, step, some rho⟩ →
      exec (.bucketUpdate k c step ⟨b, []⟩) s =
        .next (publish (emitBoundary (updateRanges (dropItem s u) k c x pl e u rho.toNat f) c) c b step)) ∧
    (∀ f : Nat, olderDone x pl u = true → u.st = .released → factorAt x k step = some (f, true) → schedOf x k step = none →
      schedNow s x step = none → Answers (exec (.bucketUpdate k c step ⟨b, []⟩) s) fun s' =>
        findItem s' k c step b = some { u with st := .sched } ∧ s'.hbm = s.hbm) ∧
    (olderDone x pl u = false → ∀ ecc : List (Nat × HbmEcc), exec (.bucketUpdate k c step ⟨b, ecc⟩) s = .next s)

/-- A bucket from its landing to its update: the two parts above. -/
def Obligations.BucketFlow : Prop := BucketLands ∧ BucketUpdates

/-- The optimisers (R283): what one element becomes, with fma, mul and add rounded once to FP32 and Q the parts fixed once per bucket. -/
def Sys2Proof.Claim.OptimiserRules : Prop :=
  ∀ (G : OptGroup) (Q : OptConst) (w m v g : Nat),
    let fma (a b c : Nat) : Nat := rne32 (fvAdd (fvMul (f32 a) (f32 b)) (f32 c))
    let mul (a b : Nat) : Nat := rne32 (fvMul (f32 a) (f32 b))
    let step (d : Nat) : Nat := fma (Q.eta ^^^ 2 ^ 31) d w
    let adam (m v : Nat) : Nat := f32div (f32div m Q.c1) (rne32 (fvAdd (f32 (f32sqrt (f32div v Q.c2))) (f32 G.eps)))
    (G.opt = 1 → optElem G Q w m v g = (step (fma G.wd w g), m, v)) ∧
    (G.opt = 2 → optElem G Q w m v g = (step (fma G.wd w (if G.nesterov then fma G.b1 (fma G.b1 m g) g else fma G.b1 m g)), fma G.b1 m g, v)) ∧
    (G.opt = 3 → let g' := fma G.wd w g
      let m' := fma Q.a1 g' (mul G.b1 m)
      let v' := fma Q.a2 (mul g' g') (mul G.b2 v)
      optElem G Q w m v g = (step (adam m' v'), m', v')) ∧
    (G.opt = 4 → let m' := fma Q.a1 g (mul G.b1 m)
      let v' := fma Q.a2 (mul g g) (mul G.b2 v)
      optElem G Q w m v g = (step (fma G.wd w (adam m' v')), m', v')) ∧
    (G.opt = 5 → optElem G Q w m v g = (step (fma G.wd w (f32sign (fma Q.a1 g (mul G.b1 m)))), fma Q.a2 g (mul G.b2 m), v))

/-- SCHED_RETRY_TIMER and CLIP_FACTOR (R280, R282, R321): a unit that waits for a schedule entry of its step releases its buckets once the
entry is there, and nothing happens while it is not; the clip factor releases the unit's buckets of the step from the barrier. -/
def Sys2Proof.Claim.UpdateReleases : Prop :=
  (∀ (s : State) (k : Nat) (c : BitVec 8) (x : Ctx) (step : W32) (rho : BitVec 32), tabFind s.ctxs c.toNat = some x →
    ⟨k, step, none⟩ ∈ x.sched → schedNow s x step = some rho → Answers (exec (.schedRetryTimer k) s) fun s' => s'.hbm = s.hbm ∧
      (∀ u ∈ s.upd, u.saddle = k → u.ctx = c → u.step = step → u.st = .sched → { u with st := .released } ∈ s'.upd) ∧
      (∀ u ∈ s.upd, u.st ≠ .sched → u ∈ s'.upd)) ∧
  (∀ (s : State) (k : Nat), (∀ p ∈ s.ctxs, ∀ l ∈ p.2.sched, l.saddle = k → l.rho = none → schedNow s p.2 l.step = none) →
    (∀ p ∈ s.ctxs, p.1 < 256 ∧ tabFind s.ctxs p.1 = some p.2) → exec (.schedRetryTimer k) s = .next s) ∧
  (∀ (s : State) (k : Nat) (c : BitVec 8) (step : W32) (x : Ctx) (l : ClipLatch) (f : BitVec 32 × Bool), ctxOf s c = some x →
    clipLatch x step = some l → l.factor = some f → k ∉ l.units →
    exec (.clipFactor k c step) s = .next { setCtx s c { x with
        clip := x.clip.map (fun m => if m.step = step then { m with units := k :: m.units } else m) } with
      upd := s.upd.map (fun u =>
        if u.saddle = k ∧ u.ctx = c ∧ u.step = step ∧ u.st = .barrier then { u with st := .released } else u) })

/-- The update itself and what releases it: the two parts above. -/
def Obligations.UpdateRules : Prop := OptimiserRules ∧ UpdateReleases

/-- The scale policy and STEP_BOUNDARY (R172, R173): with OVER s_l falls by 1, else with UNDER, HEAD of 2 or more and no change in 16 steps
it rises by 1, never out of −64 to 63; a host write comes before the policy; the boundary after a step is passed once, when the
step has ended on this rank (R180), and makes the layer's change. -/
def Sys2Proof.Claim.StepBoundaries : Prop :=
  (∀ (s : State) (x : Ctx) (l : Nat) (v : VRec),
    let sl := fmtSexp (layerFmt s x l)
    (∀ h : Nat, (polOf x l).hostSexp = some h → (scaleChange s x l (some v)).delta = sextN h 8 - sl) ∧
    ((polOf x l).hostSexp = none → fmtAuto (layerFmt s x l) = true →
      (v.ovf = true → -64 < sl → (scaleChange s x l (some v)).delta = -1) ∧
      (v.ovf = true → sl = -64 → scaleChange s x l (some v) = ⟨0, true, false⟩) ∧
      (v.ovf = false → v.under = true → 2 ≤ v.head → 16 ≤ (polOf x l).sinceScale →
        (sl < 63 → (scaleChange s x l (some v)).delta = 1) ∧ (sl = 63 → scaleChange s x l (some v) = ⟨0, true, false⟩)) ∧
      (v.ovf = false → (v.under = false ∨ v.head < 2 ∨ (polOf x l).sinceScale < 16) → (scaleChange s x l (some v)).delta = 0))) ∧
  (∀ (s : State) (c : BitVec 8) (x : Ctx) (step : W32) (l : Nat), ctxOf s c = some x → x.reset = none → x.win.plan = none →
    x.win.pubs = [] → x.layers = [l] → x.stook = none → x.cad = none → bitOf (layerFmt s x l) 10 = false →
    stewardServes s (homeSteward c) = true → viewRead s x cbHwNt 2 = 0 →
    (boundaryPassed x step = false → stepEnded s c x step = true → Answers (exec (.stepBoundary c step) s) fun s' =>
      let d := (scaleChange s x l (verdictOf x step l)).delta
      ∃ x' : Ctx, ctxOf s' c = some x' ∧ x'.boundaryDone = some step ∧
        (polOf x' l).deltas = (if d = 0 then [] else [(step, d)]) ∧ (polOf x' l).hostSexp = none ∧
        (d = 0 → (polOf x l).hostSexp = none → (scaleChange s x l (verdictOf x step l)).clamp = false → s'.hbm = s.hbm)) ∧
    (boundaryPassed x step = false → stepEnded s c x step = false → exec (.stepBoundary c step) s = .next s) ∧
    (boundaryPassed x step = true → exec (.stepBoundary c step) s = .next s))

/-- ESCALATION_REQUEST (R175, R177, R178, R180): a request in the layer's present format widens the layer one rung, patches its
relocations and resubmits the pass; one in an earlier format resubmits the pass in the format in force; one at the top of the ladder
does neither and LADDER_END is logged. The slot is consumed. -/
def Sys2Proof.Claim.Escalations : Prop :=
  (rungUp 7 = (3, false) ∧ rungUp 3 = (1, false) ∧ rungUp 1 = (0, false) ∧ rungUp 0 = (0, true)) ∧
  ∀ (s : State) (c : BitVec 8) (r : EscReq) (x : Ctx), ctxOf s c = some x → x.reset = none → stewardAwake s (homeSteward c) = true →
    r.layer ∈ x.layers → viewRead s x cbEsRd 4 ≠ viewRead s x cbEsWr 4 →
    let s1 := viewPut s x cbEsRd 4 ((viewRead s x cbEsRd 4 + 1) % 2 ^ 32)
    let reg := layerFmt s1 x r.layer
    let cf := layerCfmt s1 x r.layer
    let acc := fmtAcc reg
    let record (s : State) (kind new : Nat) : State :=
      numLog s c (NumRec.data ⟨kind, r.layer, r.step, r.pass, rungCode cf acc, new, r.cause % 8, r.micro, 0, r.tile, 0, 0, 0⟩ c)
    (r.fmt = cf → r.acc = acc → ¬ (cf = 0 ∧ acc = true) →
      let s2 := updCtx (setLayer s1 c r.layer r.step (withAcc reg (rungUp cf).2) (rungUp cf).1) c (fun y =>
        { y with layerPol := tabSet y.layerPol r.layer { polOf y r.layer with sinceEsc := 0 } })
      exec (.escalationRequest c r) s =
        .next (record (resubmitPass (patchLayer s2 c r.layer) c r.step r.tasks) 1 (rungCode (rungUp cf).1 (rungUp cf).2))) ∧
    (r.fmt = cf → r.acc = acc → cf = 0 → acc = true → exec (.escalationRequest c r) s = .next (record s1 2 (rungCode cf acc))) ∧
    ((r.fmt ≠ cf ∨ r.acc ≠ acc) → exec (.escalationRequest c r) s = .next (resubmitPass s1 c r.step r.tasks))

/-- The step boundary and the escalations: the two parts above. -/
def Obligations.StepsAndEscalations : Prop := StepBoundaries ∧ Escalations

namespace Sys2Proof.Claim

/-- A control frame at the head of a port die's queue, taken: its lines are counted freed. -/
def ctrlTaken (s : State) (p : Nat) (f : RawFrame) (rest : List RawFrame) : State :=
  freeLines (updLink s p (fun l => { l with urg := rest })) p f

/-- The control frame at the head of port die `p` is of a kind. -/
structure CtrlHead (s : State) (p kind : Nat) (f : RawFrame) (rest : List RawFrame) : Prop where
  head : (linkOf s p).urg = f :: rest
  kind : ctlKind ((f.payload[0]?).getD 0) = kind

end Sys2Proof.Claim

/-- Exact reduction (R291, R302): without a saturation a sum is the lane-wise integer sum, subtracting an input restores the earlier sum,
and two inputs add in either order; side lines combine to the same line whatever the order and grouping. -/
def Obligations.ExactReduction : Prop :=
  (∀ (w : Nat) (sum a b : List Int), 2 ≤ w → sum.length = a.length → a.length = b.length → a.length ≤ 1024 →
    (∀ x ∈ sum, x.natAbs ≤ 2 ^ (w - 1) - 1) → (mantAdd w false sum a).2 = 0 →
    (mantAdd w false sum a).1 = (sum.zip a).map (fun p => p.1 + p.2) ∧ mantAdd w true (mantAdd w false sum a).1 a = (sum, 0) ∧
    ((mantAdd w false sum b).2 = 0 → (mantAdd w false (mantAdd w false sum a).1 b).2 = 0 →
      (mantAdd w false (mantAdd w false sum b).1 a) = (mantAdd w false (mantAdd w false sum a).1 b))) ∧
  (∀ a b c : Nat, sideCombine a b = sideCombine b a ∧ sideCombine (sideCombine a b) c = sideCombine a (sideCombine b c) ∧
    (∀ k, k < 32 → sideBmax (sideCombine a b) k = max (sideBmax a k) (sideBmax b k)) ∧
    sideEsc (sideCombine a b) = (sideEsc a ||| sideEsc b) ∧ sideNf (sideCombine a b) = (sideNf a ||| sideNf b) ∧
    sideNcon (sideCombine a b) = (sideNcon a + sideNcon b) % 2 ^ 16)

/-- WINNOW_DATA_FRAME, VERDICT_LINE and PAIR_DEADLINE_EXPIRY on the owner while some other chunk is still incomplete (R306, R307, R313, R316):
a piece and a partial of the slot's attempt are added to their chunk at once, a data frame of an older attempt is discarded and counted
as stale; a good verdict keeps the input and its side line; a bad one takes the input out of the sum; an expired deadline resolves the
pair with its first copy. -/
def Sys2Proof.Claim.WinnowInputs : Prop :=
  ∀ (s : State) (p b chunk other : Nat) (c : BitVec 8) (step : W32) (x : Ctx) (pl : Plan) (e : PlanBucket) (u : BSlot),
    ctxOf s c = some x → x.win.plan = some pl → pl.buckets[b]? = some e → e.owner = pl.myRank → findSlot s c step b = some u →
    u.owner = true → u.st = .opened → committed x.win (orderIx pl step b) = false → chunk < chunkCount e → other < chunkCount e →
    other ≠ chunk → chunkFull pl e pl.myRank other (chunkOf u other) = false →
    let ch := chunkOf u chunk
    let w := wireW (attFmt pl u.att)
    (∀ (side : Line) (mant : List Int), mant.length = 32 * chunkBlocks e chunk → contrib pl e pl.myRank chunk = .plain →
      findInput ch pl.myRank false = none → exec (.winnowDataFrame p (.own c step b chunk u.att side mant)) s =
        .next (setSlot s (setChunk u chunk (chunkAdd w ch ⟨pl.myRank, false, attFmt pl u.att, side, mant, 0, some true, false, 0⟩)))) ∧
    (∀ (f : RawFrame) (rest : List RawFrame) (src att : Nat), tagOf f = ⟨c, step, b, chunk, att, false, hSrc f.hdr⟩ →
      engineRank pl (hSrc f.hdr) = some src → versionReached x b step = false →
      ((linkOf s p).grd = f :: rest → att = u.att → src ∈ partialSources pl e chunk pl.myRank → hFmt f.hdr = attFmt pl u.att →
        f.payload.length = wireCount (attFmt pl u.att) (chunkBlocks e chunk) → findInput ch src false = none →
        Answers (exec (.winnowDataFrame p .peer) s) fun s' => (linkOf s' p).grd = rest ∧ (linkOf s' p).vlines = (linkOf s p).vlines ++ [f] ∧
          findSlot s' c step b = some (setChunk u chunk (chunkAdd w ch ⟨src, false, attFmt pl u.att, (f.payload[0]?).getD 0,
            wireMant (attFmt pl u.att) (chunkBlocks e chunk) (f.payload.drop 1), trDigest f.trailer, none, false, 0⟩))) ∧
      ((linkOf s p).grd = f :: rest → att < u.att → Answers (exec (.winnowDataFrame p .peer) s) fun s' =>
        (linkOf s' p).grd = rest ∧ findSlot s' c step b = some u ∧ (ctxOf s' c).map (·.win.stale) = some (x.win.stale + 1)) ∧
      (∀ i : ChunkIn, (linkOf s p).vlines = f :: rest → att = u.att → findInput ch src false = some i → i.verdict = none →
        (frameGood f = true → Answers (exec (.verdictLine p) s) fun s' => (linkOf s' p).vlines = rest ∧
          findSlot s' c step b = some (setChunk u chunk (setVerdict ch src false))) ∧
        (frameGood f = false → Answers (exec (.verdictLine p) s) fun s' => (linkOf s' p).vlines = rest ∧
          findSlot s' c step b = some (setChunk u chunk (dropInput (chunkSub (wireW i.fmt) ch i) src false))))) ∧
    (∀ r ∈ ch.pairs, r.st = .first → exec (.pairDeadlineExpiry c step b chunk r.primary) s = .next (setSlot s (setChunk u chunk { ch with
      pairs := ch.pairs.map (fun q => if q.primary = r.primary ∧ q.st = .first then { q with st := .resolved } else q) })))

/-- ATTEMPT, COMMIT, CHUNK_ACK, RESEND and WINNOW_FRAME_RESEND_TIMEOUT (R308, R311, R312, R317, R359): ATTEMPT makes a sending rank's slot
Sending in the new attempt and marks OVER for the bucket's layers; COMMIT posts one TOKEN for each conversion entry under CTID at
priority 1, commits the order index and frees the slot; CHUNK_ACK takes the named frame out of the resend stores; RESEND, and a frame
unacknowledged too long, send the held frame again. -/
def Sys2Proof.Claim.WinnowControl : Prop :=
  ∀ (s : State) (p kind : Nat) (f : RawFrame) (rest : List RawFrame), CtrlHead s p kind f rest →
    let c := hCtx f.hdr
    let step := hStep f.hdr
    let b := hBucket f.hdr
    let l := (f.payload[0]?).getD 0
    let s1 := ctrlTaken s p f rest
    (∀ (x : Ctx) (pl : Plan) (e : PlanBucket), frameBucket s f = some (x, pl, e) → committed x.win (orderIx pl step b) = false →
      e.owner ≠ pl.myRank →
      (kind = 1 → sendsAny pl e pl.myRank = true → (∀ u, findSlot s c step b = some u → u.att < ctlAtt l) → 0 < ctlAtt l →
        Answers (exec (.attempt p) s) fun s' => (linkOf s' p).urg = rest ∧
          findSlot s' c step b = some ⟨c, epochNow s c, step, b, ctlAtt l, false, .sending, [], []⟩ ∧
          ∃ x' : Ctx, ctxOf s' c = some x' ∧ ∀ r ∈ bucketRanges pl e, (step, r.layer) ∈ x'.win.overs) ∧
      (kind = 2 → (∀ u ∈ s.bslots, u.ctx = c → u.step = step ∧ u.bucket = b) → Answers (exec (.commit p) s) fun s' =>
        (linkOf s' p).urg = rest ∧ findSlot s' c step b = none ∧
        (∃ x' : Ctx, ctxOf s' c = some x' ∧ committed x'.win (orderIx pl step b) = true) ∧
        let i := reductionTile (gridW s) p 0
        tabGet (tileOf s' i).awn.inq 13 [] ++ tabGet (tileOf s' i).awnSrc 13 [] =
          tabGet (tileOf s i).awn.inq 13 [] ++ tabGet (tileOf s i).awnSrc 13 [] ++ (convTasks x pl e).map (fun v =>
          ⟨ixX v.2.2.tile, ixY v.2.2.tile, epochNow s c, c, stepTid (BitVec.ofNat 20 e.ctid) step, 1, i, false, .token⟩))) ∧
    (kind = 3 → (∀ u ∈ s.bslots, u.ctx ≠ c) → exec (.chunkAck p) s =
      .next { s1 with links := tabMap s1.links (fun _ k => { k with store := k.store.filter (fun h => !heldIs f l h) }) }) ∧
    (∀ (q : Nat) (lq : PortLink) (h : HeldFrame) (l1 l2 : Tab PortLink), kind = 4 → s1.links = l1 ++ (q, lq) :: l2 →
      lq.store.filter (heldIs f l) = [h] → (∀ r ∈ l1 ++ l2, r.2.store.filter (heldIs f l) = []) →
      exec (.resend p) s = .next (requeue s1 q h)) ∧
    (∀ (q n : Nat) (h : HeldFrame), (linkOf s q).store[n]? = some h →
      exec (.winnowFrameResendTimeout q n) s = .next (pumpPort (updLink s q (fun l => { l with outq := l.outq ++ [h.f] })) q))

/-- Winnow's data and control frames: the two parts above. -/
def Obligations.WinnowReception : Prop := WinnowInputs ∧ WinnowControl

/-- NORM_PASS_START, NORM and CLIP (R319 to R321): rank 0 begins with its total; a later rank adds its own to the total that came, rounded
once, and joins the verdicts by OR and by minimum, and sends them on; CLIP gives a rank T2 and the verdicts, and the clip factor of the
step with whether T2 was finite. -/
def Sys2Proof.Claim.NormPass : Prop :=
  ∀ (s : State) (c : BitVec 8) (x : Ctx) (pl : Plan) (step : W32) (n : NormSt) (l : ClipLatch), ctxOf s c = some x → x.win.plan = some pl →
    x.reset = none → x.win.pubs = [] → clipLatch x step = some l →
    (pl.myRank = 0 → 1 < pl.ranks.length → normOf x step = none → normReady s c x pl step = true →
      let t := updNorm (updNorm x step (fun n => { n with started := true })) step (fun n => { n with sent := true })
      exec (.normPassStart c step) s = .next (sendNorm (setCtx s c t) c pl 1 5 step (rankTotal x pl step, localVerdicts s c x pl step))) ∧
    (∀ (p : Nat) (f : RawFrame) (rest : List RawFrame), CtrlHead s p 5 f rest → hCtx f.hdr = c → hStep f.hdr = step → normOf x step = some n →
      n.started = true → n.sent = false → 0 < pl.myRank → pl.myRank + 1 < pl.ranks.length →
      let body := normBody f.payload
      let total := roundF fmtFP64 .rne (rne64 (fvAdd (decodeF fmtFP64 body.1) (decodeF fmtFP64 (rankTotal x pl step))))
      let vs := (body.2.zip (localVerdicts s c x pl step)).map (fun q =>
        ⟨q.1.ovf || q.2.ovf, q.1.under || q.2.under, min q.1.head q.2.head⟩)
      ∃ x' : Ctx, (normOf x' step).map (·.sent) = some true ∧ exec (.norm p) s =
        .next (sendNorm (setCtx (ctrlTaken s p f rest) c x') c pl (pl.myRank + 1) 5 step (total, vs))) ∧
    (∀ (p : Nat) (f : RawFrame) (rest : List RawFrame), CtrlHead s p 6 f rest → hCtx f.hdr = c → hStep f.hdr = step → l.factor = none →
      pl.ranks.length ≤ pl.myRank + 2 → Answers (exec (.clip p) s) fun s' => (linkOf s' p).urg = rest ∧
        ∃ x' : Ctx, ctxOf s' c = some x' ∧ (normOf x' step).bind (·.result) = some (normBody f.payload) ∧
          (clipLatch x' step).bind (·.factor) = some (w32 (clipFactor l.clipc.toNat (normBody f.payload).1), fin64 (normBody f.payload).1))

/-- EXPONENT_TABLE and EXPT_ACK (R323): the bytes of a PAR frame continue the bucket's table in the exponent area of its step, and the last
frame is answered with EXPT_ACK; once every other rank has answered, the bucket's version is the step. -/
def Sys2Proof.Claim.ExponentTables : Prop :=
  ∀ (s : State) (p : Nat) (f : RawFrame) (rest : List RawFrame) (x : Ctx) (pl : Plan) (e : PlanBucket), frameBucket s f = some (x, pl, e) →
    let c := hCtx f.hdr
    let step := hStep f.hdr
    let b := hBucket f.hdr
    ((linkOf s p).par = f :: rest → x.win.expRx = [] → hLast f.hdr = false → Answers (exec (.exponentTable p) s) fun s' =>
      (linkOf s' p).par = rest ∧ s'.hbm = (viewWrite s x (expOffset pl b step) ((payloadBytes f.payload).take e.nblk)).hbm ∧
      (ctxOf s' c).map (·.win.expRx) = some [(b, step, min e.nblk (64 * f.payload.length))]) ∧
    ((linkOf s p).par = f :: rest → x.win.expRx = [] → hLast f.hdr = true → Answers (exec (.exponentTable p) s) fun s' =>
      s'.hbm = (viewWrite s x (expOffset pl b step) ((payloadBytes f.payload).take e.nblk)).hbm ∧ (ctxOf s' c).map (·.win.expRx) = some []) ∧
    (CtrlHead s p 7 f rest → x.win.pubs = [⟨b, step, true, []⟩] → pl.ranks.length = 2 → pl.myRank < 2 →
      ctlSrc ((f.payload[0]?).getD 0) + pl.myRank = 1 → x.stook = none → Answers (exec (.exptAck p) s) fun s' =>
        ∃ x' : Ctx, ctxOf s' c = some x' ∧ tabFind x'.win.versions b = some step ∧ x'.win.pubs = [])

/-- The norm pass and the exponent tables: the two parts above. -/
def Obligations.NormsAndExponents : Prop := NormPass ∧ ExponentTables

namespace Sys2Proof.Claim

/-- A frame that the header checks of R352 pass, to this engine, with a good link word naming an existing pool. -/
structure FrameHere (s : State) (f : RawFrame) : Prop where
  word : lwOk f.lw = true
  kind : lwKind f.lw = 0
  pool : lwPool f.lw < 6
  form : hdrMalformed f = false
  here : hDst f.hdr = engineId s

/-- The engine frame at the head of a port die's queue: kind 0 is a stream credit, 1 to 4 the notices of R451. -/
structure EngHead (s : State) (p kind : Nat) (f : RawFrame) (rest : List RawFrame) : Prop where
  head : (linkOf s p).eng = f :: rest
  kind : (if hNline f.hdr = 0 then 0 else byteField ((f.payload[0]?).getD 0).toNat 12 12) = kind

/-- A notice at the head of a port die's engine frames that one context of this engine has not seen, from another engine. -/
structure NewNotice (s : State) (p kind : Nat) (n : PeerNotice) (c : BitVec 8) (x : Ctx) : Prop where
  head : ∃ f rest, EngHead s p kind f rest ∧ noticeOf f ((f.payload[0]?).getD 0).toNat = n
  names : ctxsNaming s n.sender n.ctx = [c]
  ctx : ctxOf s c = some x
  fresh : (n.origin.toNat, n.rno, kind) ∉ x.resetsSeen
  other : n.origin ≠ engineId s

end Sys2Proof.Claim

/-- The training rows (R346, R347): with spurs enabled a signal takes a Down link to Training and its spur to Training; the last link
trained takes the spur to Up; a link that does not train in time stays as it is; a lost lock, and a link control record missing for
too long, take a spur in service to Failed with nothing left in flight on its eight links. -/
def Sys2Proof.Claim.SpurTraining : Prop :=
  ∀ (s : State) (p : Nat), p < 64 → linksOn s = true →
    let j := p / 8
    let l := linkOf s p
    (l.train = .down → (spurOf s j).st ≤ 2 →
      Answers (exec (.linkRxSignalDetect p) s) fun s' => linkOf s' p = { l with train := .training } ∧ (spurOf s' j).st = 2 ∧
        ∀ q, q ≠ p → linkOf s' q = linkOf s q) ∧
    (l.train = .training → ((spurOf s j).st ≤ 2 ∨ (spurOf s j).st = 6) → (∀ q ∈ spurPorts j, q ≠ p → (linkOf s q).train = .trained) →
      Answers (exec (.linkTrained p) s) fun s' => linkOf s' p = { l with train := .trained } ∧ (spurOf s' j).st = 3 ∧
        ∀ q, q ≠ p → linkOf s' q = linkOf s q) ∧
    exec (.linkTrainingTimeout p) s = .next s ∧
    (∀ i : Instr, i = .linkLossOfLock p ∨ i = .linkControlSilenceTimeout p → l.train = .trained → 3 ≤ (spurOf s j).st → (spurOf s j).st ≤ 5 →
      Answers (exec i s) fun s' => (spurOf s' j).st = 6 ∧ ∀ q ∈ spurPorts j, linkOf s' q = { freshLink (linkOf s q) with train := .training })

/-- LINK_CONTROL_TIMER, LINK_CONTROL_RECORD and HOP_REPLAY_TIMEOUT (R353 to R355): the record sent carries the counts freed, ACKSEQ and NAK,
once; a record received sets the credits, drops the acknowledged frames from the replay store and, with NAK, sends the others again in
order, and so does the replay timeout; a record whose LCRC fails is ignored. -/
def Sys2Proof.Claim.LinkControl : Prop :=
  ∀ (s : State) (p : Nat), (linkOf s p).train = .trained → spurState s (p / 8) = 4 →
    let l := linkOf s p
    (Answers (exec (.linkControlTimer p) s) fun s' => ∃ r : Line,
      s' = setLink s p { l with ctl := l.ctl ++ [(mkLw 1 false 0 0, r)], nak := false } ∧
        (l.rxLast < 2 ^ 16 → bits r.toNat 63 48 = l.rxLast) ∧ bitOf r.toNat 40 = l.nak) ∧
    (∀ (lw : BitVec 64) (r : Line), lwOk lw = true → lwKind lw = 1 →
      (byteField r.toNat 63 60 = crc32c (toBytes 60 r.toNat) → l.outq = [] → Answers (exec (.linkControlRecord p lw r) s) fun s' =>
        let l' := linkOf s' p
        (∀ k, k < 6 → tabGet l'.peerFreed k 0 = bits r.toNat (399 + 16 * k) (384 + 16 * k)) ∧
        l'.replay = afterAck (byteField r.toNat 7 6) l.replay ∧
        l'.sentFrames = l.sentFrames ++ (if bitOf r.toNat 40 then afterAck (byteField r.toNat 7 6) l.replay else [])) ∧
      (byteField r.toNat 63 60 ≠ crc32c (toBytes 60 r.toNat) → exec (.linkControlRecord p lw r) s = .next s)) ∧
    (∀ (n : Nat) (l1 l2 : List RawFrame) (f : RawFrame), lwLseq f.lw = n → (∀ g ∈ l1, lwLseq g.lw ≠ n) → afterAck n (l1 ++ f :: l2) = l2) ∧
    exec (.hopReplayTimeout p) s = .next (setLink s p { l with sentFrames := l.sentFrames ++ l.replay })

/-- SPUR_FRAME_RECEIVE on an Attached spur (R355, R357 to R359, R367): a good sequenced frame with the next LSEQ, next in its stream, for a
context that owns the spur, is acknowledged and delivered; one with a later LSEQ, and one found bad, raise a NAK and are not accepted;
a Winnow data frame is delivered whatever its verdict, marked where it is bad; a frame of a stale EPOCH is not delivered. -/
def Sys2Proof.Claim.FrameReception : Prop :=
  ∀ (s : State) (p : Nat) (f : RawFrame) (fec : Bool), p < 64 → spurState s (p / 8) = 4 → FrameHere s f →
    let l := linkOf s p
    let fault := frameFault f fec
    (lwSq f.lw = true → lwLseq f.lw = (l.rxLast + 1) % 2 ^ 16 → hcrcOk f.hdr = true → isWinnowData f.lw f.hdr = false →
      (fault = false → hopBad f = false → endCheck s p f = none → seqAt s p f = .next → hCls f.hdr = 0xD →
        Answers (exec (.spurFrameReceive p f fec) s) fun s' => (linkOf s' p).rxLast = lwLseq f.lw ∧ (linkOf s' p).nak = false ∧
          (linkOf s' p).kernel = l.kernel ++ [f] ∧ seqNow (linkOf s' p).rx (rxKey f p) = (hSeq f.hdr + 1) % 2 ^ 32) ∧
      (fault = false → hopBad f = false → endCheck s p f = none → seqAt s p f = .old → Answers (exec (.spurFrameReceive p f fec) s) fun s' =>
        (linkOf s' p).rxLast = lwLseq f.lw ∧ (linkOf s' p).kernel = l.kernel ∧ (linkOf s' p).rx = l.rx) ∧
      (fault = true → Answers (exec (.spurFrameReceive p f fec) s) fun s' =>
        (linkOf s' p).nak = true ∧ (linkOf s' p).rxLast = l.rxLast ∧ (linkOf s' p).kernel = l.kernel) ∧
      (fault = false → hopBad f = false → ∀ x, ctxOf s (hCtx f.hdr) = some x → hEpoch f.hdr ≠ epochNow s (hCtx f.hdr) →
        Answers (exec (.spurFrameReceive p f fec) s) fun s' => (linkOf s' p).kernel = l.kernel ∧ (linkOf s' p).urg = l.urg ∧
          (linkOf s' p).par = l.par ∧ (swathOf s' p).fromSpur = (swathOf s p).fromSpur)) ∧
    (lwSq f.lw = true → 1 ≤ (2 ^ 16 + lwLseq f.lw - (l.rxLast + 1)) % 2 ^ 16 → (2 ^ 16 + lwLseq f.lw - (l.rxLast + 1)) % 2 ^ 16 < 2 ^ 15 →
      exec (.spurFrameReceive p f fec) s = .next (setLink s p { l with nak := true })) ∧
    (lwSq f.lw = false → isWinnowData f.lw f.hdr = true → hcrcOk f.hdr = true → endCheck s p f = none →
      Answers (exec (.spurFrameReceive p f fec) s) fun s' => (linkOf s' p).grd = l.grd ++
        [if fault || hopBad f then { f with trailer := setHopBad f.trailer } else f])

/-- Link control records and frames on an Attached spur: the two parts above. -/
def Obligations.SpurFrames : Prop := LinkControl ∧ FrameReception

/-- SPUR_ATTACH and SPUR_DETACH_DRAIN_TIMEOUT (R365, R366): a spur that is Up, whose neighbour is the one its enabled entry names, both with
an assigned ID, is Attached with all eight links begun anew and full pools, the frames already accepted still to be taken; another
neighbour leaves it Up; a commanded detach that runs out of time drops what remains and leaves the spur Up, with the frames already
accepted still to be taken. -/
def Sys2Proof.Claim.SpurAttachment : Prop :=
  (∀ (s : State) (j : Nat) (e : SpurEntry), spurEntry s j = some e → spurState s j = 3 → e.enable = true → s.cairn.engIdHi ≠ 0 →
    (spurOf s j).nbr.toNat / 16 ≠ 0 →
    ((spurOf s j).nbr = e.id → (spurOf s j).nbrSpur = e.spur →
      (∀ c x, ctxOf s c = some x → bindsOf s c = [] ∧ .spur j ∉ x.quiesced ∧ .spur j ∉ x.waiting ∧ ∀ r, x.reset = some r → r.cause ≠ 6) →
      Answers (exec (.spurAttach j) s) fun s' => (spurOf s' j).st = 4 ∧
        ∀ q ∈ spurPorts j, linkOf s' q = detachedLink (linkOf s q) ∧ ∀ k, credits (linkOf s' q) k = poolLines k) ∧
    (((spurOf s j).nbr ≠ e.id ∨ (spurOf s j).nbrSpur ≠ e.spur) → Answers (exec (.spurAttach j) s) fun s' =>
      s'.spurs = s.spurs ∧ s'.links = s.links)) ∧
  (∀ (s : State) (j : Nat), (spurOf s j).st = 5 → Answers (exec (.spurDetachDrainTimeout j) s) fun s' => (spurOf s' j).st = 3 ∧
    ∀ q ∈ spurPorts j, linkOf s' q = detachedLink (linkOf s q))

/-- How a spur trains, fails, attaches and detaches: the two parts above. -/
def Obligations.SpurStates : Prop := SpurTraining ∧ SpurAttachment

/-- STREAM_CREDIT, RECOVER, OUT_OF_SERVICE, REPAIR_WAIT and RESUME (R370, R441, R442, R451, R455, R457, R480): a credit goes to the binding
that feeds the entry of its TID; a notice sets the sender's EPOCH in the peer tables; RECOVER starts a partition reset with the
notice's origin and RNO and the next EPOCH, waiting for that origin's repair no longer; OUT_OF_SERVICE quiesces, REPAIR_WAIT puts in WAITING_REPAIR, RESUME of an origin that went
out of service lets a context with nothing unfinished go on, and resets one that has. -/
def Obligations.EngineNotices : Prop :=
  (∀ (s : State) (p : Nat) (f : RawFrame) (rest : List RawFrame) (b : Binding) (e : BlkEntry), EngHead s p 0 f rest →
    bindsOf s (hCtx f.hdr) = [b] → b.port = p → tabFind (swathOf s p).table b.entry = some e → e.ctx = hCtx f.hdr → e.tid.toNat = hTid f.hdr →
    Answers (exec (.streamCredit p) s) fun s' => (linkOf s' p).eng = rest ∧
      tabGet (linkOf s' p).fillCred b.entry 0 = tabGet (linkOf s p).fillCred b.entry 0 + 1) ∧
  (∀ (s : State) (p kind : Nat) (n : PeerNotice) (c : BitVec 8) (x : Ctx), NewNotice s p kind n c x →
    let told (x' : Ctx) := ∀ t, x'.peers = some t → ∀ q ∈ t.peers, q.engine = n.sender → q.ctx = n.ctx → q.epoch = n.epoch
    (kind = 1 → x.reset = none → c.toNat ∉ s.spaced → Answers (exec (.recover p) s) fun s' => ∃ x' r, ctxOf s' c = some x' ∧
      x'.reset = some r ∧ r.cause = 3 ∧ r.rno = n.rno ∧ r.origin = n.origin ∧ r.waitEpoch = false ∧ .peer n.origin ∉ x'.waiting ∧ told x' ∧
      epochNow s' c = (epochNow s c + 1) % 8) ∧
    (kind = 2 → Answers (exec (.outOfService p) s) fun s' => ∃ x', ctxOf s' c = some x' ∧ .peer n.origin ∈ x'.quiesced ∧ told x') ∧
    (kind = 3 → Answers (exec (.repairWait p) s) fun s' => ∃ x', ctxOf s' c = some x' ∧ .peer n.origin ∈ x'.waiting ∧ told x') ∧
    (kind = 4 → x.quiesced = [.peer n.origin] → x.waiting = [] → x.reset = none →
      (unfinished x = [] → Answers (exec (.resume p) s) fun s' => ∃ x', ctxOf s' c = some x' ∧ x'.quiesced = [] ∧ x'.reset = none ∧ told x') ∧
      (unfinished x ≠ [] → c.toNat ∉ s.spaced → Answers (exec (.resume p) s) fun s' => ∃ x' r, ctxOf s' c = some x' ∧ x'.quiesced = [] ∧
        x'.reset = some r ∧ r.cause = 5 ∧ r.origin = n.origin ∧ r.rno = n.rno ∧ epochNow s' c = (epochNow s c + 1) % 8)))

namespace Sys2Proof.Claim

/-- A record of a kind, for a context or none, stands in its log: the fault log below 0x1000, else the event log (R436, R437). -/
def HasRec (s : State) (kind : Nat) (ctx : Option (BitVec 8)) : Prop :=
  ∃ r ∈ (if kind < 0x1000 then s.faultLog.recs else s.eventLog.recs), r.kind = kind ∧ r.ctx = ctx

/-- A good datagram of a kind for this engine, on a port that carries frames. -/
structure EthHere (s : State) (port kind : Nat) (d : Dgram) : Prop where
  net : netOk s d = true
  good : dgOk d = true
  kind : dgKind d = kind
  here : hDst d.hdr = engineId s
  runs : ethRuns s port = true

/-- The payloads a sender's stream still holds, oldest first. -/
def inStream (s : State) (k : StreamKey) : List (List Line) :=
  ((ethStream s k).held ++ (ethStream s k).waiting).map (fun f => f.d.payload)

/-- No descriptor of a context with this count still runs. -/
def xferOver (s : State) (c : BitVec 8) (idx : Nat) : Prop := ∀ t ∈ s.eth.xfers, t.ctx = c → t.idx = idx → t.ended = true

/-- A descriptor with an operation is one that R376 allows, not a stook part. -/
structure XferDesc (x : Ctx) (v op len loff : Nat) : Prop where
  op : byteField v 35 35 = op
  flags : byteField v 34 34 = 0
  rsv : byteField v 33 0 = 0
  bytes : byteField v 47 44 = len
  start : byteField v 55 48 = loff
  room : len % 64 = 0 ∧ loff % 64 = 0 ∧ 64 ≤ len ∧ loff < 2 ^ 44 ∧ loff + len ≤ viewSz x

/-- The bytes of a storage write are on their way: its job stands, and every piece of 256 bytes is on the ring from its Saddle die to the
Crest die of its port, in class S. -/
def Fetched (s s' : State) (x : Ctx) (off : Nat) (j : PutJob) : Prop :=
  (0 < j.len → j ∈ s'.eth.jobs) ∧ ∀ n, n < ceilDiv j.len 256 → ∀ a, viewPhys x (off + 256 * n) = some a → ∃ f ∈ s'.ring,
    f.src = ringStop (a / 2 ^ 36) ∧ f.dst = crestStop (j.port / 16) ∧ f.cls = .s ∧
    f.body = .put j.no n (viewBytes s x (off + 256 * n) (min 256 (j.len - 256 * n)))

/-- The oldest flit of its flow stands at its destination with a piece of a job. -/
structure PieceHere (s : State) (n : Nat) (f : Flit) (j : PutJob) (m : Nat) (data : List Byte) : Prop where
  flit : s.ring[n]? = some f
  first : ∀ g ∈ s.ring.take n, sameFlow g f = false
  here : f.at_ = f.dst
  kind : f.cls = .s
  body : f.body = .put j.no m data
  job : s.eth.jobs.find? (fun q => q.no == j.no) = some j

/-- A job with one more piece. -/
def withPiece (j : PutJob) (m : Nat) (data : List Byte) (psn : Bool) : PutJob :=
  { j with got := j.got ++ [(m, data)], bad := if psn then j.bad ++ [m] else j.bad }

/-- The bytes of a job, in order. -/
def jobBytes (j : PutJob) : List Byte :=
  (List.range (ceilDiv j.len 256)).flatMap (fun n => ((j.got.find? (fun p => p.1 == n)).map (·.2)).getD [])

/-- The four rows by which a datagram arrives. -/
def dgramRow (port : Nat) (d : Dgram) (ecc : List (Nat × HbmEcc)) : List Instr :=
  [.ethData port d, .ethAck port d, .getreq port ⟨d, ecc⟩, .reject port d]

/-- Is an IPv4 or IPv6 address the one of a port's table entry? -/
def portHas (c : PortCfg) (v6 : Bool) (a : BitVec 128) : Prop :=
  if v6 = true then c.v6 = true ∧ c.ip6 = a else c.v4 = true ∧ c.ip4.toNat = a.toNat

end Sys2Proof.Claim

/-- ETH_DATA and GETREQ (R149, R373, R375, R377): a datagram in sequence that passes every check of R377 is accepted: its bytes go over
ring class I to their Saddle dies, or the bytes asked for are fetched over ring class S toward the requester; one that fails a check is
answered by REJECT with its XID and logged; one out of sequence, a duplicate among them, has no effect on memory and moves nothing on. A
packet that is a fragment, has IP options or goes to another UDP port, and a datagram with a reserved FMT, is dropped and counted. -/
def Obligations.EthernetArrivals : Prop :=
  ∀ (s : State) (port : Nat) (d : Dgram),
    let k := hdrKey d.hdr port
    let x := ethStream s k
    let line0 := ((d.payload[0]?).getD 0).toNat
    let off := line0 % 2 ^ 64
    let data := payloadBytes (d.payload.drop 1)
    (∀ c, EthHere s port 0 d → hSeq d.hdr = x.expect → ctxOf s (hCtx d.hdr) = some c → ethCheck s d.hdr off data.length = none →
      Answers (exec (.ethData port d) s) fun s' => (ethStream s' k).expect = (x.expect + 1) % 2 ^ 32 ∧
        ∀ j, j < ceilDiv data.length 256 → ∀ a, viewPhys c (off + 256 * j) = some a → ∃ f ∈ s'.ring,
          f.src = crestStop (port / 16) ∧ f.dst = ringStop (a / 2 ^ 36) ∧ f.cls = .i ∧
          f.body = .hbmWrite (hCtx d.hdr) (off + 256 * j) ((data.drop (256 * j)).take 256) (hEpoch d.hdr)) ∧
    (∀ c q, EthHere s port 2 d → hSeq d.hdr = x.expect → ethCheck s d.hdr off (bits line0 159 128) = none → ctxOf s (hCtx d.hdr) = some c →
      peerOf c (hSrc d.hdr) = some q → ∀ ecc : List (Nat × HbmEcc), Answers (exec (.getreq port ⟨d, ecc⟩) s) fun s' => Fetched s s' c off
        ⟨s.eth.nextJob, .peer, hSrc d.hdr, q.ctx, q.epoch, port, dgXid d, bits line0 127 64, bits line0 159 128, [], []⟩) ∧
    (∀ ecc : List (Nat × HbmEcc), ∀ i ∈ dgramRow port d ecc, (netOk s d = false → exec i s = .next (ethDrop s)) ∧
      (14 ≤ hFmt d.hdr → Answers (exec i s) fun s' => s'.eth.dropped = s.eth.dropped + 1 ∧ s'.eth.streams = s.eth.streams ∧ s'.ring = s.ring ∧
        s'.hbm = s.hbm)) ∧
    (∀ (i : Instr) (kind n r : Nat) (ecc : List (Nat × HbmEcc)),
      (i = .ethData port d ∧ kind = 0 ∧ n = data.length ∨ i = .getreq port ⟨d, ecc⟩ ∧ kind = 2 ∧ n = bits line0 159 128) →
      EthHere s port kind d →
      (hSeq d.hdr = x.expect → ethCheck s d.hdr off n = some r → Answers (exec i s) fun s' => s'.ring = s.ring ∧ s'.hbm = s.hbm ∧
        HasRec s' 0x1001 (some (hCtx d.hdr)) ∧ ∃ (udp : Nat) (q : Dgram), .dgram port udp q ∈ s'.eth.out ∧ dgKind q = 3 ∧ dgXid q = dgXid d ∧
          hDst q.hdr = hSrc d.hdr) ∧
      (hSeq d.hdr ≠ x.expect → Answers (exec i s) fun s' => s'.ring = s.ring ∧ s'.hbm = s.hbm ∧ s'.ctxs = s.ctxs ∧
        (ethStream s' k).expect = x.expect)) ∧
    (∀ n, (ethCheck s d.hdr off n = none ↔ ∃ c q, ctxOf s (hCtx d.hdr) = some c ∧ peerOf c (hSrc d.hdr) = some q ∧
      hEpoch d.hdr = epochNow s (hCtx d.hdr) ∧ freeArea ≤ off ∧ off + n ≤ viewSz c ∧
      ∀ i, i < ceilDiv n 64 → ∃ a, viewPhys c (off + 64 * i) = some a ∧
        tabFind (saddleOf s (a / 2 ^ 36)).owner (a % 2 ^ 36 / 2 ^ 27) = some (hCtx d.hdr)))

/-- ETH_ACK, ETH_ACK_TIMER, ETH_RESEND_TIMEOUT, XRING_POLL and REJECT (R375, R376, R377): an ACK releases the frames it covers and, with its
last one, ends a PUT; the receiver's ACK names the last SEQ accepted; frames without an ACK are resent from the oldest, and after 8
resends the stream is broken with the transfers on it failed and the failure logged; a new PUT descriptor fetches its bytes over ring
class S and a GET descriptor sends its request; once every piece has come a PUT's frames leave, and a poisoned piece fails an own
descriptor; a REJECT ends the descriptor of its stream and XID. -/
def Sys2Proof.Claim.EthernetTransfers : Prop :=
  (∀ (s : State) (port : Nat) (d : Dgram), EthHere s port 1 d →
    let k := backKey d.hdr port
    let x := ethStream s k
    Answers (exec (.ethAck port d) s) fun s' =>
      inStream s' k = ((x.held.filter (fun f => !seqCovered (dgArg d) f.seq)) ++ x.waiting).map (fun f => f.d.payload) ∧
      ∀ f c n t y, x.held = [f] → f.own = .xfer c n → seqCovered (dgArg d) f.seq = true → ctxOf s c = some y →
        s.eth.xfers.find? (fun t => t.ctx == c && t.idx == n && !t.ended) = some t → t.left = 1 → xferOver s' c n) ∧
  (∀ (s : State) (n : Nat) (x : EthStream), s.eth.streams[n]? = some x → ethRuns s (streamPort x.key) = true →
    (x.unacked ≠ 0 → Answers (exec (.ethAckTimer n) s) fun s' => (ethStream s' x.key).unacked = 0 ∧ ∃ (udp : Nat) (q : Dgram),
      s'.eth.out = s.eth.out ++ [.dgram (streamPort x.key) udp q] ∧ dgKind q = 1 ∧ dgArg q = (2 ^ 32 + x.expect - 1) % 2 ^ 32) ∧
    (∀ f rest, x.held = f :: rest → f.resends < 8 → Answers (exec (.ethResendTimeout n) s) fun s' =>
      s'.eth.out = s.eth.out ++ x.held.map (fun f => .dgram (streamPort x.key) (udpSource f.d) (netWrap s (streamPort x.key) f.d))) ∧
    (∀ f rest, x.held = f :: rest → 8 ≤ f.resends → Answers (exec (.ethResendTimeout n) s) fun s' =>
      (ethStream s' x.key).broken = true ∧ inStream s' x.key = [] ∧ HasRec s' 0x1401 none ∧
      ∀ t ∈ s.eth.xfers, ∀ y, t.ended = false → t.key = some x.key → ctxOf s t.ctx = some y → xferOver s' t.ctx t.idx)) ∧
  (∀ (s : State) (c : BitVec 8) (x : Ctx) (r : Nat × Nat) (ecc : List (Nat × HbmEcc)), ctxOf s c = some x → ringOf x = some r → x.xrd < 2 ^ 32 →
    let v := viewRead s x (descAt r x.xrd) 64
    let dest : BitVec 24 := BitVec.ofNat 24 (byteField v 43 40)
    let rctx : BitVec 8 := BitVec.ofNat 8 (byteField v 43 40 / 2 ^ 24)
    (viewRead s x r.1 4 = x.xrd → exec (.xringPoll ⟨c, ecc⟩) s = .next s) ∧
    (∀ op len loff e q, 0 < r.2 → viewRead s x r.1 4 = (x.xrd + 1) % 2 ^ 32 → XferDesc x v op len loff →
      endpointOf s dest (fun _ => true) = some e → peerOf x dest = some q →
      let k := ethKey (engineId s) dest rctx 0xD q.epoch e.port
      (ethStream s k).broken = false →
      (op = 1 → Answers (exec (.xringPoll ⟨c, ecc⟩) s) fun s' => ((ctxOf s' c).map (·.xrd)) = some ((x.xrd + 1) % 2 ^ 32) ∧
        Fetched s s' x loff ⟨s.eth.nextJob, .xfer c x.xrd, dest, rctx, q.epoch, e.port, x.xrd % r.2, byteField v 63 56, len, [], []⟩) ∧
      (op = 2 → Answers (exec (.xringPoll ⟨c, ecc⟩) s) fun s' => ((ctxOf s' c).map (·.xrd)) = some ((x.xrd + 1) % 2 ^ 32) ∧
        inStream s' k = inStream s k ++ [[BitVec.ofNat 512 (byteField v 63 56 + 2 ^ 64 * loff + 2 ^ 128 * len)]]))) ∧
  (∀ (s : State) (n : Nat) (f : Flit) (j : PutJob) (m : Nat) (data : List Byte) (ok : Bool), PieceHere s n f j m data →
    let j' := withPiece j m data f.psn
    let k := ethKey (engineId s) j.remote j.ctx 0xD j.epoch j.port
    (j'.got.length ≠ ceilDiv j.len 256 → Answers (exec (.ringFlit n ok) s) fun s' => j' ∈ s'.eth.jobs ∧ s'.eth.streams = s.eth.streams) ∧
    (j'.got.length = ceilDiv j.len 256 →
      (j.own = .peer ∨ (∃ c i t, j.own = .xfer c i ∧ j'.bad = [] ∧ t ∈ s.eth.xfers ∧ t.ctx = c ∧ t.idx = i ∧ t.ended = false) →
        Answers (exec (.ringFlit n ok) s) fun s' => inStream s' k = inStream s k ++
          (putFrames (blkHdr s j.remote j.ctx j.epoch false 0) j.xid j.raddr (jobBytes j') j'.bad).map (·.payload)) ∧
      (∀ c i y, j.own = .xfer c i → j'.bad ≠ [] → ctxOf s c = some y → Answers (exec (.ringFlit n ok) s) fun s' => xferOver s' c i))) ∧
  (∀ (s : State) (port : Nat) (d : Dgram) (t : Transfer) (x : Ctx) (r : Nat × Nat), EthHere s port 3 d → s.eth.xfers = [t] → ctxOf s t.ctx = some x →
    ringOf x = some r → t.stook = false → t.key = some (backKey d.hdr port) → t.idx % r.2 = dgXid d →
    Answers (exec (.reject port d) s) fun s' => xferOver s' t.ctx t.idx)

/-- LLDP_TRANSMIT, LLDP_RECEIVE, NEIGHBOUR_REQUEST, ICMP_ECHO, ETH_LINK_CHANGE, OSFP_INSERT and OSFP_REMOVE (R373, R380, R487): a port sends
LLDP with its five TLVs and keeps those of the five kinds that it received; it answers for its own address with its own MAC address and for no other; a changed link and a
removed module set ETH_CHG; a module of a higher power class keeps its ports down. -/
def Sys2Proof.Claim.EthernetPorts : Prop :=
  ∀ (s : State) (p : Nat), p < 64 →
    let sent (o : EthOut) : State := { s with eth := { s.eth with out := s.eth.out ++ [o] } }
    (ethRuns s p = true → exec (.lldpTransmit p) s = .next (sent (.lldp p ([1, 2, 3, 4, 5].map (fun t => (t, Config.lldpTlv t p)))))) ∧
    (∀ tlvs, s.module.pgMain = true → (ethPort s p).up = true → Answers (exec (.lldpReceive p tlvs) s) fun s' =>
      (ethPort s' p).up = true ∧ (∀ q, q ≠ p → ethPort s' q = ethPort s q) ∧
      ∀ ts : List (Nat × List Byte), (∀ t ∈ ts, 0 < t.1 ∧ t.1 < 128 ∧ t.2.length < 512) → tlvs = ts.flatMap lldpBytes ++ [0, 0] →
        (ethPort s' p).lldp = (ts.filter (fun t => decide (t.1 ≤ 5))).flatMap lldpBytes) ∧
    (∀ v6 a data e, ethRuns s p = true → ethCfg s p = some e →
      (portHas e v6 a → exec (.neighbourRequest p v6 a data) s = .next (sent (.neighbour p (Config.baseMac + BitVec.ofNat 48 p) data)) ∧
        exec (.icmpEcho p v6 a data) s = .next (sent (.echo p data))) ∧
      (¬ portHas e v6 a → exec (.neighbourRequest p v6 a data) s = .next s ∧
        exec (.icmpEcho p v6 a data) s = .next { s with eth := { s.eth with dropped := s.eth.dropped + 1 } })) ∧
    (∀ up, (ethPort s p).up ≠ up → (up = true → s.module.pgMain = true ∧ ethExists s p = true ∧ cageOf s (p / 8) = ⟨true, true⟩) →
      Answers (exec (.ethLinkChange p up) s) fun s' => (ethPort s' p).up = up ∧ s'.pcie.evtStat &&& 2 = 2 ∧
        ∀ q, q ≠ p → ethPort s' q = ethPort s q) ∧
    (∀ high, Answers (exec (.osfpInsert (p / 8) high) s) fun s' => cageOf s' (p / 8) = ⟨true, !high⟩ ∧ (ethPort s' p).up = false ∧
      (high = true → s'.pcie.evtStat &&& 2 = 2)) ∧
    Answers (exec (.osfpRemove (p / 8)) s) fun s' => cageOf s' (p / 8) = ⟨false, false⟩ ∧ (ethPort s' p).up = false ∧
      ((ethPort s p).up = true → s'.pcie.evtStat &&& 2 = 2)

/-- Transfers over Ethernet and the ports themselves: the two parts above. -/
def Obligations.EthernetService : Prop := EthernetTransfers ∧ EthernetPorts

namespace Sys2Proof.Claim

/-- The stook of a context that is Open at a step, with what its PUTs need: the endpoint entry on a side and its stream, unbroken. -/
structure StookOut (s : State) (c : BitVec 8) (x : Ctx) (k : Stook) (key : StreamKey) : Prop where
  ctx : ctxOf s c = some x
  stook : x.stook = some k
  ends : ∃ d e q, stookSide s k.ep (homeSaddle x / 6) = some d ∧ endpointOf s k.ep (fun p => decide (p / 16 = d)) = some e ∧
    peerOf x k.ep = some q ∧ key = ethKey (engineId s) k.ep c 0xD q.epoch e.port
  whole : (ethStream s key).broken = false

/-- What one PUT of bytes at a store address carries, frame by frame. -/
def putLines (a : Nat) (data : List Byte) : List (List Line) := (putFrames ⟨0, 0, 0, 0, 0, 0, 0, false, false, false, false, 0, 0, 0, 0, 0⟩ 0 a data []).map (·.payload)

/-- The oldest stook part that a context's ring holds, with its structure. -/
structure PartHead (s : State) (c : BitVec 8) (x : Ctx) (t : Transfer) (b : List Byte) : Prop where
  ctx : ctxOf s c = some x
  first : s.eth.xfers.find? (fun t => t.ctx == c && t.stook && !t.ended) = some t
  alone : ∀ u ∈ s.eth.xfers, u.ctx = c → u = t
  bytes : viewBytes s x t.loff t.len = b

/-- The one message that a channel's core holds, ready to be processed, its replies read, with no assembly begun. -/
structure Head (s : State) (n : Nat) (m : Msg) : Prop where
  now : headMsg s n = some m
  only : (chanOf s n).queue = [m]
  read : (chanOf s n).replyValid = false ∧ (chanOf s n).replies = []
  quiet : (chanOf s n).irq = 0

/-- The channel's reply registers hold the reply to a message (R397, R400), which is off the queue and in the journal (R404). -/
def Replied (s' : State) (n : Nat) (m : Msg) (status detail : Nat) (body : List W32) : Prop :=
  let c := chanOf s' n
  c.queue = [] ∧ c.replyValid = true ∧ c.rseq = m.seq ∧ tabGet c.reply 0 0 = w32 (2 ^ 16 * detail + status) ∧ tabGet c.reply 1 0 = m.cseq ∧
    (∀ i, i < body.length → tabGet c.reply (i + 2) 0 = (body[i]?).getD 0) ∧ ∃ j ∈ c.journal, j.cseq = m.cseq

end Sys2Proof.Claim

/-- STOOK_PART, STOOK_MANIFEST_PUT and STOOK_SEAL_PUT (R470, R471, R476, R477): a valid part is held and its descriptor done; one that breaks
the rules fails; the manifest, and once it is acknowledged the seal line, go to the store as PUTs of the stook's address. -/
def Obligations.StookParts : Prop :=
  (∀ (s : State) (c : BitVec 8) (x : Ctx) (t : Transfer) (b : List Byte), PartHead s c x t b →
    (partOk t b = true → (∀ p ∈ x.parts, p.step.toNat ≠ t.raddr % 2 ^ 32) → (∀ p ∈ s.chans, p.2.await ≠ some (.verify c)) →
      Answers (exec (.stookPart c) s) fun s' => xferOver s' c t.idx ∧ ∃ x' p, ctxOf s' c = some x' ∧ p ∈ x'.parts ∧
        p.isSeal = decide (bits t.raddr 39 32 = 2) ∧ p.step = BitVec.ofNat 32 t.raddr ∧ p.data = b) ∧
    (partOk t b = false → Answers (exec (.stookPart c) s) fun s' => xferOver s' c t.idx ∧ s'.ctxs = s.ctxs)) ∧
  (∀ (s : State) (c : BitVec 8) (x : Ctx) (k : Stook) (key : StreamKey), StookOut s c x k key →
    (∀ pl, x.win.plan = some pl → k.st = .opened → k.manifestSent = false → k.parts = true → k.boundary = true → k.unacked = 0 →
      (∀ p ∈ ownedBuckets pl, p.1 ∈ k.emitted) → Answers (exec (.stookManifestPut c) s) fun s' =>
        inStream s' key = inStream s key ++ putLines k.base.toNat (manifest s pl k) ∧
        ((ctxOf s' c).bind (·.stook)).map (·.manifestSent) = some true) ∧
    (k.st ≠ .opened ∨ k.manifestSent = true ∨ k.parts = false ∨ k.boundary = false ∨ k.unacked ≠ 0 →
      exec (.stookManifestPut c) s = .next s) ∧
    (∀ p, sealOf x k.step = some p → k.st = .complete → k.sealSent = false → Answers (exec (.stookSealPut c) s) fun s' =>
      inStream s' key = inStream s key ++ putLines ((k.base.toNat + 0x1000) % 2 ^ 64) (sealBytes k.step (p.data.take 4)) ∧
      ((ctxOf s' c).bind (·.stook)).map (·.sealSent) = some true)) ∧
  (∀ (step : W32) (loss : List Byte), loss.length = 4 →
    sealBytes step loss = toBytes 4 0xA7E50E02 ++ toBytes 4 step.toNat ++ loss ++
      toBytes 8 (crc64 (toBytes 4 0xA7E50E02 ++ toBytes 4 step.toNat ++ loss)) ++ List.replicate 44 0)

/-- MBX_GO, MBX_TAKE, MBX_TIMEOUT and STAGED_PART (R392, R398 to R404): GO posts a message while the channel is free and has no effect
otherwise, a poisoned write is dropped and reported; a take copies it, frees the channel and marks it late if it had timed out; a timed-out message stays; a repeated client
sequence number is answered DUPLICATE with the original reply; an unknown code is refused; a staged part is appended or refused. -/
def Obligations.MailboxMessages : Prop :=
  ∀ (s : State) (n : Nat),
    let c := chanOf s n
    (∀ v : W32, chanReach s n = true →
      (isSecure n = false → exec (.mbxGo n ⟨v, true⟩) s = .next { s with pcie := { s.pcie with nonFatal := s.pcie.nonFatal + 1 } }) ∧
      (c.busy = true → exec (.mbxGo n ⟨v, false⟩) s = .next s) ∧
      (c.busy = false → Answers (exec (.mbxGo n ⟨v, false⟩) s) fun s' =>
        let c' := chanOf s' n
        c'.seq = bits v.toNat 15 8 ∧ c'.short = bitOf v.toNat 1 ∧ c'.data = c.data ∧ c'.busy = bitOf v.toNat 0 ∧
        (bitOf v.toNat 0 = true → c'.tmoLatched = c.tmo ∧ ∀ k, chanSteward n = some k → (stewardOf s' k).awake = true))) ∧
    (c.busy = true → c.timedOut = false → c.tmoLatched ≠ 0 → Answers (exec (.mbxTimeout n) s) fun s' =>
      (chanOf s' n).busy = true ∧ (chanOf s' n).timeout = true ∧ (chanOf s' n).tseq = c.seq ∧ (chanOf s' n).data = c.data) ∧
    (c.tmoLatched = 0 ∨ c.busy = false → exec (.mbxTimeout n) s = .next s) ∧
    (c.busy = true → served s n = true → (∀ k, chanSteward n = some k → (stewardOf s k).awake = true) → c.await = none →
      (8 ≤ c.queue.length + c.replies.length → exec (.mbxTake n) s = .next s) ∧
      (c.queue = [] → c.replies = [] → c.irq = 0 →
        let m := msgOf c (s.takeNo + 1)
        (c.journal.find? (fun j => j.cseq == m.cseq) = none → knownCode s m.code = true → Answers (exec (.mbxTake n) s) fun s' =>
          (chanOf s' n).queue = [m] ∧ (chanOf s' n).busy = false ∧ (chanOf s' n).taken = true ∧ (chanOf s' n).tseq = c.seq ∧
          (chanOf s' n).late = (c.late || c.timedOut) ∧ s'.takeNo = s.takeNo + 1) ∧
        (∀ j, c.replyValid = false → c.journal.find? (fun j => j.cseq == m.cseq) = some j → Answers (exec (.mbxTake n) s) fun s' =>
          (chanOf s' n).queue = [] ∧ (chanOf s' n).replyValid = true ∧ tabGet (chanOf s' n).reply 0 0 = 0x202 ∧
          (j.body.length ≤ 13 → tabGet (chanOf s' n).reply 15 0 = w32 (2 ^ 16 * j.detail + j.status))) ∧
        (c.replyValid = false → c.asm = none → c.journal.find? (fun j => j.cseq == m.cseq) = none → knownCode s m.code = false →
          Answers (exec (.mbxTake n) s) fun s' => Replied s' n m 0x101 0 []))) ∧
    (∀ m, Head s n m → staged m = true → more m = true → preCheck s n m = none → (∀ y, c.asm = some y → y.code = m.code) →
      (m.code = 0x0902 → isSecure n = true ∧ bitOf (argN m 2) 31 = false ∧ inDest m = 0) → (m.code = 0x0F01 → inDest m = 0 ∧ 16385 ≤ inTotal m) →
      (∀ y, addPart c m = some y → asmHeld s n + inPartLen m ≤ stewardAsmMax →
        Answers (exec (.stagedPart n) s) fun s' => (chanOf s' n).asm = some y ∧ Replied s' n m 1 0 [w32 y.data.length]) ∧
      (addPart c m = none → Answers (exec (.stagedPart n) s) fun s' => (chanOf s' n).asm = none ∧ Replied s' n m 0x102 0xF1 [])) ∧
    (∀ m, Head s n m → staged m = true → more m = true → preCheck s n m = none → m.code = 0x0902 → isSecure n = false →
      Answers (exec (.stagedPart n) s) fun s' => Replied s' n m 0x104 0 [])

/-- MGMT_UDP_REQUEST, MGMT_I3C_WRITE, REGISTER_WRITE, DOORBELL_WRITE, EVT_EN_WRITE, MSIX_UNMASK and CONFIGURATION_REQUEST (R379 to R382, R391,
R396, R486): the management port reads and writes a secure channel's registers; only aligned 4-byte writes over PCI Express take
effect, and none to MBX_DATA while BUSY, nor one that is poisoned; RW1C bits of EVT_STAT clear; a doorbell of a context opened through
the PF is queued whatever its value, one that finds the FIFO full sets DB_OVF; a configuration request is answered with the item's value
once the engine is ready, and before that with retry status; an enabled bit that is set and an unmasked vector with its pending bit send their message. -/
def Obligations.HostRegisters : Prop :=
  (∀ (s : State) (addr : Nat) (v : W32) (tag : BitVec 64), addr < 2 ^ 16 → chanReach s (312 + addr / 2 ^ 12) = true →
    let n := 312 + addr / 2 ^ 12
    exec (.mgmtUdpRequest 1 addr v tag) s = .next { s with mgmtOut := s.mgmtOut ++ [.answer 1 addr (chanRead s n (addr % 2 ^ 12)) tag] } ∧
    (addr % 2 ^ 12 < 0x40 → addr % 4 = 0 → (chanOf s n).busy = false →
      (Answers (exec (.mgmtUdpRequest 2 addr v tag) s) fun s' => chanRead s' n (addr % 2 ^ 12) = v ∧
        s'.mgmtOut = s.mgmtOut ++ [.answer 2 addr v tag]) ∧
      Answers (exec (.mgmtI3cWrite addr [v]) s) fun s' => chanRead s' n (addr % 2 ^ 12) = v ∧ s'.mgmtAddr = addr ∧ mgmtI3cRead s' 0 = v)) ∧
  (∀ (s : State) (fn off : Nat) (v : W32) (size : Nat), s.pcie.linkUp = true →
    (∀ i ∈ [Instr.registerWrite fn off ⟨v, true⟩ size, .doorbellWrite (BitVec.ofNat 8 fn) ⟨v, true⟩, .evtEnWrite ⟨v, true⟩, .msixUnmask fn ⟨off, true⟩],
      exec i s = .next { s with pcie := { s.pcie with nonFatal := s.pcie.nonFatal + 1 } }) ∧
    (size ≠ 4 ∨ off % 4 ≠ 0 → exec (.registerWrite fn off ⟨v, false⟩ size) s = .next s) ∧
    (∀ n, n < 64 → off / 2 ^ 12 = n → off % 2 ^ 12 < 0x40 → off % 4 = 0 →
      ((chanOf s n).busy = true → exec (.registerWrite 0 off ⟨v, false⟩ 4) s = .next s) ∧
      ((chanOf s n).busy = false → exec (.registerWrite 0 off ⟨v, false⟩ 4) s =
        .next (setChan s n { chanOf s n with data := tabPut (chanOf s n).data (off % 2 ^ 12 / 4) 0 v }))) ∧
    exec (.registerWrite 0 0x60000 ⟨v, false⟩ 4) s = .next { s with pcie := { s.pcie with evtStat := s.pcie.evtStat &&& (0x7F - v.toNat % 128) } } ∧
    exec (.registerWrite 0 0x60004 ⟨v, false⟩ 4) s = exec (.evtEnWrite ⟨v, false⟩) s) ∧
  (∀ (s : State) (c : BitVec 8) (v : W32) (x : Ctx), s.pcie.linkUp = true → ctxOf s c = some x →
    (x.window = true → s.pcie.fifo.length < 1024 → Answers (exec (.doorbellWrite c ⟨v, false⟩) s) fun s' =>
      s'.pcie.fifo = s.pcie.fifo ++ [⟨c, v⟩] ∧ (stewardOf s' (c.toNat % 4)).awake = true) ∧
    (x.window = true → 1024 ≤ s.pcie.fifo.length → Answers (exec (.doorbellWrite c ⟨v, false⟩) s) fun s' =>
      s'.pcie.fifo = s.pcie.fifo ∧ s'.pcie.evtStat &&& 64 = 64) ∧
    (x.window = false → Answers (exec (.doorbellWrite c ⟨v, false⟩) s) fun s' => s'.pcie.fifo = s.pcie.fifo ∧ HasRec s' 0x1403 (some c))) ∧
  (∀ (s : State) (v : W32) (fn n : Nat), s.pcie.linkUp = true →
    (Answers (exec (.evtEnWrite ⟨v, false⟩) s) fun s' => s'.pcie.evtEn = v.toNat % 128 ∧
      ((tabGet s.pcie.vecs 64 MsixVec.init).masked = false → s'.msiOut = s.msiOut ++
        (if s.pcie.evtStat &&& v.toNat % 128 &&& (0x7F - (s.pcie.evtEn &&& 0x7F)) = 0 then [] else [(0, 64)]))) ∧
    (fn ≤ 62 → n < vecCount fn → let u := tabGet s.pcie.vecs (128 * fn + n) MsixVec.init
      Answers (exec (.msixUnmask fn ⟨n, false⟩) s) fun s' => (tabGet s'.pcie.vecs (128 * fn + n) MsixVec.init).masked = false ∧
        s'.msiOut = s.msiOut ++ (if u.masked && u.pend then [(fn, n)] else [])) ∧
    (∀ item, fn ≤ 62 → exec (.configurationRequest ⟨fn, item⟩) s = .next { s with cfgOut := s.cfgOut ++ [(fn, item,
      if s.cairn.compOk = true ∨ s.cairn.engState = 15 then some (cfgValue s fn item) else none)] }) ∧
    (cfgValue s 0 .device = (if s.dev.gradeF then 0x8200 else 0x8201) ∧ cfgValue s 0 .totalVfs = 62 ∧ cfgValue s 0 (.capability .sriov) = 1 ∧
      (0 < fn → cfgValue s fn .device = 0x8202 ∧ cfgValue s fn (.capability .sriov) = 0) ∧ cfgValue s fn .classCode = 0x120000 ∧
      cfgValue s fn .maxPayload = 512 ∧ cfgValue s fn .serialNumber = s.shadow.serial.toNat ∧
      cfgValue s fn .aerUncorrectable = s.pcie.aerStatus.toNat)) ∧
  (∀ s : State, s.pcie.linkUp = true → regRead s 0 0x50010 4 = some (w32 s.cairn.engState) ∧ regRead s 0 0x5000C 4 = some ((engineId s).setWidth 32) ∧
    regRead s 0 0x60000 4 = some (w32 s.pcie.evtStat) ∧ ∀ size, size ≠ 4 → regRead s 0 0x50010 size = none)

/-- DOORBELL_EXTEND, DOORBELL_NOTIFY, DOORBELL_SCHED_KICK and BAR2_WRITE (R383, R414): the steward takes a context's oldest doorbell; EXTEND adds
its instances to the submission accepted last or is refused and logged, also where the context has closed; a value with another
operation is dropped and logged; NOTIFY raises the completion interrupt while the ring holds
unread records; SCHED_KICK releases the buckets whose entry is now written; a write to BAR2 goes to HBM where R383 allows it, and is
dropped and logged elsewhere. -/
def Obligations.DoorbellsAndWindow : Prop :=
  (∀ (s : State) (c : BitVec 8) (x : Ctx) (v : W32) (rest : List Bell), s.pcie.fifo = ⟨c, v⟩ :: rest → ctxOf s c = some x →
    stewardServes s (c.toNat % 4) = true → (stewardOf s (c.toNat % 4)).awake = true →
    (∀ b, v.toNat / 2 ^ 28 = 1 → x.subs.getLast? = some b → b.no + 1 = x.nextSub →
      let m := v.toNat % 2 ^ 28
      (b.finished = false → b.cancelling = false → m ≠ 0 → b.count + m < 2 ^ 32 → (∀ u ∈ x.subs, u.no = b.no → u = b) →
        Answers (exec (.doorbellExtend c) s) fun s' => s'.pcie.fifo = rest ∧
          ∃ x' b', ctxOf s' c = some x' ∧ x'.subs.getLast? = some b' ∧ b' = { b with count := b.count + m }) ∧
      (b.finished = true ∨ m = 0 ∨ 2 ^ 32 ≤ b.count + m → Answers (exec (.doorbellExtend c) s) fun s' => s'.pcie.fifo = rest ∧
        s'.ctxs = s.ctxs ∧ HasRec s' 0x1403 (some c))) ∧
    (v.toNat / 2 ^ 28 = 2 → x.opener = .pf → (tabGet s.pcie.vecs x.vector MsixVec.init).masked = false →
      Answers (exec (.doorbellNotify c) s) fun s' => s'.pcie.fifo = rest ∧
        s'.msiOut = s.msiOut ++ (if viewRead s x cbCrWr 4 = viewRead s x cbCrRd 4 then [] else [(0, x.vector)])) ∧
    (∀ l r, v.toNat / 2 ^ 28 = 3 → x.sched = [l] → l.rho = none → l.saddle < 24 → schedNow s x l.step = some r →
      Answers (exec (.doorbellSchedKick c) s) fun s' => s'.pcie.fifo = rest ∧
        ∀ u ∈ s'.upd, u.ctx = c → u.step = l.step → u.saddle = l.saddle → u.st ≠ .sched)) ∧
  (∀ (s : State) (c : BitVec 8) (v : W32) (rest : List Bell), s.pcie.fifo = ⟨c, v⟩ :: rest → stewardAwake s (homeSteward c) = true →
    (v.toNat / 2 ^ 28 = 1 → ctxOf s c = none → Answers (exec (.doorbellExtend c) s) fun s' => s'.pcie.fifo = rest ∧ HasRec s' 0x1403 (some c)) ∧
    (v.toNat / 2 ^ 28 ∉ [1, 2, 3] → (∀ b ∈ rest, b.ctx ≠ c) → ∀ i ∈ [Instr.doorbellExtend c, .doorbellNotify c, .doorbellSchedKick c],
      Answers (exec i s) fun s' => s'.pcie.fifo = rest ∧ s'.ctxs = s.ctxs ∧ HasRec s' 0x1403 (some c))) ∧
  (∀ (s : State) (off : Nat) (data : List Byte) (x : Ctx), s.pcie.linkUp = true → off + data.length ≤ 2 ^ 28 → data ≠ [] →
    ctxOf s (BitVec.ofNat 8 (off / 2 ^ 20)) = some x →
    let c : BitVec 8 := BitVec.ofNat 8 (off / 2 ^ 20)
    exec (.bar2Write off data true) s = .next { s with pcie := { s.pcie with nonFatal := s.pcie.nonFatal + 1 } } ∧
    (x.window = false → exec (.bar2Write off data false) s = .next s) ∧
    (x.window = true → (off % 2 ^ 20 = cbCrRd ∧ data.length = 8 ∨
        atSched ≤ off % 2 ^ 20 ∧ off % 2 ^ 20 / 64 = (off % 2 ^ 20 + data.length - 1) / 64 ∧ off % 2 ^ 20 + data.length ≤ atSched + 0x2000) →
      Answers (exec (.bar2Write off data false) s) fun s' => s'.hbm = s.hbm ∧ ∃ f ∈ s'.ring, f.cls = .h ∧ f.src = crestStop 2 ∧
        f.body = .hbmWrite c (off % 2 ^ 20) data (epochNow s c)) ∧
    (x.window = true → (off % 2 ^ 20 < cbCrRd ∨ cbCrRd + 8 < off % 2 ^ 20 + data.length ∧ off % 2 ^ 20 < cbClipC) →
      Answers (exec (.bar2Write off data false) s) fun s' => s'.ring = s.ring ∧ s'.hbm = s.hbm ∧ HasRec s' 0x1402 (some c)))

/-- VF_FLR, PF_FLR, PERST_ASSERT, PERST_RELEASE and PCIE_FATAL (R384, R391, R486): a reset of a function gives its channels and vectors their
reset values, detaches the contexts it opened, and leaves the secure channels and the contexts' work alone; PERST# does so for every
function and takes the link down until its release; a fatal error is reported and every context waits for repair. -/
def Obligations.FunctionResets : Prop :=
  (∀ (s : State) (v : Nat), s.pcie.linkUp = true → 1 ≤ v → v ≤ 62 → Answers (exec (.vfFlr v) s) fun s' =>
    (∀ k, k < 4 → chanOf s' (64 + 4 * (v - 1) + k) = .init) ∧ (∀ n, n < 64 ∨ 312 ≤ n → chanOf s' n = chanOf s n) ∧
    (∀ n, n < 8 → tabGet s'.pcie.vecs (128 * v + n) MsixVec.init = .init) ∧
    ∀ c x, ctxOf s c = some x → ctxOf s' c = some { x with opener := if x.opener = .vf v then .detached else x.opener }) ∧
  (∀ (s : State) (i : Instr), (i = .pfFlr ∧ s.pcie.linkUp = true ∨ i = .perstAssert) → Answers (exec i s) fun s' =>
    (∀ n, n < 312 → chanOf s' n = .init) ∧ (∀ n, 312 ≤ n → chanOf s' n = chanOf s n) ∧ s'.hbm = s.hbm ∧
    (∀ fn n, fn ≤ 62 → n < vecCount fn → tabGet s'.pcie.vecs (128 * fn + n) MsixVec.init = .init) ∧
    (i = .perstAssert → s'.pcie.perst = true ∧ s'.pcie.linkUp = false)) ∧
  (∀ s : State, exec .perstRelease s =
    .next { s with pcie := { s.pcie with perst := false, linkUp := s.module.pgMain && decide (s.straps.host.toNat < 2) } }) ∧
  (∀ (s : State) (status : W32), s.module.pgMain = true → Answers (exec (.pcieFatal status) s) fun s' =>
    s'.pcie.aerStatus = s.pcie.aerStatus ||| status ∧ ∀ c x', ctxOf s' c = some x' → .peer (engineId s) ∈ x'.waiting)

namespace Sys2Proof.Claim

/-- The one message of a channel carries a command with this code, and its first checks pass (R403). -/
structure Cmd (s : State) (n : Nat) (m : Msg) (code : Nat) : Prop where
  head : Head s n m
  code : m.code = code
  pass : preCheck s n m = none
  asm : (chanOf s n).asm = none
  whole : more m = false

/-- A command on an open context by a channel that owns it, in a state that lets the command run: no slab of it still scrubbed. -/
structure CtxReady (s : State) (n : Nat) (c : BitVec 8) (x : Ctx) : Prop where
  ctx : ctxOf s c = some x
  owner : fromOwner n x = true
  scrubbed : beingScrubbed s c = false
  closing : x.closing = false
  running : ctxStatus x = none

/-- The tile of a bound sheaf after Maelec has loaded it (R409): organisation, role contexts, bank tags by the co-tenant's mask. -/
def TileLoaded (s : State) (b : Sheaf) (i : Nat) : Prop :=
  let t := tileOf s i
  t.inSheaf = true ∧ t.orgX = b.x0 ∧ t.orgY = b.y0 ∧ t.pri = roleCtx s b.ctx ∧ t.snd = b.second.bind (roleCtx s) ∧
    ∀ k, k < 12 → tabGet t.sramOwn k 0 = if b.second.isSome && bitOf b.mask k then 2 else 1

end Sys2Proof.Claim

/-- HELLO and CAPS (R406, R407): HELLO agrees on the highest version in both ranges at or above the floor and on the features both sides
know; where there is none the agreement lapses; the boot responder refuses every version; with open contexts a change is refused; CAPS reports the registers of R380. -/
def Sys2Proof.Claim.Negotiation : Prop :=
  ∀ (s : State) (n : Nat) (m : Msg),
    (Cmd s n m 0x0101 → s.cairn.ready = false → Answers (exec (.hello n) s) fun s' => s'.agree = s.agree ∧ Replied s' n m 0x105 0 []) ∧
    (∀ u, Cmd s n m 0x0101 → s.cairn.ready = true → s.cairn.nuarn = some u → argsOk m [(2, m32), (3, m32), (4, m32)] = true →
      let lo := max u.vmin (argN m 2 % 2 ^ 16)
      let hi := min u.vmax (argN m 2 / 2 ^ 16)
      let f := argN2 m 3 &&& 0x3F
      (lo ≤ hi → u.vfloor ≤ hi → (fnHasCtx s n = false ∨ tabFind s.agree (chanFn n) = some ⟨hi, f⟩) → Answers (exec (.hello n) s) fun s' =>
        tabFind s'.agree (chanFn n) = some ⟨hi, f⟩ ∧ (∀ k, k ≠ chanFn n → tabFind s'.agree k = tabFind s.agree k) ∧
        Replied s' n m 0 0 [w32 (hi + 2 ^ 16 * u.vfloor), w32 f, w32 (f / 2 ^ 32), w32 u.imgVer]) ∧
      ((hi < lo ∨ hi < u.vfloor) → fnHasCtx s n = false → Answers (exec (.hello n) s) fun s' =>
        tabFind s'.agree (chanFn n) = none ∧ Replied s' n m 0x105 u.vfloor []) ∧
      (fnHasCtx s n = true → lo ≤ hi → u.vfloor ≤ hi → tabFind s.agree (chanFn n) ≠ some ⟨hi, f⟩ → Answers (exec (.hello n) s) fun s' =>
        s'.agree = s.agree ∧ Replied s' n m 0x104 0 [])) ∧
    (Cmd s n m 0x0102 → argsOk m [] = true → Answers (exec (.caps n) s) fun s' =>
      Replied s' n m 0 0 [pfRead s 0x50000, pfRead s 0x50004, pfRead s 0x50008, pfRead s 0x5000C])

/-- CTX_OPEN and CTX_CLOSE (R249, R258, R383, R409, R452): CTX_OPEN takes the lowest closed number or the one wanted, gives the context free
slabs that are scrubbed for it, its seed and, for the PF, its window, and advances the number's EPOCH; a bad mask or slab count is
BAD_ARG, an open wanted number and a stack without the slabs NO_RESOURCE; CTX_CLOSE of a context without work closes it, releases its
spurs and has its slabs scrubbed, once its EPOCH may advance and its frames have left its spurs. -/
def Sys2Proof.Claim.ContextCommands : Prop :=
  ∀ (s : State) (n : Nat) (m : Msg),
    (Cmd s n m 0x0201 → argsOk m [(2, 0xFFFFFF), (3, 0x7F01FF), (4, m32), (5, m32), (6, 0x1FF)] = true → vectorOk n (argBits m 3 22 16) = true →
      let mask := argN m 2
      let slabs := argN m 3 % 2 ^ 9
      (∀ c : Nat, c < 256 → tabFind s.ctxs c = none → (if argBit m 6 8 then c = argBits m 6 7 0 else ∀ k, k < c → tabFind s.ctxs k ≠ none) →
        mask ≠ 0 → 8 ≤ slabs → slabs ≤ 476 → (∀ k, k < 24 → bitOf mask k = true → slabs ≤ (freeSlabs s k).length) → c ∉ s.spaced →
        Answers (exec (.ctxOpen n) s) fun s' => ∃ x, ctxOf s' (BitVec.ofNat 8 c) = some x ∧ x.mask = mask ∧ x.slabs = slabs ∧
          x.seed = BitVec.ofNat 64 (argN2 m 4) ∧ x.vector = argBits m 3 22 16 ∧ x.window = isPf n ∧ x.subs = [] ∧
          epochNow s' (BitVec.ofNat 8 c) = (epochNow s (BitVec.ofNat 8 c) + 1) % 8 ∧
          Replied s' n m 0 0 [w32 (c + 2 ^ 8 * ((epochNow s (BitVec.ofNat 8 c) + 1) % 8))] ∧
          ∀ k, k < 24 → bitOf mask k = true → tabGet x.slabMap k [] = (freeSlabs s k).take slabs ∧
            ∃ r ∈ (saddleOf s' k).scrubs, r.owner = some (BitVec.ofNat 8 c) ∧ r.slabs = (freeSlabs s k).take slabs) ∧
      ((mask = 0 ∨ slabs < 8 ∨ 476 < slabs) → Answers (exec (.ctxOpen n) s) fun s' => s'.ctxs = s.ctxs ∧ s'.epochs = s.epochs ∧ Replied s' n m 0x102 0 []) ∧
      (mask ≠ 0 → 8 ≤ slabs → slabs ≤ 476 → (∃ k, k < 256 ∧ tabFind s.ctxs k = none) →
        (argBit m 6 8 = true → tabFind s.ctxs (argBits m 6 7 0) ≠ none →
          Answers (exec (.ctxOpen n) s) fun s' => s'.ctxs = s.ctxs ∧ s'.epochs = s.epochs ∧ Replied s' n m 0x103 2 []) ∧
        (argBit m 6 8 = false → (∃ k, k < 24 ∧ bitOf mask k = true ∧ (freeSlabs s k).length < slabs) →
          Answers (exec (.ctxOpen n) s) fun s' => s'.ctxs = s.ctxs ∧ s'.epochs = s.epochs ∧ Replied s' n m 0x103 0 []))) ∧
    (∀ x, Cmd s n m 0x0202 → argsOk m [(2, 0xFF)] = true →
      let c : BitVec 8 := BitVec.ofNat 8 (argN m 2)
      ctxOf s c = some x → fromOwner n x = true → beingScrubbed s c = false → x.closing = false → unfinished x = [] → sheavesOf s c = [] →
      (∀ p ∈ s.sheaves, p.2.ctx ≠ c) →
      let wait := c.toNat ∈ s.spaced ∨ ∃ j, j < 8 ∧ spurSends s c j = true
      (¬ wait → Answers (exec (.ctxClose n) s) fun s' =>
        ctxOf s' c = none ∧ epochNow s' c = (epochNow s c + 1) % 8 ∧ (∀ j, j < 8 → (spurOf s' j).owner ≠ some c) ∧ leasesOf s' c = [] ∧
        Replied s' n m 0 0 [] ∧ ∀ p ∈ x.slabMap, p.2 ≠ [] → ∃ r ∈ (saddleOf s' p.1).scrubs, r.owner = none ∧ r.slabs = p.2) ∧
      (wait → Answers (exec (.ctxClose n) s) fun s' => (ctxOf s' c).map (·.closing) = some true ∧ s'.spurs = s.spurs ∧
        (chanOf s' n).queue = [m] ∧ (chanOf s' n).replyValid = false))

/-- HELLO, CAPS, CTX_OPEN and CTX_CLOSE: the two parts above. -/
def Obligations.OpeningCommands : Prop := Negotiation ∧ ContextCommands

/-- SHEAF_BIND, SHEAF_COTENANT and SHEAF_RELEASE (R13, R57, R216, R409): a rectangle of R13 that overlaps no sheaf and needs no route through
deep fallow gets the lowest free handle and its tiles are loaded; BAD_ARG for a bad rectangle, NO_RESOURCE for an overlap; a
co-tenant gets the banks of its mask once no task of the primary holds a slot of the sheaf, and quiesces the primary until then; a release without work left frees the sheaf and its tiles. -/
def Obligations.SheafCommands : Prop :=
  ∀ (s : State) (n : Nat) (m : Msg),
    (∀ x, Cmd s n m 0x0301 → argsOk m [(2, 0x1FF), (3, 0xFFFF), (4, 0x1FF01FF)] = true →
      let c : BitVec 8 := BitVec.ofNat 8 (argN m 2)
      let x0 := argBits m 3 7 0
      let y0 := argBits m 3 15 8
      let w := argBits m 4 8 0
      let h := argBits m 4 24 16
      let fits := x0 % 8 = 0 ∧ y0 % 8 = 0 ∧ w % 8 = 0 ∧ h % 8 = 0 ∧ 8 ≤ w ∧ 8 ≤ h ∧ x0 + w ≤ gridW s ∧ y0 + h ≤ 256
      CtxReady s n c x → (argBit m 2 8 = true → fromPf n = true ∧ hasFeature s n 1 = true) →
      (∀ k, k < 256 → tabFind s.sheaves k = none → (∀ j, j < k → tabFind s.sheaves j ≠ none) → fits →
        sheafOverlap s x0 y0 w h = false → (deepTiles s).any (onRoute (gridW s) x0 y0 w h) = false →
        Answers (exec (.sheafBind n) s) fun s' => ∃ b, tabFind s'.sheaves k = some b ∧ b.ctx = c ∧ b.x0 = x0 ∧ b.y0 = y0 ∧ b.w = w ∧ b.h = h ∧
          b.resilient = argBit m 2 8 ∧ b.second = none ∧ (∀ i ∈ sheafTiles b, TileLoaded s' b i) ∧ Replied s' n m 0 0 [w32 k]) ∧
      (¬ fits → Answers (exec (.sheafBind n) s) fun s' => s'.sheaves = s.sheaves ∧ Replied s' n m 0x102 0 []) ∧
      (fits → sheafOverlap s x0 y0 w h = true → Answers (exec (.sheafBind n) s) fun s' => s'.sheaves = s.sheaves ∧ Replied s' n m 0x103 0 [])) ∧
    (∀ x b, Cmd s n m 0x0303 → argsOk m [(2, 0xFFFF), (3, 0xFFF)] = true →
      let h := argN m 2 % 2 ^ 8
      let c2 : BitVec 8 := BitVec.ofNat 8 (argN m 2 / 2 ^ 8)
      let mask := argN m 3
      tabFind s.sheaves h = some b → CtxReady s n b.ctx x → hasFeature s n 0 = true → ∀ x2, ctxOf s c2 = some x2 → x2.closing = false →
      ctxStatus x2 = none → beingScrubbed s c2 = false →
      (mask ≠ 0 → mask ≠ 0xFFF → x.graphs = [] → x.win.plan = none → b.second = none → c2 ≠ b.ctx → tagsQuiet s b = false →
        Answers (exec (.sheafCotenant n) s) fun s' => s'.sheaves = s.sheaves ∧ s'.tiles = s.tiles ∧ (chanOf s' n).queue = [m] ∧
          (chanOf s' n).replyValid = false ∧ ∃ x', ctxOf s' b.ctx = some x' ∧ .tags h ∈ x'.quiesced) ∧
      (mask ≠ 0 → mask ≠ 0xFFF → x.graphs = [] → x.win.plan = none → b.second = none → c2 ≠ b.ctx → tagsQuiet s b = true →
        Answers (exec (.sheafCotenant n) s) fun s' => tabFind s'.sheaves h = some { b with second := some c2, mask := mask } ∧
          (∀ i ∈ sheafTiles b, TileLoaded s' { b with second := some c2, mask := mask } i) ∧ Replied s' n m 0 0 []) ∧
      ((mask = 0 ∨ mask = 0xFFF) → Answers (exec (.sheafCotenant n) s) fun s' => s'.sheaves = s.sheaves ∧ Replied s' n m 0x102 0 []) ∧
      (mask ≠ 0 → mask ≠ 0xFFF → x.graphs = [] → x.win.plan = none → b.second ≠ none →
        Answers (exec (.sheafCotenant n) s) fun s' => s'.sheaves = s.sheaves ∧ Replied s' n m 0x103 0 [])) ∧
    (∀ x b, Cmd s n m 0x0302 → argsOk m [(2, 0x1FF)] = true →
      let h := argN m 2 % 2 ^ 8
      tabFind s.sheaves h = some b → CtxReady s n b.ctx x →
      (argBit m 2 8 = false → (∀ c ∈ releaseCtxs b false, workOn s c h = false) → Answers (exec (.sheafRelease n) s) fun s' =>
        tabFind s'.sheaves h = none ∧ Replied s' n m 0 0 [] ∧ ∀ i ∈ sheafTiles b, (tileOf s' i).inSheaf = false ∧ (tileOf s' i).pri = none ∧
          (tileOf s' i).snd = none ∧ (tileOf s' i).sramOwn = [] ∧ (tileOf s' i).accA = .init ∧ (tileOf s' i).accB = .init) ∧
      (argBit m 2 8 = true → b.second = none → Answers (exec (.sheafRelease n) s) fun s' => s'.sheaves = s.sheaves ∧ Replied s' n m 0x102 0 []) ∧
      (∀ c2, argBit m 2 8 = true → b.second = some c2 → workOn s c2 h = false → Answers (exec (.sheafRelease n) s) fun s' =>
        (tabFind s'.sheaves h).map (·.second) = some none ∧ Replied s' n m 0 0 [] ∧ ∀ i ∈ sheafTiles b, (tileOf s' i).snd = none ∧
          ∀ k, k < 12 → tabGet (tileOf s' i).sramOwn k 0 = 1))

/-- GRAPH_CANCEL, CANCEL_COMPLETE and EPOCH_ADVANCE (R242, R452): a cancel of finished work is answered OK with no effect, of a number never
accepted with BAD_ARG; otherwise the submissions are marked and the reply waits; once every tile has settled the EPOCH advances, the
submissions leave with their CANCELLED records, and OK is returned; the spacing runs out without another effect where nothing waits. -/
def Obligations.CancelAndEpoch : Prop :=
  (∀ (s : State) (n : Nat) (m : Msg) (x : Ctx), Cmd s n m 0x0403 → argsOk m [(2, 0x1FF), (3, m32)] = true →
    let c : BitVec 8 := BitVec.ofNat 8 (argN m 2)
    ctxOf s c = some x → fromOwner n x = true → beingScrubbed s c = false → x.closing = false →
    let all := argBit m 2 8
    let hit := (unfinished x).filter (fun b => all || b.no == argN m 3)
    ((all = true ∨ argN m 3 < x.nextSub) → hit = [] → Answers (exec (.graphCancel n) s) fun s' =>
      s'.ctxs = s.ctxs ∧ s'.epochs = s.epochs ∧ s'.tiles = s.tiles ∧ Replied s' n m 0 0 []) ∧
    (all = false → x.nextSub ≤ argN m 3 → Answers (exec (.graphCancel n) s) fun s' => s'.ctxs = s.ctxs ∧ Replied s' n m 0x102 0 []) ∧
    ((all = true ∨ argN m 3 < x.nextSub) → hit ≠ [] → Answers (exec (.graphCancel n) s) fun s' => (chanOf s' n).queue = [m] ∧
      (chanOf s' n).replyValid = false ∧ s'.epochs = s.epochs ∧ ∃ x', ctxOf s' c = some x' ∧ ∀ b ∈ x'.subs, b.no ∈ hit.map (·.no) → b.cancelling = true)) ∧
  (∀ (s : State) (c : BitVec 8) (x : Ctx), ctxOf s c = some x →
    ((∀ b ∈ x.subs, b.cancelling = false) → x.closing = false → exec (.cancelComplete c) s = .next s) ∧
    ((∃ b ∈ x.subs, b.cancelling = true) → cancelSettled s c x = false ∨ resetWaits x = true ∨ c.toNat ∈ s.spaced →
      exec (.cancelComplete c) s = .next s) ∧
    (∀ n m, (∃ b ∈ x.subs, b.cancelling = true) → resetWaits x = false → served s n = true → cancelSettled s c x = true → c.toNat ∉ s.spaced →
      (∀ p ∈ s.sheaves, p.2.releasing = none) → (∀ p ∈ s.ctxs, p.2.closing = false) → (chanOf s n).queue = [m] → (chanOf s n).await = some (.cancel c) →
      (chanOf s n).replyValid = false → (chanOf s n).replies = [] → (chanOf s n).irq = 0 →
      Answers (exec (.cancelComplete c) s) fun s' => epochNow s' c = (epochNow s c + 1) % 8 ∧ Replied s' n m 0 0 [] ∧
        ∃ x', ctxOf s' c = some x' ∧ ∀ b ∈ x'.subs, b.cancelling = false)) ∧
  (∀ (s : State) (c : BitVec 8), (c.toNat ∉ s.spaced → exec (.epochAdvance c) s = .next s) ∧
    (∀ x, ctxOf s c = some x → x.closing = false → c.toNat ∈ s.spaced →
      (x.reset = none → exec (.epochAdvance c) s = .next { s with spaced := s.spaced.filter (fun i => i != c.toNat) }) ∧
      (∀ r, x.reset = some r → r.waitEpoch = true → Answers (exec (.epochAdvance c) s) fun s' =>
        epochNow s' c = (epochNow s c + 1) % 8 ∧ ∃ x' r', ctxOf s' c = some x' ∧ x'.reset = some r' ∧ r'.waitEpoch = false)))

namespace Sys2Proof.Claim

/-- A command that brings its structure in its final staged part (R401): the assembly it completes. -/
structure StagedWhole (s : State) (n : Nat) (m : Msg) (y : Assembly) : Prop where
  staged : staged m = true
  part : addPart (chanOf s n) m = some y
  full : y.data.length = y.total
  room : asmHeld s n + inPartLen m ≤ stewardAsmMax
  dest : y.dest = 0

/-- Nothing of a context but its reply channel has changed. -/
def sameWork (s s' : State) : Prop :=
  s'.ctxs = s.ctxs ∧ s'.hbm = s.hbm ∧ s'.tiles = s.tiles ∧ s'.swaths = s.swaths ∧ s'.leases = s.leases ∧ s'.spurs = s.spurs ∧ s'.engine = s.engine

end Sys2Proof.Claim

/-- GRAPH_LOAD (R98, R219, R222, R408, R409): an object that a check refuses loads nothing and is answered with its table code and index; one
that passes gets a free handle, its granules and block table entries, its layers' entries and its segment. -/
def Sys2Proof.Claim.GraphLoad : Prop :=
  ∀ (s : State) (n : Nat) (m : Msg) (o : ObjLayout) (x : Ctx) (b : Sheaf), Cmd s n m 0x0401 →
    argsOk m [(2, 0xFFFF), (3, m32), (4, 0xFFF), (5, m32)] = true → staged m = false →
    let c : BitVec 8 := BitVec.ofNat 8 (argN m 2)
    let h := argN m 2 / 2 ^ 8
    CtxReady s n c x → tabFind s.sheaves h = some b → (b.ctx = c ∨ b.second = some c) → argN2 m 3 + argN m 5 ≤ viewSz x →
    let d := viewBytes s x (argN2 m 3) (argN m 5)
    let g := sectOf d o.descOff o.descLen
    let at? := segPlace x (segSize g o)
    (∀ e, loadErr s b c x d o (at?.getD 0) = some e → Answers (exec (.graphLoad n o) s) fun s' => sameWork s s' ∧ Replied s' n m 0x102 e.1 [w32 e.2]) ∧
    (sectionsIn d o = true → (fld g 0 2 ≠ 1 ∨ fld g 8 4 = 0 ∨ 1048576 < fld g 8 4 ∨ g.length < 64) →
      Answers (exec (.graphLoad n o) s) fun s' => sameWork s s' ∧ Replied s' n m 0x102 1 [0]) ∧
    (∀ hbmAt, loadErr s b c x d o hbmAt = none → at? = some hbmAt → hasFeature s n 5 = true → x.graphs.length < 64 →
      (granulesOf d o c).any (fun a => ((tabFind s.leases a).map (fun e => e != c.toNat)).getD false) = false →
      viewRead s x cbHwNt 2 + (newTids s x d o).length ≤ 16384 → Answers (exec (.graphLoad n o) s) fun s' =>
        ∃ x' y, ctxOf s' c = some x' ∧ x'.graphs = x.graphs ++ [y] ∧ y.sheaf = h ∧ y.hbmAt = hbmAt ∧ y.tasks.length = fld g 8 4 ∧
          (∀ z ∈ x.graphs, z.handle ≠ y.handle) ∧ (chanOf s' n).queue = [] ∧ tabGet (chanOf s' n).reply 2 0 = w32 y.handle ∧
          (tabGet (chanOf s' n).reply 0 0).toNat % 2 ^ 16 = 0 ∧ (∀ a ∈ granulesOf d o c, tabFind s'.leases a = some c.toNat) ∧
          ∀ l ∈ x'.layers, l ∈ x.layers ∨ l ∈ y.layers) ∧
    (∀ hbmAt, loadErr s b c x d o hbmAt = none → at? = some hbmAt → hasFeature s n 5 = true → 64 ≤ x.graphs.length →
      Answers (exec (.graphLoad n o) s) fun s' => sameWork s s' ∧ Replied s' n m 0x103 0 [])

/-- GRAPH_SUBMIT, SUBMISSION_LOAD and GRAPH_UNLOAD (R222, R223, R409, R413): a submission takes a new entry and the next number, or extends
the newest one where it follows on it; a full queue is NO_RESOURCE, a count of 0 or an unknown handle BAD_ARG; the oldest entry
the tiles lack is loaded; an unload frees handle and entries unless the graph is in use. -/
def Sys2Proof.Claim.GraphCommands : Prop :=
  (∀ (s : State) (n : Nat) (m : Msg) (x : Ctx), Cmd s n m 0x0402 → argsOk m [(2, 0x1FFFFFF), (3, m32), (4, m32)] = true →
    let c : BitVec 8 := BitVec.ofNat 8 (argN m 2)
    let first := w32 (argN m 3)
    CtxReady s n c x →
    (findGraph x (argBits m 2 23 8) = none → Answers (exec (.graphSubmit n) s) fun s' => sameWork s s' ∧ Replied s' n m 0x102 0 []) ∧
    (∀ g, findGraph x (argBits m 2 23 8) = some g → g.sheaf < 256 →
      (argN m 4 = 0 → Answers (exec (.graphSubmit n) s) fun s' => sameWork s s' ∧ Replied s' n m 0x102 0 []) ∧
      (∀ no b, argN m 4 ≠ 0 → tabFind x.newest g.sheaf = some no → findSub x no = some b → b.finished = false → b.cancelling = false →
        b.graph = g.handle → b.first + w32 b.count = first →
        (b.count + argN m 4 < 2 ^ 32 → Answers (exec (.graphSubmit n) s) fun s' => Replied s' n m 1 0 [w32 no] ∧ ∃ x', ctxOf s' c = some x' ∧
          x'.subs = x.subs.map (fun u => if u.no = no then { u with count := u.count + argN m 4, notify := argBit m 2 24 } else u)) ∧
        (2 ^ 32 ≤ b.count + argN m 4 → Answers (exec (.graphSubmit n) s) fun s' => sameWork s s' ∧ Replied s' n m 0x102 0 [])) ∧
      (argN m 4 ≠ 0 → extends? x g first = none →
        (((unfinished x).filter (fun b => b.sheaf == g.sheaf)).length < 16 → Answers (exec (.graphSubmit n) s) fun s' =>
          Replied s' n m 1 0 [w32 x.nextSub] ∧ ∃ x' b, ctxOf s' c = some x' ∧ x'.subs = x.subs ++ [b] ∧ x'.nextSub = x.nextSub + 1 ∧ b.no = x.nextSub ∧
            b.graph = g.handle ∧ b.first = first ∧ b.count = argN m 4 ∧ b.notify = argBit m 2 24 ∧ b.done = 0 ∧ b.onTiles = false) ∧
        (16 ≤ ((unfinished x).filter (fun b => b.sheaf == g.sheaf)).length → Answers (exec (.graphSubmit n) s) fun s' =>
          sameWork s s' ∧ Replied s' n m 0x103 0 [])))) ∧
  (∀ (s : State) (c : BitVec 8) (x : Ctx) (b : Submission) (l1 l2 : List Submission), ctxOf s c = some x → x.subs = l1 ++ b :: l2 →
    (∀ u ∈ l1, u.onTiles = true ∧ u.no ≠ b.no) → (∀ u ∈ l2, u.no ≠ b.no) → b.onTiles = false → b.cancelling = false →
    stewardServes s (c.toNat % 4) = true →
    exec (.submissionLoad c) s = .next (setCtx s c { x with subs := l1 ++ { b with onTiles := true } :: l2 })) ∧
  (∀ (s : State) (n : Nat) (m : Msg) (x : Ctx) (g : Graph), Cmd s n m 0x0404 → argsOk m [(2, 0xFFFFFF)] = true →
    let c : BitVec 8 := BitVec.ofNat 8 (argN m 2)
    CtxReady s n c x → findGraph x (argN m 2 / 2 ^ 8) = some g →
    ((unfinished x).any (fun b => b.graph == g.handle) = false → x.win.plan = none → Answers (exec (.graphUnload n) s) fun s' =>
      Replied s' n m 0 0 [] ∧ (∀ p ∈ g.entries, tabFind (swathOf s' p.1).table p.2 = none) ∧
      ∃ x', ctxOf s' c = some x' ∧ x'.graphs = x.graphs.filter (fun y => y.handle != g.handle) ∧ x'.layers = x.layers) ∧
    ((unfinished x).any (fun b => b.graph == g.handle) = true → Answers (exec (.graphUnload n) s) fun s' => sameWork s s' ∧ Replied s' n m 0x104 2 []))

/-- Graphs and their submissions: the two parts above. -/
def Obligations.GraphHandling : Prop := GraphLoad ∧ GraphCommands

/-- BUCKET_PLAN, BUCKET_PLAN_CLEAR and PEER_TABLE in both forms (R293 to R296, R364, R371, R372, R408): a structure that a check refuses installs
nothing; a plan that passes is placed with its kernel and resend granules and sets the versions of this rank's buckets to FIRSTSTEP - 1; clearing
removes it, and both are refused while work is in progress; the engine table sets the ID; the context table waits until frames of a spur that
it gives up have drained, then sets peers, the kernel on its spurs, spur ownership and one credit for each binding. -/
def Obligations.PlanAndPeerCommands : Prop :=
  (∀ (s : State) (n : Nat) (m : Msg) (x : Ctx), Cmd s n m 0x0501 →
    let c : BitVec 8 := BitVec.ofNat 8 (argN m 2)
    CtxReady s n c x →
    (argsOk m [(2, 0xFF), (3, m32), (4, 0xFFF)] = true → staged m = false →
      let off := argN2 m 3
      let h := viewBytes s x off 128
      let r := readPlan s x h
      let pl := planOf r
      ((unfinished x ≠ [] ∨ ∃ k, x.stook = some k ∧ k.st = .opened) → Answers (exec (.bucketPlan n) s) fun s' =>
        sameWork s s' ∧ Replied s' n m 0x104 2 []) ∧
      (planBusy x = false → off + 128 ≤ viewSz x →
        ((off % 64 ≠ 0 ∨ fld h 0 2 ≠ 1) → Answers (exec (.bucketPlan n) s) fun s' => sameWork s s' ∧ Replied s' n m 0x102 0x11 [0]) ∧
        (off % 64 = 0 → planHdrOk x h = true →
          (∀ e, planErr s c x r pl = some e → Answers (exec (.bucketPlan n) s) fun s' => sameWork s s' ∧ Replied s' n m 0x102 e.1 [w32 e.2]) ∧
          (planErr s c x r pl = none → hasFeature s n 2 = true → planNoRes s c x pl = false → Answers (exec (.bucketPlan n) s) fun s' =>
            Replied s' n m 0 0 [] ∧ (∀ u ∈ s'.bslots, u.ctx ≠ c) ∧ ∃ x', ctxOf s' c = some x' ∧ x'.win.plan = some (placedPlan s c pl) ∧
              ∀ p ∈ ownedBuckets pl, tabFind x'.win.versions p.1 = some (pl.firstStep - 1))))) ∧
    (argsOk m [(2, 0x1FF)] = true → argBit m 2 8 = true → staged m = false →
      (x.win.plan = none → Answers (exec (.bucketPlanClear n) s) fun s' => sameWork s s' ∧ Replied s' n m 0 0 []) ∧
      (x.win.plan ≠ none → planBusy x = true → Answers (exec (.bucketPlanClear n) s) fun s' => sameWork s s' ∧ Replied s' n m 0x104 2 []) ∧
      (x.win.plan ≠ none → planBusy x = false → Answers (exec (.bucketPlanClear n) s) fun s' => Replied s' n m 0 0 [] ∧ s'.hbm = s.hbm ∧
        (∀ u ∈ s'.bslots, u.ctx ≠ c) ∧ ∃ x', ctxOf s' c = some x' ∧ x'.win.plan = none ∧ x'.win.versions = []))) ∧
  (∀ (s : State) (n : Nat) (m : Msg) (y : Assembly), Head s n m → m.code = 0x0502 → more m = false →
    (∀ a, (chanOf s n).asm = some a → a.code = 0x0502) → argsOk m [(2, 0xFF01)] = true → argBit m 2 0 = false → StagedWhole s n m y → preCheck s n m = none →
    (fromPf n = false → Answers (exec (.peerTableEngine n) s) fun s' => s'.engine = s.engine ∧ s'.spurs = s.spurs) ∧
    (∀ e, fromPf n = true → engErr s y.data = some e → Answers (exec (.peerTableEngine n) s) fun s' => s'.engine = s.engine ∧ s'.spurs = s.spurs ∧
      Replied s' n m 0x102 e.1 [w32 e.2]) ∧
    (fromPf n = true → engErr s y.data = none → (engTable y.data).id = engineId s ∨ (s.ctxs = [] ∧ anyAttached s = false) →
      Answers (exec (.peerTableEngine n) s) fun s' => s'.engine = some (engTable y.data) ∧ engineId s' = (engTable y.data).id ∧ Replied s' n m 0 0 [])) ∧
  (∀ (s : State) (n : Nat) (m : Msg) (x : Ctx), Cmd s n m 0x0502 → argsOk m [(2, 0xFF01), (3, m32), (4, 0xFFF)] = true → argBit m 2 0 = true →
    staged m = false →
    let c : BitVec 8 := BitVec.ofNat 8 (argN m 2 / 2 ^ 8)
    let off := argN2 m 3
    CtxReady s n c x → off + ctxTabLen (viewBytes s x off 64) ≤ viewSz x →
    let d := viewBytes s x off (ctxTabLen (viewBytes s x off 64))
    let t := ctxTable d
    (∀ e, ctxTabErr s c x d = some e → Answers (exec (.peerTableContext n) s) fun s' => sameWork s s' ∧ Replied s' n m 0x102 e.1 [w32 e.2]) ∧
    (ctxTabErr s c x d = none → 32768 < streamsNamed s c + nPeer d → Answers (exec (.peerTableContext n) s) fun s' =>
      sameWork s s' ∧ Replied s' n m 0x103 0 []) ∧
    (ctxTabErr s c x d = none → streamsNamed s c + nPeer d ≤ 32768 → ownerStays s c t.spurMask = true →
      Answers (exec (.peerTableContext n) s) fun s' => sameWork s s' ∧ (chanOf s' n).queue = [m] ∧ (chanOf s' n).replyValid = false) ∧
    (ctxTabErr s c x d = none → streamsNamed s c + nPeer d ≤ 32768 → ownerStays s c t.spurMask = false →
      Answers (exec (.peerTableContext n) s) fun s' => Replied s' n m 0 0 [] ∧
      (∃ x', ctxOf s' c = some x' ∧ x'.peers = some { t with kernel := peerKernel s c t.spurMask }) ∧ (∀ j, j < 8 → ((spurOf s' j).owner = some c ↔ bitOf t.spurMask j = true)) ∧
      ∀ b ∈ t.binds, tabGet (linkOf s' b.port).fillCred b.entry 0 = 1))

namespace Sys2Proof.Claim

/-- The bytes that a reply delivers through OUT (R393, R400). -/
def OutBytes (s : State) (n : Nat) (l : List Byte) : Prop :=
  (memRead (chanOf s n).outBuf 0 4 = l.length ∨ l = []) ∧ ∀ j b, l[j]? = some b → memRd (chanOf s n).outBuf (32 + j) = b

/-- Tiles of a list that may sleep are in a power state. -/
def Sleep (s s' : State) (l : List Nat) (p : TilePower) : Prop := ∀ i ∈ l, (tileOf s i).slots = [] → (tileOf s' i).power = p

end Sys2Proof.Claim

/-- FIELD_TEST, FIELD_TEST_START and FIELD_TEST_COMPLETE (R411, R461, R462): the test quiesces the sheaf's contexts and its reply waits; it
begins once they have come to rest; a passed test is logged and ends the quiescence; a failing tile is declared failed; an empty
mask, or a test already in progress, is BAD_ARG. -/
def Sys2Proof.Claim.FieldTests : Prop :=
  (∀ (s : State) (n : Nat) (m : Msg), Cmd s n m 0x0701 → fromPf n = true →
    let h := argBits m 2 7 0
    let cats := argBits m 3 5 0
    ∀ b x, tabFind s.sheaves h = some b → CtxReady s n b.ctx x →
      (argsOk m [(2, 0xFF), (3, 0x3F)] = true → cats ≠ 0 → b.testing = none → Answers (exec (.fieldTest n) s) fun s' =>
        tabFind s'.sheaves h = some { b with testing := some (cats, false, true) } ∧ (chanOf s' n).queue = [m] ∧
        (chanOf s' n).await = some (.test h) ∧ (chanOf s' n).replyValid = false ∧
        ∀ c ∈ sheafCtxs b, ∀ x', ctxOf s' c = some x' → .test h ∈ x'.quiesced) ∧
      ((cats = 0 ∨ b.testing ≠ none) → Answers (exec (.fieldTest n) s) fun s' =>
        s'.sheaves = s.sheaves ∧ s'.ctxs = s.ctxs ∧ Replied s' n m 0x102 0 [])) ∧
  (∀ (s : State) (n : Nat) (m : Msg), Cmd s n m 0x0701 → fromPf n = false → Answers (exec (.fieldTest n) s) fun s' =>
    s'.sheaves = s.sheaves ∧ s'.ctxs = s.ctxs ∧ Replied s' n m 0x104 0 []) ∧
  (∀ (s : State) (h : Nat) (b : Sheaf) (cats : Nat) (host : Bool), tabFind s.sheaves h = some b → b.testing = some (cats, false, host) →
    ((∀ c ∈ sheafCtxs b, atRest s h b c = true) →
      exec (.fieldTestStart h) s = .next { s with sheaves := tabSet s.sheaves h { b with testing := some (cats, true, host) } }) ∧
    ((∃ c ∈ sheafCtxs b, atRest s h b c = false) → exec (.fieldTestStart h) s = .next s)) ∧
  (∀ (s : State) (h : Nat) (b : Sheaf) (cats : Nat) (host : Bool), tabFind s.sheaves h = some b → b.testing = some (cats, true, host) →
    (Answers (exec (.fieldTestComplete h 0 []) s) fun s' => tabFind s'.sheaves h = some { b with testing := none, steps := [] } ∧
      HasRec s' 0x0503 (some b.ctx) ∧ (∀ i ∈ sheafTiles b, (tileOf s' i).accA = .init ∧ (tileOf s' i).accB = .init) ∧
      ∀ c ∈ sheafCtxs b, ∀ x', ctxOf s' c = some x' → .test h ∉ x'.quiesced) ∧
    (∀ (f : BitVec 6) (i : Nat), f.toNat &&& cats = f.toNat → f.toNat % 16 ≠ 0 → inSheafOf b i = true →
      Answers (exec (.fieldTestComplete h f [i]) s) fun s' => i ∈ s'.cairn.failedTiles))

/-- POWER_POLICY and FALLOW in both forms (R72, R216, R411, R506): the policy takes the cap, no higher than the class of STRAP_PWR, and FMAX;
only PF and secure channels set it; tiles without occupied slots take the mode, waking through tile reset; a sheaf with work in
progress and a rectangle with a sheaf's tile are DENIED with the first such tile. -/
def Sys2Proof.Claim.PolicyAndFallow : Prop :=
  (∀ (s : State) (n : Nat) (m : Msg), Cmd s n m 0x0801 →
    let cap := argBits m 2 15 0
    let fmax := argBits m 3 4 0
    (fromPf n = true → argsOk m [(2, 0xFFFF), (3, 0x11F)] = true → (cap = 0 ∨ 120 ≤ cap ∧ cap ≤ 280) → (fmax = 0 ∨ 10 ≤ fmax ∧ fmax ≤ 27) →
      Answers (exec (.powerPolicy n) s) fun s' => s'.module.cap = (if cap = 0 then powerClass s else min cap (powerClass s)) ∧
        s'.module.fmax = (if fmax = 0 then 27 else fmax) ∧ s'.module.fallowOk = argBit m 3 8 ∧
        (argBit m 3 8 = false → s'.module.autoFallow = []) ∧ Replied s' n m 0 0 [w32 (capNow s'), w32 s'.module.fmax]) ∧
    (fromPf n = true → (0 < cap ∧ cap < 120 ∨ 280 < cap ∨ 0 < fmax ∧ fmax < 10 ∨ 27 < fmax) → Answers (exec (.powerPolicy n) s) fun s' =>
      s'.module = s.module ∧ Replied s' n m 0x102 0 []) ∧
    (fromPf n = false → Answers (exec (.powerPolicy n) s) fun s' => s'.module = s.module ∧ Replied s' n m 0x104 0 [])) ∧
  (∀ (s : State) (n : Nat) (m : Msg), Cmd s n m 0x0802 → argBit m 2 0 = false →
    let h := argBits m 2 15 8
    let mode := argBits m 2 17 16
    ∀ b x, tabFind s.sheaves h = some b → CtxReady s n b.ctx x → argsOk m [(2, 0x3FF01), (3, 0xFFFF), (4, 0x1FF01FF)] = true →
      let l := rectTiles b.x0 b.y0 b.w b.h
      (mode = 3 → Answers (exec (.fallowSheaf n) s) fun s' => s'.tiles = s.tiles ∧ Replied s' n m 0x102 0 []) ∧
      (mode ≠ 3 → (∃ c ∈ sheafCtxs b, workOn s c h = true) → Answers (exec (.fallowSheaf n) s) fun s' =>
        s'.tiles = s.tiles ∧ Replied s' n m 0x104 (tileIx b.x0 b.y0) []) ∧
      ((∀ c ∈ sheafCtxs b, workOn s c h = false) →
        (mode = 1 → Answers (exec (.fallowSheaf n) s) fun s' => Sleep s s' l .fallow ∧ Replied s' n m 0 0 []) ∧
        (mode = 2 → (∀ i ∈ l, deepBlocked s (some h) i = false) → Answers (exec (.fallowSheaf n) s) fun s' => Sleep s s' l .deep ∧ Replied s' n m 0 0 []) ∧
        (∀ i, mode = 2 → l.find? (deepBlocked s (some h)) = some i → Answers (exec (.fallowSheaf n) s) fun s' =>
          s'.tiles = s.tiles ∧ Replied s' n m 0x104 i []) ∧
        (mode = 0 → Answers (exec (.fallowSheaf n) s) fun s' => (∀ i ∈ l, (tileOf s' i).power = .run) ∧ Replied s' n m 0 0 [] ∧
          ∀ i ∈ sheafTiles b, (tileOf s i).power ≠ .run → TileLoaded s' b i ∧ (tileOf s' i).sram = [] ∧ (tileOf s' i).s = []))) ∧
  (∀ (s : State) (n : Nat) (m : Msg), Cmd s n m 0x0802 → argBit m 2 0 = true → argsOk m [(2, 0x3FF01), (3, 0xFFFF), (4, 0x1FF01FF)] = true →
    let mode := argBits m 2 17 16
    let x0 := argBits m 3 7 0
    let y0 := argBits m 3 15 8
    let w := argBits m 4 8 0
    let h := argBits m 4 24 16
    let l := rectTiles x0 y0 w h
    let fits := x0 % 8 = 0 ∧ y0 % 8 = 0 ∧ w % 8 = 0 ∧ h % 8 = 0 ∧ 0 < w ∧ 0 < h ∧ x0 + w ≤ gridW s ∧ y0 + h ≤ 256
    (fromPf n = false → Answers (exec (.fallowRectangle n) s) fun s' => s'.tiles = s.tiles ∧ Replied s' n m 0x104 0 []) ∧
    (fromPf n = true → (¬ fits ∨ mode = 3) → Answers (exec (.fallowRectangle n) s) fun s' => s'.tiles = s.tiles ∧ Replied s' n m 0x102 0 []) ∧
    (fromPf n = true → fits → mode ≠ 3 →
      (∀ i, l.find? (fun i => boundTile s i || (decide (mode = 2) && deepBlocked s none i)) = some i →
        Answers (exec (.fallowRectangle n) s) fun s' => s'.tiles = s.tiles ∧ Replied s' n m 0x104 i []) ∧
      ((∀ i ∈ l, boundTile s i = false) → (mode = 2 → ∀ i ∈ l, deepBlocked s none i = false) → Answers (exec (.fallowRectangle n) s) fun s' =>
        (mode = 1 → Sleep s s' l .fallow) ∧ (mode = 2 → Sleep s s' l .deep) ∧ (mode = 0 → ∀ i ∈ l, (tileOf s' i).power = .run) ∧
        Replied s' n m 0 0 [])))

/-- FIELD_TEST, POWER_POLICY and FALLOW: the two parts above. -/
def Obligations.ServiceCommands : Prop := FieldTests ∧ PolicyAndFallow

/-- LOG_READ and ATTEST (R411, R412, R428, R429): records from FIRST, or from the oldest held after it, up to COUNT, are delivered with their
number, the next index and the number lost; a context's numerics log is its owner's to read; the other logs are for PF and secure
channels; OFFSET 0 signs a new report over the nonce and counts it, another offset returns its later parts. -/
def Sys2Proof.Claim.LogsAndReports : Prop :=
  (∀ (s : State) (n : Nat) (m : Msg), Cmd s n m 0x0A01 →
    let log := argBits m 2 7 0
    let first := argN m 3
    let want := argN m 4
    let ok := argsOk m [(2, 0xFFFF), (3, m32), (4, m32)] = true ∧ 1 ≤ want ∧ want ≤ 63
    (∀ r : LogRing, (log = 1 ∧ r = s.faultLog ∨ log = 3 ∧ r = s.eventLog) →
      (fromPf n = true → ok →
        let old := r.written - r.recs.length
        let lo := max first old
        let l := (r.recs.drop (lo - old)).take want
        Answers (exec (.logRead n) s) fun s' => s'.faultLog = s.faultLog ∧ s'.eventLog = s.eventLog ∧
          Replied s' n m 0 0 [w32 l.length, w32 (lo + l.length), w32 (lo - first)] ∧ OutBytes s' n (l.flatMap recBytes)) ∧
      (fromPf n = true → ¬ ok → Answers (exec (.logRead n) s) fun s' => Replied s' n m 0x102 0 []) ∧
      (fromPf n = false → Answers (exec (.logRead n) s) fun s' => Replied s' n m 0x104 0 [])) ∧
    ((log = 0 ∨ 4 < log) → Answers (exec (.logRead n) s) fun s' => Replied s' n m 0x102 0 []) ∧
    (∀ x, log = 2 → ctxOf s (BitVec.ofNat 8 (argBits m 2 15 8)) = some x → fromOwner n x = true → x.closing = false → ok →
      let wr := viewRead s x cbNlWr 4
      let lo := max first (wr - 4096)
      let k := min want (wr - lo)
      Answers (exec (.logRead n) s) fun s' => Replied s' n m 0 0 [w32 k, w32 (lo + k), w32 (lo - first)] ∧
        OutBytes s' n ((List.range k).flatMap (fun i => viewBytes s x (atNumLog + 32 * ((lo + i) % 4096)) 32)))) ∧
  (∀ (s : State) (n : Nat) (m : Msg), Cmd s n m 0x0901 →
    argsOk m [(2, m32), (3, m32), (4, m32), (5, m32), (6, m32), (7, m32), (8, m32), (9, m32), (10, m32)] = true →
    let off := argN m 10
    let nonce := (List.range 8).flatMap (fun i => toBytes 4 (argN m (i + 2)))
    let r := reportOf s nonce
    let old := (chanOf s n).report
    (s.cairn.meas.length = 8 → r.length = 52560 ∧ (r.drop 128).take 32 = nonce) ∧
    (off = 0 → Answers (exec (.attest n) s) fun s' => s'.cairn.rseq = s.cairn.rseq + 1 ∧ (chanOf s' n).report = r ∧
      Replied s' n m 0 0 [w32 r.length, 0] ∧ OutBytes s' n (r.take 2016)) ∧
    (off ≠ 0 → off % 2016 = 0 → off < old.length → Answers (exec (.attest n) s) fun s' => s'.cairn = s.cairn ∧
      Replied s' n m 0 0 [w32 old.length, w32 off] ∧ OutBytes s' n ((old.drop off).take 2016)) ∧
    ((off % 2016 ≠ 0 ∨ off ≠ 0 ∧ old.length ≤ off) → Answers (exec (.attest n) s) fun s' => s'.cairn = s.cairn ∧ Replied s' n m 0x102 0 []))

/-- FW_UPDATE, its DBGCLOSE form and NUARN_LOAD (R411, R424, R425, R426, R430, R431): an accepted image is written to the target device, whose
identity sector stays, and a refused one writes nothing; the booted image is no target; DBGCLOSE burns DBGDIS alone; an accepted
Nuarn image is copied to the carve-out, measured in M3, and its stewards start. -/
def Sys2Proof.Claim.FirmwareCommands : Prop :=
  (∀ (s : State) (n : Nat) (m : Msg) (y : Assembly), Head s n m → m.code = 0x0902 → more m = false →
    (∀ a, (chanOf s n).asm = some a → a.code = 0x0902) → argsOk m [(2, 1)] = true → StagedWhole s n m y → preCheck s n m = none →
    let k := argBits m 2 0 0
    (isSecure n = false → Answers (exec (.fwUpdate n) s) fun s' => s'.flash0 = s.flash0 ∧ s'.flash1 = s.flash1) ∧
    (isSecure n = true →
      (s.cairn.maelec.map (·.image) = some k → Answers (exec (.fwUpdate n) s) fun s' =>
        s'.flash0 = s.flash0 ∧ s'.flash1 = s.flash1 ∧ Replied s' n m 0x104 3 []) ∧
      (s.cairn.maelec.map (·.image) ≠ some k →
        (∀ d, fwRefusal s y.data = some d → Answers (exec (.fwUpdate n) s) fun s' =>
          s'.flash0 = s.flash0 ∧ s'.flash1 = s.flash1 ∧ Replied s' n m 0x104 d []) ∧
        (fwRefusal s y.data = none → Answers (exec (.fwUpdate n) s) fun s' => flashOf s' (1 - k) = flashOf s (1 - k) ∧
          flashOf s' k = (writeImage (flashOf s k) y.data).1 ∧ (∀ a, identityAt ≤ a → memRd (flashOf s' k) a = memRd (flashOf s k) a) ∧
          (if (writeImage (flashOf s k) y.data).2 = true then Replied s' n m 0 0 [] else Replied s' n m 0x104 4 []))))) ∧
  (∀ (s : State) (n : Nat) (m : Msg), Cmd s n m 0x0902 → dbgClose m = true → staged m = false →
    (isSecure n = true → argsOk m [(2, 0x80000000)] = true → Answers (exec (.fwUpdateDbgclose n) s) fun s' =>
      s'.fuses = { s.fuses with dbgdis := true } ∧ s'.shadow = s.shadow ∧ s'.flash0 = s.flash0 ∧ s'.flash1 = s.flash1 ∧ Replied s' n m 0 0 []) ∧
    (isSecure n = true → argsOk m [(2, 0x80000000)] = false → Answers (exec (.fwUpdateDbgclose n) s) fun s' =>
      s'.fuses = s.fuses ∧ Replied s' n m 0x102 0 []) ∧
    (isSecure n = false → Answers (exec (.fwUpdateDbgclose n) s) fun s' => s'.fuses = s.fuses ∧ Replied s' n m 0x104 0 [])) ∧
  (∀ (s : State) (n : Nat) (m : Msg) (y : Assembly) (u : Maelec), Head s n m → m.code = 0x0F01 → more m = false →
    (∀ a, (chanOf s n).asm = some a → a.code = 0x0F01) → argsOk m [] = true → StagedWhole s n m y → preCheck s n m = none →
    nuarnWaits s n = false → nuarnHdr < inTotal m → s.cairn.maelec = some u →
    ((s.cairn.engState ≠ 4 ∨ s.cairn.nuarn ≠ none) → Answers (exec (.nuarnLoad n) s) fun s' =>
      s'.cairn = s.cairn ∧ s'.hbm = s.hbm ∧ Replied s' n m 0x104 3 []) ∧
    (s.cairn.engState = 4 → s.cairn.nuarn = none →
      (∀ d, nuarnRefusal u.companion y.data = some d → Answers (exec (.nuarnLoad n) s) fun s' =>
        s'.cairn = s.cairn ∧ s'.hbm = s.hbm ∧ Replied s' n m 0x104 d []) ∧
      (nuarnRefusal u.companion y.data = none → memWf s.hbm = true → Answers (exec (.nuarnLoad n) s) fun s' => Replied s' n m 0 0 [] ∧
        s'.cairn.nuarn = some ⟨fld y.data 4 4, fld y.data 10 2, fld y.data 12 2, fld y.data 14 2⟩ ∧ s'.cairn.ready = false ∧
        (∀ j b, y.data[j]? = some b → memRd s'.hbm (carveOut + j) = b) ∧
        (s.cairn.meas.length = 8 → s.cairn.meas.getD 3 0 = 0 →
          s'.cairn.meas.getD 3 0 = digestOf (toBytes 32 0 ++ toBytes 32 (digestOf (y.data.take 128)).toNat)))))

/-- LOG_READ, ATTEST, FW_UPDATE and NUARN_LOAD: the two parts above. -/
def Obligations.TrustCommands : Prop := LogsAndReports ∧ FirmwareCommands

namespace Sys2Proof.Claim

/-- Deaths of a steward within the last 60 s (R415). -/
def recentDeaths (s : State) (k : Nat) : Nat := ((stewardOf s k).deaths.filter (fun t => decide (s.cairn.ms < 60000 + t))).length

/-- Steward k has died for a first or second time within 60 s: it is held in reset and started again (R388, R415). -/
def SecondLife (s s' : State) (k : Nat) : Prop :=
  (stewardOf s' k).restarting = true ∧ (stewardOf s' k).retired = false ∧ s'.cairn.restarts = s.cairn.restarts + 1 ∧
    s'.pcie.evtStat / 8 % 2 = 1 ∧ HasRec s' 0x0601 none ∧ s'.tiles = s.tiles ∧ s'.ctxs = s.ctxs ∧
    ∀ j, j ≠ k → stewardOf s' j = stewardOf s j

/-- The engine has left service and waits for repair, and so does every context (R438, R457). -/
def AwaitsRepair (s s' : State) : Prop := s'.cairn.engState = 6 ∧ ∀ c x', ctxOf s' c = some x' → .peer (engineId s) ∈ x'.waiting

/-- Every context is FAULTED by a warden failure, Nuarn and all channels are gone, HBM is kept (R388, R465). -/
def WardenGone (s s' : State) : Prop :=
  s'.cairn.nuarn = none ∧ s'.cairn.ready = false ∧ s'.chans = [] ∧ s'.agree = [] ∧ s'.hbm = s.hbm ∧ s'.fuses = s.fuses ∧ s'.cairn.debugOpen = s.cairn.debugOpen ∧
    ∀ c x, ctxOf s c = some x → ∃ x' r, ctxOf s' c = some x' ∧ x'.reset = some r ∧ r.cause = 6 ∧ x'.slabMap = x.slabMap ∧ x'.seed = x.seed

end Sys2Proof.Claim

/-- STEWARDS_READY, STEWARD_HEARTBEAT_TIMEOUT, STEWARD_RESTART_COMPLETE, STEWARD_IDLE_TIMEOUT and STEWARD_WAKE (R388, R389, R415, R425,
R433, R438): a steward declared dead starts again, and its channels show RESPONDER_RESTARTED and answer what it had taken with
RESTARTED; the third death within 60 s takes the engine out of service for repair; a steward without work sleeps until woken. -/
def Sys2Proof.Claim.Stewards : Prop :=
  (∀ s : State, (s.cairn.nuarn ≠ none → s.cairn.ready = false → s.cairn.engState = 4 → Answers (exec .stewardsReady s) fun s' =>
      s'.cairn.ready = true ∧ s'.cairn.engState = 5 ∧ s'.pcie.evtStat / 32 % 2 = 1) ∧
    ((s.cairn.nuarn = none ∨ s.cairn.ready = true ∨ s.cairn.engState ≠ 4) → exec .stewardsReady s = .next s)) ∧
  (∀ (s : State) (k : Nat), (stewardRuns s k = true → recentDeaths s k < 2 → Answers (exec (.stewardHeartbeatTimeout k) s) fun s' => SecondLife s s' k) ∧
    (stewardRuns s k = true → 2 ≤ recentDeaths s k → s.cairn.engState ≠ 15 → Answers (exec (.stewardHeartbeatTimeout k) s) fun s' =>
      (stewardOf s' k).retired = true ∧ (stewardOf s' k).restarting = false ∧ s'.pcie.evtStat / 8 % 2 = 1 ∧ AwaitsRepair s s') ∧
    (stewardRuns s k = false → exec (.stewardHeartbeatTimeout k) s = .next s)) ∧
  (∀ (s : State) (k : Nat), k < 4 → (stewardOf s k).restarting = true → Answers (exec (.stewardRestartComplete k) s) fun s' =>
    (stewardOf s' k).restarting = false ∧ (stewardOf s' k).awake = true ∧
    (∀ n, chanSteward n = some k → n < 312 → (chanOf s' n).restarted = true ∧ (chanOf s' n).asm = none ∧ (chanOf s' n).queue = [] ∧
      ∀ r ∈ (chanOf s' n).replies, r.status = 0x201) ∧
    (∀ n, chanSteward n ≠ some k → chanOf s' n = chanOf s n) ∧
    (∀ n m, s.cairn.ready = true → (stewardOf s k).retired = false → chanSteward n = some k → n < 312 → (chanOf s n).queue = [m] → (chanOf s n).replyValid = false → (chanOf s n).replies = [] →
      tabGet (chanOf s' n).reply 0 0 = w32 0x201 ∧ tabGet (chanOf s' n).reply 1 0 = m.cseq ∧ (chanOf s' n).rseq = m.seq)) ∧
  (∀ (s : State) (k : Nat), stewardRuns s k = true →
    (s.cairn.ready = true → stewardBusy s k = false → Answers (exec (.stewardIdleTimeout k) s) fun s' => (stewardOf s' k).awake = false ∧
      ∀ j, j ≠ k → stewardOf s' j = stewardOf s j) ∧
    (stewardBusy s k = true → exec (.stewardIdleTimeout k) s = .next s) ∧
    (Answers (exec (.stewardWake k) s) fun s' => (stewardOf s' k).awake = true ∧ ∀ j, j ≠ k → stewardOf s' j = stewardOf s j))

/-- CAIRN_ACCESS, CAIRN_SRAM_UE and WARDEN_WATCHDOG_EXPIRY (R386, R387, R388, R465): an access that the table allows reads, or writes the steward's own SRAM, its carve-out
or the context's view; one outside it is blocked and logged and its steward restarted; a call that breaks an invariant is refused, logged and its command
DENIED; an SRAM error restarts its steward, or, on the warden as its watchdog does, the engine. -/
def Sys2Proof.Claim.CairnFaults : Prop :=
  (∀ (s : State) (k : Nat) (t : CairnTarget) (addr : W32) (data : List Byte), stewardRuns s k = true →
    let ok := accessOk k addr.toNat data.length t
    (ok = true → (∀ i, t ≠ .badCall i) →
      (data = [] ∨ (∃ n, t = .mailbox n) ∨ t ∈ [.doorbell, .blockTable, .streamPlan, .callIf] → exec (.cairnAccess k t addr data) s = .next s) ∧
      (t = .ownSram → memWf (tabGet s.cairn.sram (k + 1) []) = true → Answers (exec (.cairnAccess k t addr data) s) fun s' =>
        s'.hbm = s.hbm ∧ s'.ctxs = s.ctxs ∧ ∀ j b, data[j]? = some b → memRd (tabGet s'.cairn.sram (k + 1) []) (addr.toNat + j) = b) ∧
      (t = .carveOut k → memWf s.hbm = true → Answers (exec (.cairnAccess k t addr data) s) fun s' => s'.cairn = s.cairn ∧ s'.ctxs = s.ctxs ∧
        ∀ j b, data[j]? = some b → memRd s'.hbm (stewardCarveAt k (addr.toNat + j)) = b) ∧
      (∀ c x, (t = .headRegion c ∨ t = .freeArea c) → ctxOf s c = some x → addr.toNat + data.length ≤ viewSz x → 16 ≤ addr.toNat →
        (cbClipC + 4 ≤ addr.toNat ∨ addr.toNat + data.length ≤ cbClipC) → data ≠ [] →
        exec (.cairnAccess k t addr data) s = .next (viewWrite s x addr.toNat data))) ∧
    (ok = false → recentDeaths s k < 2 → Answers (exec (.cairnAccess k t addr data) s) fun s' => SecondLife s s' k ∧ HasRec s' 0x0604 none) ∧
    (∀ i n m, t = .badCall i → workingChan s k = some n → Head s n m → Answers (exec (.cairnAccess k t addr data) s) fun s' =>
      HasRec s' 0x0605 none ∧ Replied s' n m 0x104 0x0F00 [] ∧ s'.cairn = s.cairn ∧ s'.ctxs = s.ctxs ∧ s'.sheaves = s.sheaves)) ∧
  (∀ (s : State) (core : Nat), s.module.rst = false →
    (core = 0 → s.cairn.maelec ≠ none → Answers (exec (.cairnSramUe core) s) fun s' => WardenGone s s' ∧ HasRec s' 0x0205 none) ∧
    (1 ≤ core → core ≤ 4 → stewardRuns s (core - 1) = true → recentDeaths s (core - 1) < 2 → Answers (exec (.cairnSramUe core) s) fun s' =>
      SecondLife s s' (core - 1) ∧ HasRec s' 0x0205 none)) ∧
  (∀ s : State, s.module.rst = false → s.cairn.maelec ≠ none → Answers (exec .wardenWatchdogExpiry s) fun s' => WardenGone s s' ∧
    (s.module.pgMain = true → s'.cairn.restart = some true)) ∧
  (∀ s : State, (s.module.rst = true ∨ s.cairn.maelec = none) → exec .wardenWatchdogExpiry s = .next s)

/-- The cores of the Cairn complex, their deaths and restarts: the two parts above. -/
def Obligations.CairnCores : Prop := Stewards ∧ CairnFaults

/-- UE_REPORT and TASK_FAULT (R435, R438, R440, R444, R456): a report costs the context that owned the data a partition reset, the second at
one SRAM place within the hour also its tile; a line of a swath buffer is bad; lost staging state makes replay impossible; a hard fault of a die takes the engine out of service; a
transient trap resets the context, any other cancels its submissions. -/
def Obligations.ErrorReports : Prop :=
  (∀ (s : State) (r : LogRec) (rest : List LogRec), s.module.rst = false → s.cairn.maelec ≠ none → s.reports = r :: rest →
    (Answers (exec (.ueReport none) s) fun s' => s'.reports = rest ∧ (r.kind = 0x0205 → HasRec s' 0x0205 r.ctx)) ∧
    (∀ c x, r.kind = 0x0201 ∨ r.kind = 0x0204 ∨ r.kind = 0x0206 → r.ctx = some c → ctxOf s c = some x → x.reset = none → c.toNat ∉ s.spaced →
      (noteErr s 1 r.index r.arg).2 < 2 ∨ r.kind ≠ 0x0201 → Answers (exec (.ueReport none) s) fun s' => s'.reports = rest ∧
        epochNow s' c = (epochNow s c + 1) % 8 ∧ ∃ x' q, ctxOf s' c = some x' ∧ x'.reset = some q ∧ q.cause = 1 ∧ q.begun = false ∧ q.impossible = none) ∧
    (r.kind = 0x0201 → 2 ≤ (noteErr s 1 r.index r.arg).2 → (∀ c, r.ctx = some c → ctxOf s c = none) → (tileOf s r.index).failed = false →
      Answers (exec (.ueReport none) s) fun s' => r.index ∈ s'.cairn.failedTiles) ∧
    (∀ c x, r.kind = 0x0203 → r.arg < 2 → r.ctx = some c → ctxOf s c = some x → x.reset = none → Answers (exec (.ueReport none) s) fun s' =>
      HasRec s' 0x0304 (some c) ∧ ∃ x' q, ctxOf s' c = some x' ∧ x'.reset = some q ∧ q.impossible = some 5)) ∧
  (∀ (s : State) (p off : Nat), s.module.rst = false → s.cairn.maelec ≠ none → s.module.pgMain = true → Answers (exec (.ueReport (some (.swath p off))) s) fun s' =>
    s'.reports = s.reports ∧ ∀ a, a ∈ (swathOf s' p).bad ↔ a ∈ (swathOf s p).bad ∨ a = off / 64 * 64) ∧
  (∀ (s : State) (die region : Nat) (c : BitVec 8), s.module.rst = false → s.cairn.maelec ≠ none → s.module.pgMain = true →
    (region % 4 = 2 → Answers (exec (.ueReport (some (.saddle die region (some c)))) s) fun s' => HasRec s' 0x0203 (some c) ∧ s'.hbm = s.hbm ∧
      s'.epochs = s.epochs ∧ ∀ x, ctxOf s c = some x → ∃ x', ctxOf s' c = some x' ∧ x'.reset = x.reset ∧ ∀ t ∈ currentSteps x, t ∈ x'.itemLogs) ∧
    (s.cairn.engState ≠ 6 → s.cairn.engState ≠ 15 → Answers (exec (.ueReport (some (.hard die))) s) fun s' =>
      s'.cairn.engState = 6 ∧ s'.cairn.oos = some (.remap 8 false))) ∧
  (∀ (s : State) (c : BitVec 8) (x : Ctx) (f : TaskFault) (rest : List TaskFault), ctxOf s c = some x → x.faults = f :: rest →
    stewardServes s (c.toNat % 4) = true →
    (f.trap = 5 → f.step ∈ x.itemLogs → x.reset = none → Answers (exec (.taskFault c) s) fun s' =>
      ∃ x' q, ctxOf s' c = some x' ∧ x'.faults = rest ∧ x'.reset = some q ∧ q.cause = 2 ∧ ∀ b ∈ x'.subs, b ∈ x.subs) ∧
    ((f.trap ≠ 5 ∨ f.step ∉ x.itemLogs) → Answers (exec (.taskFault c) s) fun s' => HasRec s' 0x0305 (some c) ∧
      ∃ x', ctxOf s' c = some x' ∧ x'.faults = rest ∧ ∀ b ∈ x'.subs, b.finished = false → b.cancelling = true))

namespace Sys2Proof.Claim

/-- The context as the plan takes it: a rerun from a restored boundary makes later instances unstarted (R480). -/
def planCtx (x : Ctx) (r : Reset) : Ctx := (r.rerunFrom.map (unstart x)).getD x

/-- The oldest step of a replay. -/
def planStep (x : Ctx) (r : Reset) : W32 := r.rerunFrom.getD (oldestStep (planCtx x r))

/-- The machine on which the plan is checked: bucket items of later steps gone in a rerun, streaming copies with a bad line emitted. -/
def planFrom (s : State) (c : BitVec 8) (x : Ctx) (r : Reset) : State :=
  let s := setCtx s c (planCtx x r)
  reemit { s with upd := s.upd.filter (fun u => !(r.rerunFrom.isSome && u.ctx == c && stepGe u.step (planStep x r))) } c

end Sys2Proof.Claim

/-- REPLAY_PLAN (R443, R448 to R450): a plan that is not due does nothing; one that cannot be done ends in REPLAY_IMPOSSIBLE with its reason; one
with members begins and logs REPLAY_BEGIN, the members on their tiles; one without members ends at once. -/
def Sys2Proof.Claim.ReplayPlans : Prop :=
  ∀ (s : State) (c : BitVec 8) (x : Ctx) (r : Reset), ctxOf s c = some x → x.reset = some r →
    (planDue s c r = false → exec (.replayPlan c) s = .next s) ∧
    (planDue s c r = true →
      let y := planCtx x r
      let old := planStep x r
      let f := planFrom s c x r
      (∀ why, noReplay f y c old (membersOf y) = some why → Answers (exec (.replayPlan c) s) fun s' => HasRec s' 0x0304 (some c) ∧
        ∃ x' q, ctxOf s' c = some x' ∧ x'.reset = some q ∧ q.impossible = some why ∧ q.begun = false) ∧
      (noReplay f y c old (membersOf y) = none → membersOf y ≠ [] → Answers (exec (.replayPlan c) s) fun s' => HasRec s' 0x0302 (some c) ∧
        ∃ x' q, ctxOf s' c = some x' ∧ x'.reset = some q ∧ q.begun = true ∧ q.members = membersOf y ∧ q.rno = r.rno ∧ x'.subs = y.subs) ∧
      (noReplay f y c old (membersOf y) = none → membersOf y = [] → Answers (exec (.replayPlan c) s) fun s' => HasRec s' 0x0303 (some c) ∧
        ∃ x', ctxOf s' c = some x' ∧ x'.reset = none ∧ x'.subs = y.subs))

/-- SPUR_REPAIR_TIMEOUT, TILE_PROBE_TIMEOUT and REMAP_DONE (R441, R455 to R457): contexts held by a spur that is not Attached wait for repair;
a running tile that has not answered a probe is declared failed; a mapping that presents everything returns the engine to service
with its sheaves rebound to healthy tiles, one that cannot leaves it waiting for repair. -/
def Sys2Proof.Claim.RepairTimeouts : Prop :=
  (∀ (s : State) (j : Nat), (spurState s j = spurAttached → exec (.spurRepairTimeout j) s = .next s) ∧
    (spurState s j ≠ spurAttached → Answers (exec (.spurRepairTimeout j) s) fun s' => ∀ c x, ctxOf s c = some x →
      (.spur j ∈ x.quiesced → ∃ x', ctxOf s' c = some x' ∧ .spur j ∉ x'.quiesced ∧ .spur j ∈ x'.waiting ∧ (∀ q, q ∈ x'.quiesced ↔ q ∈ x.quiesced ∧ q ≠ .spur j)) ∧
      (.spur j ∉ x.quiesced → ctxOf s' c = some x))) ∧
  (∀ (s : State) (i : Nat), (i ∉ s.cairn.probing → exec (.tileProbeTimeout i) s = .next s) ∧
    (i ∈ s.cairn.probing → ((i, false) ∈ s.cairn.probeSeen ∨ (tileOf s i).power ≠ .run) → Answers (exec (.tileProbeTimeout i) s) fun s' =>
      i ∉ s'.cairn.probing ∧ s'.tiles = s.tiles ∧ s'.cairn.failedTiles = s.cairn.failedTiles) ∧
    (i ∈ s.cairn.probing → (i, false) ∉ s.cairn.probeSeen → (tileOf s i).power = .run → Answers (exec (.tileProbeTimeout i) s) fun s' =>
      i ∉ s'.cairn.probing ∧ i ∈ s'.cairn.failedTiles ∧
      ((i, true) ∉ s.cairn.probeSeen → s.cairn.engState ≠ 6 → s.cairn.engState ≠ 15 → s'.cairn.engState = 6 ∧ s'.cairn.oos = some (.remap 8 false)))) ∧
  (∀ (s : State) (cls spares : Nat), s.cairn.oos = some (.remap cls false) →
    (s.module.pgMain = true → s.module.phase = .up →
      (∀ lost, lost ≠ [] → Answers (exec (.remapDone lost spares) s) fun s' => s'.cairn.oos = some (.remap cls true) ∧ s'.cairn.engState = s.cairn.engState ∧
        HasRec s' 0x0407 none ∧ ∀ c x', ctxOf s' c = some x' → .peer (engineId s) ∈ x'.waiting) ∧
      (Answers (exec (.remapDone [] spares) s) fun s' => s'.cairn.oos = none ∧ s'.cairn.engState = 5 ∧ HasRec s' 0x0406 none ∧
        s'.cairn.failedTiles = [] ∧ (∀ i, (tileOf s' i).failed = false ∧ (tileOf s' i).slots = [] ∧ (tileOf s' i).sram = []) ∧
        ∀ h b, tabFind s.sheaves h = some b → (tabFind s'.sheaves h).map (fun y => (y.ctx, y.x0, y.y0, y.shifts)) = some (b.ctx, b.x0, b.y0, []))) ∧
    ((s.module.pgMain = false ∨ s.module.phase ≠ .up) → ∀ lost, exec (.remapDone lost spares) s = .next s))

/-- The replay plan and the timeouts of repair: the two parts above. -/
def Obligations.ReplayAndRepair : Prop := ReplayPlans ∧ RepairTimeouts

namespace Sys2Proof.Claim

/-- A standby reset has taken everything but fuses, flash, the module's kind and the pins (R489, R494). -/
def Cleared (s s' : State) : Prop :=
  s'.module.rst = true ∧ s'.module.pgMain = false ∧ s'.module.phase = .off ∧ s'.cairn = .init ∧ s'.ctxs = [] ∧ s'.sheaves = [] ∧ s'.chans = [] ∧
    s'.tiles = [] ∧ s'.hbm = [] ∧ s'.epochs = [] ∧ s'.faultLog = .init ∧ s'.eventLog = .init ∧ s'.engine = none ∧ s'.shadow = Fuses.init ∧
    s'.fuses = s.fuses ∧ s'.flash0 = s.flash0 ∧ s'.flash1 = s.flash1 ∧ s'.dev = s.dev

/-- The firmware image in device k passes the checks of R420 with the fuses as they are. -/
def ImageGood (s : State) (k : Nat) : Prop := imageFail s.fuses (svnCount s.fuses) (hdrOf (flashOf s k)) (codeOf (flashOf s k)) = none

/-- The sixteen strap contacts as latched, D1 lowest (R495). -/
def strapWord (t : Straps) : BitVec 16 :=
  BitVec.ofBool t.dbg ++ t.slot ++ t.eth ++ BitVec.ofBool t.spur ++ t.pwr ++ BitVec.ofBool t.sec ++ t.host ++ t.boot

/-- Maelec of device k's image runs, measured (R420, R426). -/
def Boots (s s' : State) (k : Nat) : Prop :=
  ∃ u, s'.cairn.maelec = some u ∧ u.image = k ∧ u.svn = imSvn (hdrOf (flashOf s k)) ∧ u.keyIdx = imKey (hdrOf (flashOf s k)) ∧
    s'.cairn.meas.getD 1 0 = digestOf (toBytes 32 0 ++ toBytes 32 (digestOf ((hdrOf (flashOf s k)).take 256)).toNat) 

end Sys2Proof.Claim

/-- STANDBY_POWER_GOOD, STANDBY_BROWNOUT, STANDBY_OVERVOLTAGE, STBY_RST_ASSERT and STBY_RST_RELEASE (R420, R421, R430, R489, R490, R494 to
R496): power and reset take every state but fuses and flash; release latches the straps and the fuse shadow, and the ROM boots the
first image STRAP_BOOT selects that passes its checks, or fails. -/
def Obligations.StandbyAndBoot : Prop :=
  (∀ s : State, exec .standbyPowerGood s = .next { s with module := { s.module with stbyGood := true, stbyOff := false } }) ∧
  (∀ s : State, (Answers (exec .standbyBrownout s) fun s' => Cleared s s' ∧ s'.module.stbyGood = false) ∧
    (Answers (exec .standbyOvervoltage s) fun s' => Cleared s s' ∧ s'.module.stbyGood = false ∧ s'.module.stbyOff = true) ∧
    (Answers (exec .stbyRstAssert s) fun s' => Cleared s s' ∧ s'.module.stbyGood = s.module.stbyGood)) ∧
  (∀ (s : State) (d ch : BitVec 16), (s.module.rst = false ∨ s.module.stbyGood = false → exec (.stbyRstRelease d ch) s = .next s) ∧
    (s.module.rst = true → s.module.stbyGood = true → Answers (exec (.stbyRstRelease d ch) s) fun s' =>
      let t := s'.straps
      (∀ i, i < 16 → ch.getLsbD i = false → (strapWord t).getLsbD i = d.getLsbD i) ∧ s'.shadow = s.fuses ∧ s'.fuses = s.fuses ∧
      s'.module.rst = false ∧ s'.module.cap = powerClass s' ∧ s'.flash0 = s.flash0 ∧ s'.flash1 = s.flash1 ∧
      s'.cairn.debugOpen = (!t.dbg && !s.fuses.dbgdis) ∧
      (t.boot = 3 → s'.cairn.maelec = s.cairn.maelec ∧ s'.cairn.engState = s.cairn.engState) ∧
      (t.boot = 0 ∨ t.boot = 2 → ImageGood s 0 → Boots s s' 0 ∧ s'.cairn.engState = s.cairn.engState) ∧
      (t.boot = 1 ∨ t.boot = 2 ∧ ¬ ImageGood s 0 → ImageGood s 1 → Boots s s' 1 ∧ s'.cairn.engState = s.cairn.engState) ∧
      ((t.boot = 0 ∨ t.boot = 2) → ¬ ImageGood s 0 → HasRec s' 0x0101 none) ∧
      (t.boot = 0 ∧ ¬ ImageGood s 0 ∨ t.boot = 1 ∧ ¬ ImageGood s 1 ∨ t.boot = 2 ∧ ¬ ImageGood s 0 ∧ ¬ ImageGood s 1 →
        s'.cairn.maelec = none ∧ s'.cairn.engState = 15)))

/-- RECOVERY_IMAGE, WAFER_MAPPING_COMPLETE, HBM_TRAINING_COMPLETE, LINK_TRAINING_PHASE_END and SVN_BURN (R12, R422, R432, R433, R465): recovery
programs both devices with an image that passes the checks; the engine climbs from mapping over training to the point where Nuarn
is loaded, or fails where a shot or stack is lost; rollback fuses are only ever set, up to the version both images allow. -/
def Obligations.StartUpAndFuses : Prop :=
  (∀ (s : State) (img : List Byte), s.module.rst = false → s.straps.boot = 3 → s.cairn.engState = 0 →
    (img.length = compAt + imComplen (img.take hdrSize) →
      imageFail s.shadow (svnCount s.shadow) (img.take hdrSize) ((img.drop codeAt).take (imMaelen (img.take hdrSize))) = none →
      Answers (exec (.recoveryImage img) s) fun s' => s'.flash0 = (writeImage s.flash0 img).1 ∧ s'.flash1 = (writeImage s.flash1 img).1 ∧
        ((writeImage s.flash0 img).2 = true → (writeImage s.flash1 img).2 = true → HasRec s' 0x0102 none ∧ s'.cairn.engState = 15)) ∧
    (imageFail s.shadow (svnCount s.shadow) (img.take hdrSize) ((img.drop codeAt).take (imMaelen (img.take hdrSize))) ≠ none →
      exec (.recoveryImage img) s = .next s)) ∧
  (∀ s : State, s.cairn.engState = 1 →
    (Answers (exec (.waferMappingComplete []) s) fun s' => s'.cairn.engState = 2 ∧ s'.tiles = [] ∧ s'.mapPeriods = s.periods ∧ s'.cairn.failedTiles = []) ∧
    (∀ lost, lost ≠ [] → lost.length ≤ 64 → Answers (exec (.waferMappingComplete lost) s) fun s' => s'.cairn.engState = 15 ∧ s'.tiles = s.tiles ∧
      ∀ i ∈ lost, ∃ r ∈ s'.faultLog.recs, r.kind = 0x0104 ∧ r.arg = i % 64)) ∧
  (∀ s : State, s.cairn.engState = 2 →
    (∀ lost, lost ≠ [] → Answers (exec (.hbmTrainingComplete lost) s) fun s' => s'.cairn.engState = 15) ∧
    (s.cairn.restart = none → Answers (exec (.hbmTrainingComplete []) s) fun s' => s'.cairn.engState = 3 ∧ s'.ctxs = s.ctxs ∧ s'.hbm = s.hbm) ∧
    (∀ wd, s.cairn.restart = some wd → Answers (exec (.hbmTrainingComplete []) s) fun s' => s'.cairn.engState = 3 ∧ s'.cairn.restart = none ∧
      (tablesOk s = false → s'.ctxs = [] ∧ s'.sheaves = [] ∧ s'.hbm = []) ∧
      (tablesOk s = true → ∀ c x, ctxOf s c = some x → ∃ x', ctxOf s' c = some x' ∧ x'.slabMap = x.slabMap ∧ x'.graphs = x.graphs))) ∧
  (∀ s : State, (s.cairn.engState = 3 → Answers (exec .linkTrainingPhaseEnd s) fun s' => s'.cairn = { s.cairn with engState := 4 }) ∧
    (s.cairn.engState ≠ 3 → exec .linkTrainingPhaseEnd s = .next s)) ∧
  (∀ (s : State) (u : Maelec), s.cairn.maelec = some u →
    (s.cairn.wasReady = false → exec .svnBurn s = .next s) ∧
    (s.cairn.wasReady = true →
      let other := flashOf s (1 - u.image)
      let n := if imageFail s.shadow 0 (hdrOf other) (codeOf other) = none then min u.svn (imSvn (hdrOf other)) else u.svn
      Answers (exec .svnBurn s) fun s' => max (svnCount s.shadow) (min 64 n) ≤ svnCount s'.fuses ∧
        (s.shadow.svn = s.fuses.svn → svnCount s'.fuses = max (svnCount s.fuses) (min 64 n)) ∧
        (∀ i, s.fuses.svn.getLsbD i = true → s'.fuses.svn.getLsbD i = true) ∧
        (∀ i, i < 4 → s'.fuses.keyrev.getLsbD i = (s.fuses.keyrev.getLsbD i || (u.revoke.testBit i && i != u.keyIdx))) ∧
        s'.fuses.dbgdis = s.fuses.dbgdis ∧ s'.fuses.keyhash = s.fuses.keyhash ∧ s'.fuses.idseed = s.fuses.idseed ∧ s'.fuses.serial = s.fuses.serial ∧
        s'.shadow = s.shadow))

namespace Sys2Proof.Claim

/-- Main power is gone with a logged cause (R492 to R494, R516): wafer, HBM and contexts cleared, ENGSTATE back at 0, fuses and logs kept. -/
def PowerGone (s s' : State) (cause : Nat) : Prop :=
  s'.module.pgMain = false ∧ s'.module.phase = .off ∧ s'.tiles = [] ∧ s'.hbm = [] ∧ s'.ctxs = [] ∧ s'.sheaves = [] ∧ s'.engine = none ∧
    s'.cairn.nuarn = none ∧ (s.cairn.engState ≠ 15 → s'.cairn.engState = 0) ∧ s'.cairn.meas = s.cairn.meas ∧ s'.fuses = s.fuses ∧ s'.epochs = s.epochs ∧
    ∃ r ∈ s'.faultLog.recs, r.kind = 0x0701 ∧ r.arg = cause

/-- An orderly power-down has begun (R491): ENGSTATE 0x06, every context FAULTED with cause 5. -/
def OrderlyBegins (s s' : State) : Prop :=
  s'.module.phase = .orderly ∧ s'.cairn.oos = some (.powerDown false) ∧ s'.cairn.engState = 6 ∧ s'.module.pgMain = s.module.pgMain ∧
    (s.cairn.engState ≠ 6 → ∀ c x, ctxOf s c = some x → ∃ x' r, ctxOf s' c = some x' ∧ x'.reset = some r ∧ r.cause = 5 ∧ x'.subs = x.subs)

/-- The main supply runs, or comes up, and the standby domain is out of reset. -/
def Powered (s : State) : Prop := s.module.rst = false ∧ s.module.phase ≠ .off

end Sys2Proof.Claim

/-- MAIN_EN_RISE, MAIN_POWERUP_START, PRECHARGE_COMPLETE and MAIN_EN_LOW (R490, R491, R506): power-up starts once MAIN_EN has risen, J1 has held
its threshold for 1 s at 310 V or more, the interlock is closed and the inlet is at 5 degrees or more; the end of precharge raises
PG_MAIN with F_G at FMAX; MAIN_EN low begins the orderly power-down. -/
def Sys2Proof.Claim.MainPower : Prop :=
  (∀ s : State, (s.module.mainEn = false → exec .mainEnRise s = .next { s with module := { s.module with mainEn := true, eoffWait := false } }) ∧
    (s.module.mainEn = true → exec .mainEnRise s = .next s)) ∧
  (∀ (s : State) (mv inlet : Nat) (held intlk : Bool),
    (s.module.rst = false → s.cairn.maelec ≠ none → s.cairn.engState = 0 → s.module.phase = .off → s.module.mainEn = true → s.module.eoffWait = false →
      held = true → intlk = true → 310000 ≤ mv → 500 ≤ inlet →
      exec (.mainPowerupStart mv inlet held intlk) s = .next { s with module := { s.module with phase := .precharge } }) ∧
    (s.module.rst = true ∨ s.cairn.maelec = none ∨ s.module.mainEn = false ∨ s.module.eoffWait = true ∨ held = false ∨ intlk = false ∨ mv < 310000 ∨ inlet < 500 →
      exec (.mainPowerupStart mv inlet held intlk) s = .next s)) ∧
  (∀ s : State, (s.module.phase = .precharge → Answers (exec .prechargeComplete s) fun s' => s'.module.phase = .up ∧ s'.module.pgMain = true ∧
      s'.module.fg = s.module.fmax ∧ s'.module.level = 0 ∧ (∀ k, shotCeil s' k = 27) ∧ s'.cairn = s.cairn ∧ s'.tiles = s.tiles) ∧
    (s.module.phase ≠ .precharge → exec .prechargeComplete s = .next s)) ∧
  (∀ s : State, (Powered s → s.module.phase ≠ .orderly → Answers (exec .mainEnLow s) fun s' => s'.module.mainEn = false ∧ OrderlyBegins s s') ∧
    (¬ Powered s → exec .mainEnLow s = .next { s with module := { s.module with mainEn := false } }))

/-- EOFF_N_ASSERT, INTLK_OPEN, J1_UNDERVOLTAGE, J1_OVERVOLTAGE, INLET_OVERTEMP_TIMEOUT, FLOW_LOW_TIMEOUT and THERMAL_TRIP (R484, R488, R492,
R493, R497, R502, R516): an immediate power-down clears the main domain and logs its cause; coolant too warm above 45 degrees or a
flow below 40 L/min begins the orderly one; a reading that passes no threshold does nothing. -/
def Sys2Proof.Claim.PowerDowns : Prop :=
  (∀ s : State, Powered s →
    (Answers (exec .eoffNAssert s) fun s' => PowerGone s s' 3 ∧ s'.module.eoffWait = true ∧ s'.module.alertLatch = true) ∧
    (Answers (exec .intlkOpen s) fun s' => PowerGone s s' 6) ∧ (Answers (exec .j1Undervoltage s) fun s' => PowerGone s s' 1) ∧
    (Answers (exec .j1Overvoltage s) fun s' => PowerGone s s' 2) ∧
    (∀ cls index reading, tripped cls reading = true → Answers (exec (.thermalTrip cls index reading) s) fun s' =>
      PowerGone s s' 4 ∧ ∃ r ∈ s'.faultLog.recs, r.kind = 0x0702 ∧ r.arg = cls + 2 ^ 8 * (index % 2 ^ 16) + 2 ^ 24 * (reading % 2 ^ 16)) ∧
    (∀ reading, s.module.phase ≠ .orderly →
      (4500 < reading → Answers (exec (.inletOvertempTimeout reading) s) fun s' => OrderlyBegins s s') ∧
      (reading < 4000 → Answers (exec (.flowLowTimeout reading) s) fun s' => OrderlyBegins s s'))) ∧
  (∀ (s : State) (cls index reading : Nat), (tripped cls reading = false → exec (.thermalTrip cls index reading) s = .next s) ∧
    (reading ≤ 4500 → exec (.inletOvertempTimeout reading) s = .next s) ∧ (4000 ≤ reading → exec (.flowLowTimeout reading) s = .next s)) ∧
  (∀ cls reading : Nat, tripped cls reading = true ↔ cls = 1 ∧ 11500 ≤ reading ∨ cls = 2 ∧ 11000 ≤ reading ∨ cls = 3 ∧ 10500 ≤ reading ∨ cls = 4 ∧ reading < 2000 ∨ cls = 5)

/-- Main power up and down: the two parts above. -/
def Obligations.PowerSequence : Prop := MainPower ∧ PowerDowns

/-- TILE_HOT, TILE_HOT_RELEASE, HBM_HOT, HBM_VERY_HOT, DIE_HOT and DERATE (R497, R502, R503, R505): a hot tile passes every second clock period
until it is released; the stack and die trips hold while their reading is at the threshold; the derates follow the readings and
lower the cap. -/
def Sys2Proof.Claim.ThermalTrips : Prop :=
  (∀ (s : State) (i : Nat), tileUp s i = true →
    ((tileOf s i).hot = false → (tileOf s i).power = .run → Answers (exec (.tileHot i) s) fun s' => tileOf s' i = { cycFix (envOf s i) (tileOf s i) with hot := true, cycFrom := s.hotPeriods } ∧
      i ∈ s'.module.hotActed ∧ (∀ j, j ≠ i → tileOf s' j = tileOf s j) ∧ s'.pcie.evtStat / 16 % 2 = 1 ∧
      ∀ k, k < 8 → (periodPasses s' i k = true ↔ k % 2 = 0 ∧ k < 8 - s.module.level)) ∧
    ((tileOf s i).hot = true → exec (.tileHot i) s = .next s ∧ Answers (exec (.tileHotRelease i) s) fun s' =>
      tileOf s' i = { cycFix (envOf s i) (tileOf s i) with hot := false, cycFrom := s.periods } ∧ (∀ j, j ≠ i → tileOf s' j = tileOf s j) ∧ s'.pcie.evtStat / 16 % 2 = 1)) ∧
  (∀ (s : State) (k reading : Nat),
    (s.module.pgMain = true → k < 24 → (Answers (exec (.hbmHot k reading) s) fun s' => (k ∈ s'.module.hbmHot ↔ 8500 ≤ reading) ∧
        ∀ j, j ≠ k → (j ∈ s'.module.hbmHot ↔ j ∈ s.module.hbmHot)) ∧
      Answers (exec (.hbmVeryHot k reading) s) fun s' => (k ∈ s'.module.hbmVery ↔ 9500 ≤ reading) ∧ ∀ j, j ≠ k → (j ∈ s'.module.hbmVery ↔ j ∈ s.module.hbmVery)) ∧
    (s.module.rst = false → k < 96 → Answers (exec (.dieHot k reading) s) fun s' => (k ∈ s'.module.dieHot ↔ 10000 ≤ reading) ∧
      ∀ j, j ≠ k → (j ∈ s'.module.dieHot ↔ j ∈ s.module.dieHot))) ∧
  (∀ (s : State) (reading : Nat), s.module.rst = false →
    (Answers (exec (.derate 1 reading) s) fun s' => s'.module.inletCap = (if 4000 < reading then some (powerClass s - (reading - 4000) / 5) else none) ∧
      capNow s' ≤ (s'.module.inletCap).getD (powerClass s)) ∧
    (Answers (exec (.derate 2 reading) s) fun s' => s'.module.flowCap = (if reading < 5500 then some (powerClass s * reading / 6000) else none) ∧
      capNow s' ≤ (s'.module.flowCap).getD (powerClass s)) ∧
    (s.module.phase ≠ .off → Answers (exec (.derate 3 reading) s) fun s' => s'.module.curDerate = true ∧ capNow s' = capNow s))

/-- POWER_LIMITER_WINDOW, LOOP_PERIOD, TELEMETRY_FRAME and TLM_I3C_ADDRESS_WRITE (R504, R507, R511 to R514): a window above 0.99 of the cap
raises the limiter; the loop lowers it, then F_G, and raises F_G after ten quiet periods, and moves the ceilings of warm and cool
shots; each frame counts up, carries the time, and adds its energy. -/
def Sys2Proof.Claim.ControlLoop : Prop :=
  (∀ (s : State) (mean : Nat), s.module.pgMain = true → Answers (exec (.powerLimiterWindow mean) s) fun s' =>
    s'.module.level = (if 99 * capNow s < mean ∧ s.module.level < 7 then s.module.level + 1 else s.module.level) ∧
    s'.module.winHigh = (s.module.winHigh || decide (98 * loopCapNow s < mean)) ∧ s'.module.winSum = s.module.winSum + mean ∧ s'.module.winN = s.module.winN + 1 ∧
    s'.module.loopCap = if s.module.winN = 0 then s.module.cap else s.module.loopCap) ∧
  (∀ (s : State) (p : LoopIn), s.module.pgMain = true → stewardServes s 0 = true → Answers (exec (.loopPeriod p) s) fun s' =>
    (s.module.level > 0 → s.module.winHigh = false → s'.module.level = s.module.level - 1 ∧ s'.module.fg = s.module.fg) ∧
    (s.module.level > 0 → s.module.winHigh = true → s'.module.level = s.module.level ∧ s'.module.fg = max 10 (s.module.fg - 1)) ∧
    (s.module.level = 0 → 98 * loopCapNow s * s.module.winN < s.module.winSum → s'.module.fg = max 10 (s.module.fg - 1)) ∧
    (s.module.level = 0 → s.module.winSum ≤ 98 * loopCapNow s * s.module.winN → s'.module.level = 0 ∧ s'.module.fg =
      if 9 ≤ s.module.levelZeroMs ∧ 9 ≤ s.module.fgMs ∧ s.module.fg < s.module.fmax ∧ predictOk s.module (loopCapNow s) p.wafer = true
        then s.module.fg + 1 else s.module.fg) ∧
    (∀ k, k < 64 → k ∈ p.warm → shotCeil s' k = max 10 (shotCeil s k - 1)) ∧
    (∀ k, k < 64 → k ∉ p.warm → k ∉ p.cool → shotCeil s' k = shotCeil s k) ∧
    (∀ k, k < 64 → k ∉ p.warm → k ∈ p.cool → (s'.module.fg ≤ shotCeil s k → shotCeil s' k = shotCeil s k) ∧
      (shotCeil s k < s'.module.fg → (∀ q ∈ s.module.ceilMs, q.1 = k → q.2 ≤ 1) → shotCeil s' k = shotCeil s k + 1 ∧
        tabGet s'.module.ceilMs k 0 = 10)) ∧
    (∀ q ∈ s.sheaves, ∀ i ∈ rectTiles q.2.x0 q.2.y0 q.2.w q.2.h, (tileOf s i).power = .run → (tileOf s' i).freq = tileFreq s' i) ∧
    s'.module.winHigh = false ∧ s'.module.winSum = 0 ∧ s'.module.winN = 0) ∧
  (∀ (s : State) (t : TlmIn), s.module.rst = false → Answers (exec (.telemetryFrame t) s) fun s' =>
    s'.cairn.ms = s.cairn.ms + 1 ∧ s'.tlm.energy = (s.tlm.energy + t.pin) % 2 ^ 64 ∧
    (s.cairn.maelec ≠ none → s'.tlm.last = (s.tlm.last + 1) % 2 ^ 32 ∧
      ∀ k v, (k, v) ∈ [(0, s'.tlm.last), (1, s'.cairn.ms % 2 ^ 32), (2, t.vin), (3, t.iin), (4, t.pin), (5, t.ppeak), (8, s'.tlm.energy % 2 ^ 32),
          (9, s'.tlm.energy / 2 ^ 32), (63, s'.tlm.last)] → tabGet s'.tlm.frame k 0 = w32 v) ∧
      ((tabGet s'.tlm.frame 18 0).toNat / 4 % 2 = 1 ↔ 9500 ≤ t.shotTemp.toInt)) ∧
  (∀ (s : State) (addr : Nat) (l : List W32), s.module.stbyGood = true → s.module.stbyOff = false →
    (addr ≤ 0xFC → addr % 4 = 0 → exec (.tlmI3cAddressWrite addr l) s = .next { s with tlm := { s.tlm with i3c := addr } }) ∧
    ((0xFC < addr ∨ addr % 4 ≠ 0) → exec (.tlmI3cAddressWrite addr l) s = .next s))

/-- Trips, derates, the limiter, the loop and telemetry: the two parts above. -/
def Obligations.ThermalControl : Prop := ThermalTrips ∧ ControlLoop

namespace Sys2Proof.Claim

/-- An open context whose owner sends a command that it takes in every state. -/
structure CtxAny (s : State) (n : Nat) (c : BitVec 8) (x : Ctx) : Prop where
  ctx : ctxOf s c = some x
  owner : fromOwner n x = true
  scrubbed : beingScrubbed s c = false
  closing : x.closing = false

/-- A section that the store delivers whole and undamaged, by the manifest's entry for it (R474). -/
def SectGood (a : StoreAnswer) (man : List Byte) (k : Nat) : Prop :=
  ∃ b, sectBytes a k = some b ∧ b.length = (sectEntry man k).2.1 ∧
    (sectEntry man k).2.2 = secDigest (memWriteBytes [] (sectEntry man k).1 b) (sectEntry man k).1 b.length

end Sys2Proof.Claim

/-- STOOK_TAKE and STOOK_VERIFY (R410, R469, R481): a cadence is set for a context with a plan, a base of 16 TiB blocks and a reachable store;
a comparison of losses answers once the seal part of the restored step is held, with LOSS_MISMATCH where they differ. -/
def Sys2Proof.Claim.StookTakeAndVerify : Prop :=
  (∀ (s : State) (n : Nat) (m : Msg) (x : Ctx), Cmd s n m 0x0601 →
    let c : BitVec 8 := BitVec.ofNat 8 (argN m 2)
    let ep : BitVec 24 := BitVec.ofNat 24 (argN m 5)
    let base := argN2 m 6
    CtxReady s n c x →
    (hasFeature s n 3 = false → Answers (exec (.stookTake n) s) fun s' => s'.ctxs = s.ctxs ∧ Replied s' n m 0x104 1 []) ∧
    (hasFeature s n 3 = true → argsOk m [(2, 0xFF), (3, m32), (4, m32), (5, 0xFFFFFF), (6, m32), (7, m32)] = true →
      ((base % 2 ^ 44 ≠ 0 ∨ endpointOf s ep (fun _ => true) = none) → Answers (exec (.stookTake n) s) fun s' => s'.ctxs = s.ctxs ∧ Replied s' n m 0x102 0x35 []) ∧
      (base % 2 ^ 44 = 0 → endpointOf s ep (fun _ => true) ≠ none →
        (x.win.plan = none → Answers (exec (.stookTake n) s) fun s' => s'.ctxs = s.ctxs ∧ Replied s' n m 0x102 0x31 []) ∧
        (x.win.plan ≠ none → Answers (exec (.stookTake n) s) fun s' => Replied s' n m 0 0 [] ∧ ∃ y, ctxOf s' c = some { x with cad := some y } ∧
          y.k = argN m 3 ∧ y.first = w32 (argN m 4) ∧ y.ep = ep ∧ y.base.toNat = base)))) ∧
  (∀ (s : State) (n : Nat) (m : Msg) (x : Ctx), Cmd s n m 0x0603 →
    let c : BitVec 8 := BitVec.ofNat 8 (argN m 2)
    CtxReady s n c x →
    (hasFeature s n 3 = false → Answers (exec (.stookVerify n) s) fun s' => s'.ctxs = s.ctxs ∧ Replied s' n m 0x104 1 []) ∧
    (hasFeature s n 3 = true → argsOk m [(2, 0xFF)] = true →
      ((∀ st want, x.restored ≠ some (st, some want)) → Answers (exec (.stookVerify n) s) fun s' => s'.ctxs = s.ctxs ∧ Replied s' n m 0x102 0x36 []) ∧
      (∀ st want, x.restored = some (st, some want) →
        (sealOf x st = none → Answers (exec (.stookVerify n) s) fun s' => s'.ctxs = s.ctxs ∧ (chanOf s' n).queue = [m] ∧
          (chanOf s' n).await = some (.verify c) ∧ (chanOf s' n).replyValid = false) ∧
        (∀ p, sealOf x st = some p →
          let loss := leNat (p.data.take 4)
          (want.toNat = loss → Answers (exec (.stookVerify n) s) fun s' => s'.ctxs = s.ctxs ∧ Replied s' n m 0 0 [want, w32 loss]) ∧
          (want.toNat ≠ loss → s.sheaves.length ≤ 256 → Answers (exec (.stookVerify n) s) fun s' => HasRec s' 0x0504 (some c) ∧
            Replied s' n m 0x402 0 [want, w32 loss])))))

/-- STOOK_RESTORE (R478 to R480): without a plan, or with work unfinished, it is DENIED; a store, manifest, plan or stream that does not fit is
answered with its code and nothing changes; a section missing or damaged is answered after the fence; otherwise the context goes
on after the restored step with its seed, its versions and its layer table, and its peers are told. -/
def Sys2Proof.Claim.StookRestores : Prop :=
  ∀ (s : State) (n : Nat) (m : Msg) (x : Ctx) (a : StoreAnswer), Cmd s n m 0x0602 →
    let c : BitVec 8 := BitVec.ofNat 8 (argN m 2)
    let ep : BitVec 24 := BitVec.ofNat 24 (argN m 3)
    CtxAny s n c x → hasFeature s n 3 = true → argsOk m [(2, 0x1FF), (3, 0xFFFFFF), (4, m32), (5, m32), (6, m32), (7, m32)] = true →
    (x.win.plan = none → Answers (exec (.stookRestore n a) s) fun s' => sameWork s s' ∧ Replied s' n m 0x104 2 []) ∧
    (x.win.plan ≠ none → unfinished x ≠ [] → x.reset = none → Answers (exec (.stookRestore n a) s) fun s' => sameWork s s' ∧ Replied s' n m 0x104 2 []) ∧
    (∀ pl, x.win.plan = some pl → unfinished x = [] → argN2 m 6 = 0 →
      ((endpointOf s ep (fun _ => true) = none ∨ a.manifest = none) → Answers (exec (.stookRestore n a) s) fun s' =>
        sameWork s s' ∧ Replied s' n m 0x102 0x33 []) ∧
      (∀ man b0 b2, endpointOf s ep (fun _ => true) ≠ none → a.manifest = some man → sectBytes a 0 = some b0 → sectBytes a 2 = some b2 →
        (manifestOk s man = false → Answers (exec (.stookRestore n a) s) fun s' => sameWork s s' ∧ Replied s' n m 0x102 0x32 []) ∧
        (manifestOk s man = true → manifestFits s x pl man b2 = false → Answers (exec (.stookRestore n a) s) fun s' =>
          sameWork s s' ∧ Replied s' n m 0x102 0x31 []) ∧
        (manifestOk s man = true → manifestFits s x pl man b2 = true →
          (∀ st rec pres, argBit m 2 8 = false → streamClash (hostStreams b0) [] = some (st, rec, pres) → Answers (exec (.stookRestore n a) s) fun s' =>
            sameWork s s' ∧ Replied s' n m 0x401 0 [w32 st, w32 rec, w32 (rec / 2 ^ 32), w32 pres, w32 (pres / 2 ^ 32)]) ∧
          ((argBit m 2 8 = true ∨ streamClash (hostStreams b0) [] = none) → c.toNat ∉ s.spaced →
            let step := w32 (fld man 8 4)
            ((∀ k, k < 5 → SectGood a man k) → Answers (exec (.stookRestore n a) s) fun s' => Replied s' n m 0 0 [] ∧
              epochNow s' c = (epochNow s c + 1) % 8 ∧ ∃ x', ctxOf s' c = some x' ∧ x'.seed = BitVec.ofNat 64 (fld man 32 8) ∧
                x'.boundaryDone = some step ∧ x'.restored = some (step, sealLoss step.toNat a.sealLine) ∧ x'.reset = none ∧ x'.stook = none ∧
                x'.win.plan = some pl) ∧
            ((∃ k, k < 5 ∧ sectBytes a k = none) → Answers (exec (.stookRestore n a) s) fun s' => Replied s' n m 0x102 0x33 [] ∧
              epochNow s' c = (epochNow s c + 1) % 8 ∧ ∃ x', ctxOf s' c = some x' ∧ x'.restored = none) ∧
            ((∀ k, k < 5 → sectBytes a k ≠ none) → (∃ k, k < 5 ∧ ¬ SectGood a man k) → Answers (exec (.stookRestore n a) s) fun s' =>
              Replied s' n m 0x102 0x34 [] ∧ epochNow s' c = (epochNow s c + 1) % 8 ∧ ∃ x', ctxOf s' c = some x' ∧ x'.restored = none)))))

/-- STOOK_TAKE, STOOK_VERIFY and STOOK_RESTORE: the two parts above. -/
def Obligations.StookCommands : Prop := StookTakeAndVerify ∧ StookRestores

/-- A step keeps the module's trust in order (R417, R422, R430): no fuse that is set becomes clear, the shadow stays within the fuses, and the debug
port is open only where the latched strap and the shadow of DBGDIS allow it. -/
def Obligations.StepKeepsTrust : Prop :=
  ∀ s s' : State, TrustInv s → Sys2Proof.Machine.step s = .next s' → TrustInv s' ∧ s'.dev = s.dev ∧
    (s.fuses.dbgdis = true → s'.fuses.dbgdis = true) ∧ (∀ i, s.fuses.svn.getLsbD i = true → s'.fuses.svn.getLsbD i = true) ∧
    (∀ i, s.fuses.keyrev.getLsbD i = true → s'.fuses.keyrev.getLsbD i = true) ∧ s'.fuses.serial = s.fuses.serial ∧
    s'.fuses.idseed = s.fuses.idseed ∧ s'.fuses.keyhash = s.fuses.keyhash

/-- A step keeps the canonical form of HBM: addresses strictly rising, no byte 0 listed, so that equal memories are equal data. -/
def Obligations.StepKeepsMemory : Prop :=
  ∀ s s' : State, memWf s.hbm = true → Sys2Proof.Machine.step s = .next s' → memWf s'.hbm = true

/-- What standby reset leaves (R391, R417, R452, R494, R495, R506): no command waiting, nothing running, main power off, every EPOCH 0, every message
timeout at 20,000, memories unlisted, policy at its defaults; and there the invariants of the two statements on steps hold. -/
def Obligations.ResetState : Prop :=
  let s := State.reset
  s.pending = [] ∧ s.module.rst = true ∧ s.module.pgMain = false ∧ s.module.phase = .off ∧ s.module.cap = 280 ∧ s.module.fmax = 27 ∧ s.module.fallowOk = true ∧
    s.cairn.engState = 0 ∧ s.cairn.maelec = none ∧ s.cairn.meas = List.replicate 8 0 ∧ s.ctxs = [] ∧ s.sheaves = [] ∧ s.hbm = [] ∧
    (∀ c, epochNow s c = 0) ∧ (∀ n, (chanOf s n).tmo = 20000 ∧ (chanOf s n).queue = [] ∧ (chanOf s n).replyValid = false ∧ (chanOf s n).irq = 0) ∧
    (∀ i, (tileOf s i).power = .run ∧ (tileOf s i).slots = [] ∧ (tileOf s i).s = [] ∧ (tileOf s i).runlen = 0x3F ∧ (tileOf s i).inSheaf = false) ∧
    s.faultLog.recs = [] ∧ s.eventLog.recs = [] ∧ s.pcie.evtStat = 0 ∧ s.pcie.evtEn = 0 ∧ TrustInv s ∧ memWf s.hbm = true

/-- No command's meaning touches the queue of waiting commands, and every command answers a next state. -/
def Obligations.ExecKeepsQueue : Prop :=
  ∀ (c : Instr) (s : State), Answers (exec c s) fun s' => s'.pending = s.pending ∧ s'.dev = s.dev

/-- The state a tick later, with nothing due: the time base, and the clock periods that the limiter's level lets pass of eight (R503), the even
ones of these in a hot tile. -/
def Sys2Proof.Claim.idled (s : State) : State :=
  { s with ticks := s.ticks + 1, periods := s.periods + (8 - s.module.level), hotPeriods := s.hotPeriods + (9 - s.module.level) / 2 }

/-- On an empty queue the block idles for a tick (the model's choice, log entry 1): the time base advances; after main power-up the image's
companion area is checked and the mapping starts (R427, R490), or the engine fails; an orderly power-down tells the peers and then
switches off (R491, R492). -/
def Obligations.IdleSteps : Prop :=
  ∀ s : State, s.pending = [] →
    (s.module.phase ≠ .orderly → (s.module.pgMain = false ∨ s.cairn.maelec = none ∨ s.cairn.compOk = true ∨ s.cairn.engState ≠ 0) →
      Sys2Proof.Machine.step s = .next (idled s)) ∧
    (∀ u, s.module.phase ≠ .orderly → s.module.pgMain = true → s.cairn.maelec = some u → s.cairn.compOk = false → s.cairn.engState = 0 →
      let m := flashOf s u.image
      (compValid (hdrOf m) (compOf m) = true → Answers (Sys2Proof.Machine.step s) fun s' => s'.cairn.engState = 1 ∧ s'.cairn.compOk = true ∧
        s'.ticks = s.ticks + 1 ∧ s'.cairn.maelec.map (·.image) = some u.image) ∧
      (compValid (hdrOf m) (compOf m) = false → (s.straps.boot ≠ 2 ∨ u.image ≠ 0) → Answers (Sys2Proof.Machine.step s) fun s' =>
        s'.cairn.engState = 15 ∧ s'.cairn.maelec = none ∧ HasRec s' 0x0101 none)) ∧
    (s.module.phase = .orderly → (s.cairn.maelec = none ∨ s.cairn.engState ≠ 0) →
      (s.cairn.oos = some (.powerDown false) → (∀ p ∈ s.ctxs, stookMoves p.2 = true) → s.ctxs ≠ [] →
        Sys2Proof.Machine.step s = .next (idled s)) ∧
      (s.cairn.oos = some (.powerDown false) → (∀ p ∈ s.ctxs, stookMoves p.2 = false) → Answers (Sys2Proof.Machine.step s) fun s' =>
        s'.cairn.oos = some (.powerDown true) ∧ s'.module.phase = .orderly ∧ ∀ c x' k, ctxOf s' c = some x' → x'.stook = some k → k.st = .opened →
          k.manifestSent = true) ∧
      (s.cairn.oos = some (.powerDown true) → Answers (Sys2Proof.Machine.step s) fun s' => PowerGone s s' 5))

namespace Sys2Proof.Claim

/-- An FP32 NaN: exponent all ones, fraction not 0. -/
def IsNan (x : W32) : Prop := 0x7F800000 < x.toNat % 2 ^ 31

/-- The order of FP32 values that are no NaN, with -0 below +0. -/
def FpLe (x y : W32) : Prop :=
  (x.msb = true ∧ y.msb = false) ∨ (x.msb = false ∧ y.msb = false ∧ x.toNat ≤ y.toNat) ∨ (x.msb = true ∧ y.msb = true ∧ y.toNat ≤ x.toNat)

/-- A frame that is discarded as malformed: logged, with nothing of it delivered or accepted; a sequenced one raises a NAK. -/
def FrameGone (s s' : State) (p : Nat) (f : RawFrame) : Prop :=
  let l := linkOf s p
  let l' := linkOf s' p
  HasRec s' 0x1201 none ∧ l'.kernel = l.kernel ∧ l'.urg = l.urg ∧ l'.par = l.par ∧ l'.grd = l.grd ∧ l'.eng = l.eng ∧ l'.rx = l.rx ∧
    l'.rxLast = l.rxLast ∧ s'.swaths = s.swaths ∧ s'.tiles = s.tiles ∧ (lwSq f.lw = true → l'.nak = true)

end Sys2Proof.Claim

/-- VMAX (R133): IMM[0] is the type; each lane takes the maximum of the two, signed for INT32; for FP32 a NaN in either lane gives
0x7FC0_0000, and +0 is greater than -0. Nothing but V(rd) and the unit changes. -/
def Obligations.VectorMaximum : Prop :=
  (∀ (o : TInsn) (s : State) (k : Nat) (sl : Slot), Issues s o.tile k sl → (tileOf s o.tile).vecQ.length < 8 → Entries (tileOf s o.tile) 0 →
    IsV o.rd → IsV o.rs1 → IsV o.rs2 → o.imm.toNat < 2 →
    exec (.vmax o) s = goesOn s o.tile (inVector (tileOf s o.tile)
      (issued (tileOf s o.tile) k sl (.vmax (vNo o.rd) (vNo o.rs1) (vNo o.rs2) (o.imm.getLsbD 0)) [] [] 0 []))) ∧
  (∀ (s : State) (i : Nat) (op : UOp) (d a b : Nat) (int : Bool), tileUp s i = true →
    let t := tileOf s i
    t.pendLoad = none → t.vec = some op → op.kind = .vmax d a b int → ∃ v : Line,
      exec (.unitInstructionComplete i .vector) s = goesOn s i { t with vec := none, v := tabPut t.v d 0 v } ∧ ∀ j, j < 16 →
        let x := lane (tabGet t.v a 0) j
        let y := lane (tabGet t.v b 0) j
        (int = true → lane v j = if x.slt y then y else x) ∧
        (int = false → (IsNan x ∨ IsNan y → lane v j = 0x7FC00000) ∧
          (¬ IsNan x → ¬ IsNan y → (lane v j = x ∨ lane v j = y) ∧ FpLe x (lane v j) ∧ FpLe y (lane v j))))

/-- MESH_PACKET_ARRIVAL of a malformed packet (R189): in each of the rule's four cases the packet is discarded, neither written nor counted, and
MESH_MALFORMED is logged with its header. -/
def Obligations.MalformedPackets : Prop :=
  ∀ (s : State) (i : Nat) (p : Pkt) (rest : List Pkt), routerUp s i = true → (tileOf s i).mesh.eject = p :: rest →
    (p.cls ∉ [0x0, 0x1, 0x4, 0x5, 0x8, 0x9, 0xC, 0xD] ∨ 0xE ≤ p.fmt ∨ p.rsv ≠ 0 ∨ 0x30000 ≤ 64 * p.line) →
    Answers (exec (.meshPacketArrival i) s) fun s' =>
      let t := tileOf s i
      let t' := tileOf s' i
      t'.mesh = { t.mesh with eject := rest } ∧ t'.sram = t.sram ∧ t'.rx = t.rx ∧ t'.early = t.early ∧ t'.slots = t.slots ∧ t'.acks = t.acks ∧
      HasRec s' 0x1101 (some p.ctx) ∧ (t.evq = [] → (∀ r ∈ s.eventLog.recs, r.ms ≠ s.cairn.ms % 2 ^ 32) →
        ∃ r ∈ s'.eventLog.recs, r.kind = 0x1101 ∧ r.index = i ∧ r.arg / 2 ^ 32 = hdrArg p / 2 ^ 32)

/-- SPUR_FRAME_RECEIVE of a malformed frame (R352): in each of the rule's cases the frame is discarded and SPUR_MALFORMED logged, and a discarded
sequenced frame is treated as bad. -/
def Obligations.MalformedFrames : Prop :=
  ∀ (s : State) (p : Nat) (f : RawFrame) (fec : Bool), p < 64 → spurState s (p / 8) = 4 →
    (lwOk f.lw = false ∨ lwKind f.lw = 3 ∨ 6 ≤ lwPool f.lw → Answers (exec (.spurFrameReceive p f fec) s) fun s' => FrameGone s s' p f) ∧
    (lwOk f.lw = true → lwKind f.lw = 0 ∨ lwKind f.lw = 2 → lwPool f.lw < 6 →
      (lwSq f.lw = true → lwLseq f.lw = ((linkOf s p).rxLast + 1) % 2 ^ 16) → hcrcOk f.hdr = true →
      (lwKind f.lw = 0 ∧ hCls f.hdr ∉ [0x0, 0x4, 0x5, 0x8, 0x9, 0xD] ∨ hFmt f.hdr = 0xE ∨ hFmt f.hdr = 0xF ∨ 256 < hNline f.hdr ∨
        f.hdr.extractLsb' 100 4 ≠ 0 ∨ f.hdr.extractLsb' 91 5 ≠ 0 ∨ f.hdr.extractLsb' 60 4 ≠ 0) →
      Answers (exec (.spurFrameReceive p f fec) s) fun s' => FrameGone s s' p f)

/-- The engine's ID (R364): the engine form of PEER_TABLE sets bits [23:4]; a value of 0 there, or bits [3:0] other than STRAP_SLOT, is BAD_ARG; a change
while a spur is Attached or a context open is DENIED; an engine whose bits are 0 attaches no spur. -/
def Obligations.EngineIdentity : Prop :=
  (∀ (s : State) (n : Nat) (m : Msg) (y : Assembly), Head s n m → m.code = 0x0502 → more m = false →
    (∀ a, (chanOf s n).asm = some a → a.code = 0x0502) → argsOk m [(2, 0xFF01)] = true → argBit m 2 0 = false → StagedWhole s n m y →
    preCheck s n m = none → fromPf n = true →
    let id := fld y.data 4 4
    ((id / 16 = 0 ∨ id % 16 ≠ s.straps.slot.toNat) → Answers (exec (.peerTableEngine n) s) fun s' => engineId s' = engineId s ∧
      (tabGet (chanOf s' n).reply 0 0).toNat % 2 ^ 16 = 0x102) ∧
    (engErr s y.data = none → (s.ctxs ≠ [] ∨ ∃ j, j < 8 ∧ spurState s j = 4) → id ≠ (engineId s).toNat →
      Answers (exec (.peerTableEngine n) s) fun s' => engineId s' = engineId s ∧ s'.engine = s.engine ∧ Replied s' n m 0x104 0 []) ∧
    (engErr s y.data = none → (s.ctxs = [] ∧ ∀ j, j < 8 → spurState s j ≠ 4) → Answers (exec (.peerTableEngine n) s) fun s' =>
      (engineId s').toNat = id ∧ (engineId s').toNat % 16 = s.straps.slot.toNat ∧ Replied s' n m 0 0 [])) ∧
  (∀ (s : State) (j : Nat), (engineId s).toNat / 16 = 0 → exec (.spurAttach j) s = .next s)
end

