-- ==== Sys2Proof/Laws/Crypto.lean ====
section
/-! SUPPORT. Lengths: what the byte forms of numbers and digests have. -/
namespace Sys2Proof.Machine

@[simp] theorem toBytes_length (n v : Nat) : (toBytes n v).length = n := by
  induction n generalizing v with
  | zero => rfl
  | succ n ih => simp [toBytes, ih]

@[simp] theorem beBytes_length (n v : Nat) : (beBytes n v).length = n := by simp [beBytes]

theorem sha2Block_length (f : Sha2) (h blk : List Nat) : (sha2Block f h blk).length = h.length := by simp [sha2Block]

theorem sha2Fold_length {α : Type} (f : Sha2) (g : α → List Nat) (l : List α) (h : List Nat) :
    (l.foldl (fun h i => sha2Block f h (g i)) h).length = h.length := by
  induction l generalizing h with
  | nil => rfl
  | cons b l ih => simp [ih, sha2Block_length]

theorem flatMap_beBytes_length (l : List Nat) : (l.flatMap (beBytes 4)).length = 4 * l.length := by
  induction l with
  | nil => rfl
  | cons a l ih => simp [List.flatMap_cons, ih]; omega

theorem sha2of32_start : sha2of32.start.length = 8 := by decide

/-- A digest has 32 bytes. -/
@[simp] theorem sha256_length (m : List Byte) : (sha256 m).length = 32 := by
  unfold sha256 sha2
  rw [show sha2of32.w / 8 = 4 from rfl, flatMap_beBytes_length, sha2Fold_length, sha2of32_start]

end Sys2Proof.Machine
end

