-- ==== Sys2Proof/Laws/Held.lean ====
section
/-! SUPPORT. What the engine's work leaves alone. `held s` is the part of the state that only standby power, start-up, recovery
and firmware update change: the queue, the module's kind, fuses and straps, both flash devices, the standby reset, and the trust
of the Cairn complex. Each lemma says of one operation that it keeps that part: the operations on tiles, dies, links and frames. -/
namespace Sys2Proof.Machine

/-- What most commands leave alone: the queue, the module's kind, fuses and straps, both flash devices,
    the standby reset and
the trust of the Cairn complex. -/
structure Held where
  pending : List Instr
  dev : Dev
  fuses : Fuses
  shadow : Fuses
  straps : Straps
  flash0 : Mem
  flash1 : Mem
  rst : Bool
  maelec : Option Maelec
  debugOpen : Bool

def held (s : State) : Held :=
  ⟨s.pending, s.dev, s.fuses, s.shadow, s.straps, s.flash0, s.flash1, s.module.rst, s.cairn.maelec, s.cairn.debugOpen⟩


theorem held_foldl {α : Type} (f : State → α → State) (hf : ∀ s a, held (f s a) = held s) (l : List α) (s : State) :
    held (l.foldl f s) = held s := by
  induction l generalizing s with
  | nil => rfl
  | cons a l ih => rw [List.foldl_cons, ih, hf]

theorem held_mk a0 a1 a2 a3 a4 a5 a6 a7 a8 a9 a10 a11 a12 a13 a14 a15 a16 a17 a18 a19 a20 a21 a22 a23 a24 a25 a26 a27 a28 a29 a30 a31 a32 a33 a34 a35 a36 a37 a38 a39 a40 a41 a42 a43 a44 a45 :
    held (State.mk a0 a1 a2 a3 a4 a5 a6 a7 a8 a9 a10 a11 a12 a13 a14 a15 a16 a17 a18 a19 a20 a21 a22 a23 a24 a25 a26 a27 a28 a29 a30 a31 a32 a33 a34 a35 a36 a37 a38 a39 a40 a41 a42 a43 a44 a45) =
      ⟨a0, a2, a31, a32, a35, a33, a34, a39.rst, a30.maelec, a30.debugOpen⟩ := rfl

theorem held_foldl_fst {α β : Type} (f : State × β → α → State × β) (hf : ∀ s a, held (f s a).1 = held s.1) (l : List α)
    (s : State × β) :
    held (l.foldl f s).1 = held s.1 := by
  induction l generalizing s with
  | nil => rfl
  | cons a l ih => rw [List.foldl_cons, ih, hf]

theorem held_ite (c : Prop) [Decidable c] (a b : State) : held (if c then a else b) = if c then held a else held b := by
  split <;> rfl

theorem held_eta (s : State) : (⟨s.pending, s.dev, s.fuses, s.shadow, s.straps, s.flash0, s.flash1, s.module.rst,
    s.cairn.maelec, s.cairn.debugOpen⟩ : Held) = held s := rfl

theorem held_setTile (x1 : State) (x2 : Nat) (x3 : Tile) : held (setTile x1 x2 x3) = held x1 := by
  unfold setTile
  simp only [held_mk, held_eta]

theorem held_setSwath (x1 : State) (x2 : Nat) (x3 : Swath) : held (setSwath x1 x2 x3) = held x1 := by
  unfold setSwath
  simp only [held_mk, held_eta]

theorem held_setSaddle (x1 : State) (x2 : Nat) (x3 : Saddle) : held (setSaddle x1 x2 x3) = held x1 := by
  unfold setSaddle
  simp only [held_mk, held_eta]

theorem held_setLink (x1 : State) (x2 : Nat) (x3 : PortLink) : held (setLink x1 x2 x3) = held x1 := by
  unfold setLink
  simp only [held_mk, held_eta]

theorem held_setChan (x1 : State) (x2 : Nat) (x3 : Chan) : held (setChan x1 x2 x3) = held x1 := by
  unfold setChan
  simp only [held_mk, held_eta]

theorem held_setCtx (x1 : State) (x2 : BitVec 8) (x3 : Ctx) : held (setCtx x1 x2 x3) = held x1 := by
  unfold setCtx
  simp only [held_mk, held_eta]

theorem held_updCtx (x1 : State) (x2 : BitVec 8) (x3 : Ctx → Ctx) : held (updCtx x1 x2 x3) = held x1 := by
  unfold updCtx
  (repeat' split) <;> simp only [↓held_setCtx]

theorem held_updLink (x1 : State) (x2 : Nat) (x3 : PortLink → PortLink) : held (updLink x1 x2 x3) = held x1 := by
  unfold updLink
  simp only [↓held_setLink]

theorem held_updChan (x1 : State) (x2 : Nat) (x3 : Chan → Chan) : held (updChan x1 x2 x3) = held x1 := by
  unfold updChan
  simp only [↓held_setChan]

theorem held_updSaddle (x1 : State) (x2 : Nat) (x3 : Saddle → Saddle) : held (updSaddle x1 x2 x3) = held x1 := by
  unfold updSaddle
  simp only [↓held_setSaddle]

theorem held_raiseVec (x1 : State) (x2 : Nat) (x3 : Nat) : held (raiseVec x1 x2 x3) = held x1 := by
  unfold raiseVec
  simp only [↓held_ite, ite_self, held_mk, held_eta]

theorem held_setEvt (x1 : State) (x2 : Nat) : held (setEvt x1 x2) = held x1 := by
  unfold setEvt
  simp only [↓held_raiseVec, ↓held_ite, ite_self, held_mk, held_eta]

theorem held_setEngState (x1 : State) (x2 : Nat) : held (setEngState x1 x2) = held x1 := by
  unfold setEngState
  simp only [↓held_setEvt, ↓held_ite, ite_self, held_mk, held_eta]

theorem held_logRec (x1 : State) (x2 : LogRec) : held (logRec x1 x2) = held x1 := by
  unfold logRec
  dsimp only
  (repeat' split) <;> simp only [↓held_setEvt, held_mk, held_eta]

theorem held_logAt (x1 : State) (x2 : Nat) (x3 : Nat) (x4 : Nat) (x5 : Option (BitVec 8)) (x6 : Option W32) (x7 : Nat) :
    held (logAt x1 x2 x3 x4 x5 x6 x7) = held x1 := by
  unfold logAt
  simp only [↓held_logRec]

theorem held_logCairn (x1 : State) (x2 : Nat) (x3 : Option (BitVec 8)) (x4 : Nat) :
    held (logCairn x1 x2 x3 x4) = held x1 := by
  unfold logCairn
  simp only [↓held_logAt]

theorem held_putTile (x1 : State) (x2 : Nat) (x3 : Tile) : held (putTile x1 x2 x3) = held x1 := by
  unfold putTile
  try dsimp only
  repeat' first
    | with_reducible rfl
    | (with_reducible refine (held_foldl _ (fun s a => ?_) _ _).trans ?_; try dsimp only)
    | split
    | simp only [↓held_logRec, ↓held_setTile]

theorem held_onTile (x1 : State) (x2 : Nat) (x3 : Env → Tile → Tile) : held (onTile x1 x2 x3) = held x1 := by
  unfold onTile
  simp only [↓held_putTile, ↓held_ite, ite_self]

theorem held_onTiles (x1 : State) (x2 : List Nat) (x3 : Nat → Tile → Tile) : held (onTiles x1 x2 x3) = held x1 := by
  unfold onTiles
  try dsimp only
  repeat' first
    | with_reducible rfl
    | (with_reducible refine (held_foldl _ (fun s a => ?_) _ _).trans ?_; try dsimp only)
    | split
    | simp only [↓held_setTile]

theorem held_clearBad (x1 : State) (x2 : Nat) : held (clearBad x1 x2) = held x1 := by
  unfold clearBad
  simp only [↓held_ite, ite_self, held_mk, held_eta]

theorem held_viewStore (x1 : State) (x2 : Ctx) (x3 : Nat) (x4 : Byte) : held (viewStore x1 x2 x3 x4) = held x1 := by
  unfold viewStore
  dsimp only
  (repeat' split) <;> simp only [↓held_clearBad, held_mk, held_eta]

theorem held_viewWrite (x1 : State) (x2 : Ctx) (x3 : Nat) (x4 : List Byte) : held (viewWrite x1 x2 x3 x4) = held x1 := by
  induction x4 generalizing x1 x3 with
  | nil => rfl
  | cons r l ih =>
    unfold viewWrite
    simp only [↓ih, ↓held_viewStore]

theorem held_viewPut (x1 : State) (x2 : Ctx) (x3 : Nat) (x4 : Nat) (x5 : Nat) :
    held (viewPut x1 x2 x3 x4 x5) = held x1 := by
  unfold viewPut
  simp only [↓held_viewWrite]

theorem held_raiseCompletion (x1 : State) (x2 : Ctx) : held (raiseCompletion x1 x2) = held x1 := by
  unfold raiseCompletion
  (repeat' split) <;> simp only [↓held_raiseVec, held_mk, held_eta]

theorem held_numLog (x1 : State) (x2 : BitVec 8) (x3 : Nat) : held (numLog x1 x2 x3) = held x1 := by
  unfold numLog
  dsimp only
  (repeat' split) <;> simp only [↓held_viewPut]

theorem held_drainRecs (x1 : State) (x2 : BitVec 8) (x3 : List CrRec) : held (drainRecs x1 x2 x3) = held x1 := by
  induction x3 generalizing x1 with
  | nil => exact held_updCtx _ _ _
  | cons r l ih =>
    unfold drainRecs
    dsimp only
    (repeat' split) <;> simp only [↓ih, ↓held_updCtx, ↓held_raiseCompletion, ↓held_viewPut]

theorem held_complRec (x1 : State) (x2 : BitVec 8) (x3 : Nat) (x4 : Nat) (x5 : Nat) (x6 : W32) (x7 : Nat) (x8 : Nat) (x9 :
    Bool) : held (complRec x1 x2 x3 x4 x5 x6 x7 x8 x9) = held x1 := by
  unfold complRec
  dsimp only
  (repeat' split) <;> simp only [↓held_setCtx, ↓held_drainRecs]

theorem held_gleanRec (x1 : State) (x2 : BitVec 8) (x3 : Nat) (x4 : W32) (x5 : Nat) (x6 : Nat) (x7 : Nat) :
    held (gleanRec x1 x2 x3 x4 x5 x6 x7) = held x1 := by
  unfold gleanRec
  dsimp only
  (repeat' split) <;> simp only [↓held_viewPut, ↓held_updCtx]

theorem held_sendRing (x1 : State) (x2 : Nat) (x3 : Nat) (x4 : RingClass) (x5 : Bool) (x6 : FlitBody) :
    held (sendRing x1 x2 x3 x4 x5 x6) = held x1 := by
  unfold sendRing
  simp only [held_mk, held_eta]

theorem held_drawFree (s : State) : held (drawFree s).2 = held s := rfl

/-! ### MailOps -/

theorem held_wakeSteward (x1 : State) (x2 : Nat) : held (wakeSteward x1 x2) = held x1 := by
  unfold wakeSteward
  simp only [held_mk, held_eta]

theorem held_wakeFor (x1 : State) (x2 : Nat) : held (wakeFor x1 x2) = held x1 := by
  unfold wakeFor
  (repeat' split) <;> simp only [↓held_wakeSteward]

theorem held_chanIrq (x1 : State) (x2 : Nat) (x3 : Nat) : held (chanIrq x1 x2 x3) = held x1 := by
  unfold chanIrq
  simp only [↓held_raiseVec, ↓held_ite, ite_self, held_mk, held_eta]

theorem held_writeReply (x1 : State) (x2 : Nat) : held (writeReply x1 x2) = held x1 := by
  unfold writeReply
  dsimp only
  (repeat' split) <;> simp only [↓held_chanIrq, ↓held_setChan]

theorem held_answerOne (x1 : State) (x2 : Nat) (x3 : Bool) (x4 : Ans) (x5 : W32) :
    held (answerOne x1 x2 x3 x4 x5) = held x1 := by
  unfold answerOne
  dsimp only
  (repeat' split) <;> simp only [↓held_writeReply, ↓held_setChan]

theorem held_discardAsm (x1 : State) (x2 : Nat) (x3 : Msg) : held (discardAsm x1 x2 x3) = held x1 := by
  unfold discardAsm
  (repeat' split) <;> simp only [↓held_logCairn, ↓held_updChan]

theorem held_answerDup (x1 : State) (x2 : Nat) (x3 : JEntry) : held (answerDup x1 x2 x3) = held x1 := by
  unfold answerDup
  simp only [↓held_answerOne]

theorem held_settle (x1 : Nat) (x2 : State) (x3 : Nat) : held (settle x1 x2 x3) = held x2 := by
  induction x1 generalizing x2 with
  | zero => rfl
  | succ k ih =>
    unfold settle
    dsimp only
    (repeat' split) <;> simp only [↓ih, ↓held_answerDup, ↓held_answerOne, ↓held_discardAsm]

theorem held_answerWith (x1 : State) (x2 : Nat) (x3 : Bool) (x4 : Ans) (x5 : W32) :
    held (answerWith x1 x2 x3 x4 x5) = held x1 := by
  unfold answerWith
  simp only [↓held_settle, ↓held_answerOne]

theorem held_answer (x1 : State) (x2 : Nat) (x3 : Ans) : held (answer x1 x2 x3) = held x1 := by
  unfold answer
  simp only [↓held_answerWith]

theorem held_answerAwaiting (x1 : State) (x2 : Await) (x3 : Ans) : held (answerAwaiting x1 x2 x3) = held x1 := by
  unfold answerAwaiting
  try dsimp only
  repeat' first
    | with_reducible rfl
    | (with_reducible refine (held_foldl _ (fun s a => ?_) _ _).trans ?_; try dsimp only)
    | split
    | simp only [↓held_answer]

/-! ### Link -/

theorem held_setSpurSt (x1 : State) (x2 : Nat) (x3 : Nat) : held (setSpurSt x1 x2 x3) = held x1 := by
  unfold setSpurSt
  simp only [↓held_setEvt, ↓held_ite, ite_self, held_mk, held_eta]

theorem held_setSpurOwner (x1 : State) (x2 : Nat) (x3 : Option (BitVec 8)) : held (setSpurOwner x1 x2 x3) = held x1 := by
  unfold setSpurOwner
  simp only [↓held_setEvt, ↓held_ite, ite_self, held_mk, held_eta]

theorem held_pumpPort (x1 : State) (x2 : Nat) : held (pumpPort x1 x2) = held x1 := by
  unfold pumpPort
  simp only [↓held_updLink, ↓held_ite, ite_self]

theorem held_sendOn (x1 : State) (x2 : Nat) (x3 : Nat) (x4 : Bool) (x5 : FrameHdr) (x6 : List Line) (x7 : Bool) :
    held (sendOn x1 x2 x3 x4 x5 x6 x7) = held x1 := by
  unfold sendOn
  simp only [↓held_pumpPort, ↓held_setLink, ↓held_ite, ite_self]

theorem held_originate (x1 : State) (x2 : Nat) (x3 : Bool) (x4 : FrameHdr) (x5 : List Line) (x6 : Bool) :
    held (originate x1 x2 x3 x4 x5 x6) = held x1 := by
  unfold originate
  (repeat' split) <;> simp only [↓held_sendOn]

theorem held_sendNotices (x1 : State) (x2 : BitVec 8) (x3 : BitVec 24) (x4 : Nat) (x5 : W32) (x6 : Nat) :
    held (sendNotices x1 x2 x3 x4 x5 x6) = held x1 := by
  unfold sendNotices
  try dsimp only
  repeat' first
    | with_reducible rfl
    | (with_reducible refine (held_foldl _ (fun s a => ?_) _ _).trans ?_; try dsimp only)
    | split
    | simp only [↓held_originate]

theorem held_dropFrame (x1 : State) (x2 : Nat) (x3 : RawFrame) : held (dropFrame x1 x2 x3) = held x1 := by
  unfold dropFrame
  simp only [↓held_logAt]

theorem held_freeLines (x1 : State) (x2 : Nat) (x3 : RawFrame) : held (freeLines x1 x2 x3) = held x1 := by
  unfold freeLines
  simp only [↓held_updLink]

/-! ### Reset -/

theorem held_ownItem (x1 : State) (x2 : BitVec 8) : held (ownItem x1 x2) = held x1 := by
  unfold ownItem
  simp only [↓held_updCtx]

theorem held_spreadEpoch (x1 : State) (x2 : BitVec 8) (x3 : Nat) : held (spreadEpoch x1 x2 x3) = held x1 := by
  unfold spreadEpoch
  try dsimp only
  repeat' first
    | with_reducible rfl
    | (with_reducible refine (held_foldl _ (fun s a => ?_) _ _).trans ?_; try dsimp only)
    | split
    | simp only [↓held_onTiles, ↓held_updSaddle]

theorem held_leaseLog (x1 : State) (x2 : Option (BitVec 8)) (x3 : Nat) (x4 : Nat) :
    held (leaseLog x1 x2 x3 x4) = held x1 := by
  unfold leaseLog
  simp only [↓held_logCairn, ↓held_ite, ite_self]

theorem held_ceAddN (x1 : State) (x2 : Nat) (x3 : Nat) : held (ceAddN x1 x2 x3) = held x1 := by
  unfold ceAddN
  simp only [held_mk, held_eta]

theorem held_ceAdd (x1 : State) (x2 : Nat) : held (ceAdd x1 x2) = held x1 := by
  unfold ceAdd
  simp only [↓held_ceAddN]

theorem held_staleAtPort (x1 : State) (x2 : Nat) (x3 : BitVec 8) : held (staleAtPort x1 x2 x3) = held x1 := by
  unfold staleAtPort
  simp only [↓held_ownItem, ↓held_logAt]

theorem held_stalePort (x1 : BitVec 8) (x2 : State) (x3 : Nat) : held (stalePort x1 x2 x3) = held x2 := by
  unfold stalePort
  try dsimp only
  repeat' first
    | with_reducible rfl
    | (with_reducible refine (held_foldl _ (fun s a => ?_) _ _).trans ?_; try dsimp only)
    | split
    | simp only [↓held_freeLines, ↓held_staleAtPort, ↓held_updLink]

theorem held_advanceEpoch (x1 : State) (x2 : BitVec 8) (x3 : Nat) (x4 : Nat) :
    held (advanceEpoch x1 x2 x3 x4) = held x1 := by
  unfold advanceEpoch
  try dsimp only
  repeat' first
    | with_reducible rfl
    | (with_reducible refine (held_foldl _ (fun s a => ?_) _ _).trans ?_; try dsimp only)
    | split
    | simp only [↓held_leaseLog, ↓held_spreadEpoch, ↓held_stalePort, ↓held_logAt, held_mk, held_eta]

theorem held_grantBinds (x1 : State) (x2 : BitVec 8) : held (grantBinds x1 x2) = held x1 := by
  unfold grantBinds
  try dsimp only
  repeat' first
    | with_reducible rfl
    | (with_reducible refine (held_foldl _ (fun s a => ?_) _ _).trans ?_; try dsimp only)
    | split
    | simp only [↓held_updLink]

theorem held_dropFills (x1 : Swath → FillLine → Bool) (x2 : State) (x3 : Nat) : held (dropFills x1 x2 x3) = held x2 := by
  unfold dropFills
  simp only [↓held_setSwath, ↓held_updLink, ↓held_ite, ite_self]

theorem held_dropCtxFills (x1 : State) (x2 : BitVec 8) : held (dropCtxFills x1 x2) = held x1 := by
  unfold dropCtxFills
  try dsimp only
  repeat' first
    | with_reducible rfl
    | (with_reducible refine (held_foldl _ (fun s a => ?_) _ _).trans ?_; try dsimp only)
    | split
    | simp only [↓held_dropFills]

theorem held_resetPorts (x1 : State) (x2 : BitVec 8) : held (resetPorts x1 x2) = held x1 := by
  unfold resetPorts
  simp only [↓held_dropCtxFills, held_mk, held_eta]

theorem held_resetSaddles (x1 : State) (x2 : BitVec 8) : held (resetSaddles x1 x2) = held x1 := by
  unfold resetSaddles
  simp only [held_mk, held_eta]

theorem held_zeroSlabs (x1 : State) (x2 : Nat) (x3 : List Nat) : held (zeroSlabs x1 x2 x3) = held x1 := by
  unfold zeroSlabs
  refine held_foldl _ ?_ _ _
  intro _ _
  rfl

theorem held_freeGranule (x1 : State) (x2 : Nat) : held (freeGranule x1 x2) = held x1 := by
  unfold freeGranule
  simp only [↓held_setSwath, held_mk, held_eta]

theorem held_runReset (x1 : State) (x2 : BitVec 8) : held (runReset x1 x2) = held x1 := by
  unfold runReset
  dsimp only
  (repeat' split) <;> simp only [↓held_advanceEpoch, ↓held_logAt, ↓held_gleanRec, ↓held_leaseLog, ↓held_onTiles,
      ↓held_grantBinds, ↓held_resetPorts, ↓held_resetSaddles, ↓held_updCtx, ↓held_sendNotices]

theorem held_partitionReset (x1 : State) (x2 : BitVec 8) (x3 : Nat) (x4 : Option (BitVec 24 × Nat × W32)) (x5 : Option W32) :
    held (partitionReset x1 x2 x3 x4 x5) = held x1 := by
  unfold partitionReset
  dsimp only
  (repeat' split) <;> simp only [↓held_setCtx, ↓held_runReset, held_mk, held_eta]

theorem held_replayImpossible (x1 : State) (x2 : BitVec 8) (x3 : Nat) : held (replayImpossible x1 x2 x3) = held x1 := by
  unfold replayImpossible
  simp only [↓held_updCtx, ↓held_logAt]

theorem held_quiesce (x1 : State) (x2 : BitVec 8) (x3 : QuiesceBy) : held (quiesce x1 x2 x3) = held x1 := by
  unfold quiesce
  simp only [↓held_updCtx]

theorem held_unquiesce (x1 : State) (x2 : BitVec 8) (x3 : QuiesceBy) : held (unquiesce x1 x2 x3) = held x1 := by
  unfold unquiesce
  simp only [↓held_updCtx]

theorem held_suspectWindow (x1 : State) (x2 : Nat) : held (suspectWindow x1 x2) = held x1 := by
  unfold suspectWindow
  try dsimp only
  repeat' first
    | with_reducible rfl
    | (with_reducible refine (held_foldl _ (fun s a => ?_) _ _).trans ?_; try dsimp only)
    | split
    | simp only [↓held_logCairn]

theorem held_orderTest (x1 : State) (x2 : Nat) (x3 : Sheaf) (x4 : Nat) (x5 : Bool) :
    held (orderTest x1 x2 x3 x4 x5) = held x1 := by
  unfold orderTest
  try dsimp only
  repeat' first
    | with_reducible rfl
    | (with_reducible refine (held_foldl _ (fun s a => ?_) _ _).trans ?_; try dsimp only)
    | split
    | simp only [↓held_quiesce, held_mk, held_eta]

theorem held_autoTest (x1 : State) (x2 : BitVec 8) (x3 : Nat) : held (autoTest x1 x2 x3) = held x1 := by
  unfold autoTest
  try dsimp only
  repeat' first
    | with_reducible rfl
    | (with_reducible refine (held_foldl _ (fun s a => ?_) _ _).trans ?_; try dsimp only)
    | split
    | simp only [↓held_orderTest, ↓held_suspectWindow]

theorem held_faultCtx (x1 : State) (x2 : BitVec 8) (x3 : Nat) : held (faultCtx x1 x2 x3) = held x1 := by
  unfold faultCtx
  dsimp only
  (repeat' split) <;> simp only [↓held_setCtx, ↓held_runReset, held_mk, held_eta]

theorem held_outOfServiceAs (x1 : State) (x2 : Nat) (x3 : Oos) : held (outOfServiceAs x1 x2 x3) = held x1 := by
  unfold outOfServiceAs
  try dsimp only
  repeat' first
    | with_reducible rfl
    | (with_reducible refine (held_foldl _ (fun s a => ?_) _ _).trans ?_; try dsimp only)
    | split
    | simp only [↓held_logCairn, ↓held_setEngState, ↓held_sendNotices, ↓held_faultCtx, held_mk,
        held_eta]

theorem held_takeOutOfService (x1 : State) (x2 : Nat) : held (takeOutOfService x1 x2) = held x1 := by
  unfold takeOutOfService
  simp only [↓held_outOfServiceAs]

theorem held_waitForRepair (x1 : State) (x2 : Nat) : held (waitForRepair x1 x2) = held x1 := by
  unfold waitForRepair
  try dsimp only
  repeat' first
    | with_reducible rfl
    | (with_reducible refine (held_foldl _ (fun s a => ?_) _ _).trans ?_; try dsimp only)
    | split
    | simp only [↓held_outOfServiceAs, ↓held_logCairn, ↓held_sendNotices, held_mk, held_eta]

theorem held_tileFailed (x1 : State) (x2 : Nat) (x3 : Nat) : held (tileFailed x1 x2 x3) = held x1 := by
  unfold tileFailed
  simp only [↓held_setTile, ↓held_logAt, held_mk, held_eta]

theorem held_hardFail (x1 : State) (x2 : Nat) (x3 : Nat) : held (hardFail x1 x2 x3) = held x1 := by
  unfold hardFail
  try dsimp only
  repeat' first
    | with_reducible rfl
    | (with_reducible refine (held_foldl _ (fun s a => ?_) _ _).trans ?_; try dsimp only)
    | split
    | simp only [↓held_tileFailed, ↓held_takeOutOfService, ↓held_logAt, ↓held_setTile, ↓held_partitionReset, 
        held_mk, held_eta]

/-! ### Fabric -/

theorem held_tileLog (x1 : State) (x2 : Nat) (x3 : Bool) (x4 : Nat) (x5 : Option (BitVec 8)) (x6 : Nat) :
    held (tileLog x1 x2 x3 x4 x5 x6) = held x1 := by
  unfold tileLog
  simp only [↓held_putTile]

theorem held_itemLog (x1 : State) (x2 : Nat) (x3 : Nat) (x4 : BitVec 8) (x5 : Nat) :
    held (itemLog x1 x2 x3 x4 x5) = held x1 := by
  unfold itemLog
  simp only [↓held_ownItem, ↓held_tileLog]

theorem held_fromDie (x1 : State) (x2 : Nat) (x3 : Nat) (x4 : Pkt) : held (fromDie x1 x2 x3 x4) = held x1 := by
  unfold fromDie
  simp only [↓held_setTile]

theorem held_awnFromDie (x1 : State) (x2 : Nat) (x3 : Nat) (x4 : AwnMsg) : held (awnFromDie x1 x2 x3 x4) = held x1 := by
  unfold awnFromDie
  simp only [↓held_setTile]

theorem held_acceptAck (x1 : State) (x2 : Nat) (x3 : Nat) (x4 : Pkt) : held (acceptAck x1 x2 x3 x4) = held x1 := by
  unfold acceptAck
  simp only [↓held_awnFromDie]

theorem held_faceAccess (x1 : State) (x2 : Nat) (x3 : Nat) (x4 : Pkt) : held (faceAccess x1 x2 x3 x4) = held x1 := by
  unfold faceAccess
  dsimp only
  (repeat' split) <;> simp only [↓held_fromDie, ↓held_acceptAck, ↓held_setSwath]

theorem held_transitOut (x1 : State) (x2 : Nat) (x3 : Bool) (x4 : Option RawFrame) :
    held (transitOut x1 x2 x3 x4) = held x1 := by
  unfold transitOut
  dsimp only
  (repeat' split) <;> simp only [↓held_setLink, ↓held_dropFrame, ↓held_pumpPort]

theorem held_toDie (x1 : State) (x2 : Nat) (x3 : Nat) (x4 : Pkt) (x5 : Bool) : held (toDie x1 x2 x3 x4 x5) = held x1 := by
  unfold toDie
  dsimp only
  (repeat' split) <;> simp only [↓held_ownItem, ↓held_logAt, ↓held_setSwath, ↓held_transitOut, ↓held_faceAccess,
      ↓held_sendRing, ↓held_updSaddle]

theorem held_meshOut (x1 : State) (x2 : Nat) (x3 : Nat) (x4 : Pkt) (x5 : List Nat) :
    held (meshOut x1 x2 x3 x4 x5) = held x1 := by
  unfold meshOut
  dsimp only
  (repeat' split) <;> simp only [↓held_setTile, ↓held_itemLog, ↓held_toDie]

theorem held_routerHop (x1 : State) (x2 : Nat) (x3 : Nat) (x4 : List Nat) : held (routerHop x1 x2 x3 x4) = held x1 := by
  unfold routerHop
  try dsimp only
  repeat' first
    | with_reducible rfl
    | (with_reducible refine (held_foldl _ (fun s a => ?_) _ _).trans ?_; try dsimp only)
    | split
    | simp only [↓held_setTile, ↓held_meshOut]

theorem held_dieHop (x1 : State) (x2 : Nat) (x3 : Nat) (x4 : List Nat) : held (dieHop x1 x2 x3 x4) = held x1 := by
  unfold dieHop
  dsimp only
  (repeat' split) <;> simp only [↓held_itemLog, ↓held_setTile]

theorem held_meshHop (x1 : State) (x2 : Nat) (x3 : Nat) (x4 : List Nat) : held (meshHop x1 x2 x3 x4) = held x1 := by
  unfold meshHop
  try dsimp only
  repeat' first
    | with_reducible rfl
    | (with_reducible refine (held_foldl _ (fun s a => ?_) _ _).trans ?_; try dsimp only)
    | split
    | simp only [↓held_routerHop, ↓held_dieHop]

theorem held_takePacket (s s' : State) (i : Nat) (p : Pkt) (h : takePacket s i p = some s') : held s' = held s := by
  revert h
  unfold takePacket
  dsimp only
  split
  · intro h
    obtain rfl := Option.some.inj h
    simp only [↓held_itemLog]
  · generalize hs : (if (p.hop != pathHops p (ixX i)
      (ixY i) % 16) = true then itemLog s i 0x1102 p.ctx (hdrArg p) else s) = s1
    have h1 : held s1 = held s := by
      rw [← hs]
      simp only [↓held_ite, ↓held_itemLog, ite_self]
    rw [← h1]
    clear hs h1
    (repeat' split) <;> intro h <;> first
    | contradiction
    | (obtain rfl := Option.some.inj h; simp only [↓held_itemLog, ↓held_tileLog, ↓held_putTile])
    | (obtain ⟨_, _, rfl⟩ := Option.map_eq_some_iff.mp h; simp only [↓held_putTile, held_mk, held_eta])

theorem held_takeFirst (x1 : State) (x2 : Nat) (x3 : List Pkt) (x4 : List Pkt) :
    held (takeFirst x1 x2 x3 x4) = held x1 := by
  induction x4 generalizing x1 x3 with
  | nil => rfl
  | cons p rest ih =>
    unfold takeFirst
    dsimp only
    split
    · next h => simp only [held_takePacket _ _ _ _ h, ↓held_setTile]
    · exact ih _ _

theorem held_meshArrival (x1 : State) (x2 : Nat) : held (meshArrival x1 x2) = held x1 := by
  unfold meshArrival
  simp only [↓held_takeFirst, ↓held_ite, ite_self]

theorem held_ackSend (x1 : State) (x2 : Nat) (x3 : Nat) : held (ackSend x1 x2 x3) = held x1 := by
  unfold ackSend
  dsimp only
  (repeat' split) <;> simp only [↓held_setTile]

theorem held_swathAcked (x1 : State) (x2 : Nat) (x3 : AwnMsg) : held (swathAcked x1 x2 x3) = held x1 := by
  unfold swathAcked
  dsimp only
  (repeat' split) <;> simp only [↓held_setSwath]

theorem held_awnOut (x1 : State) (x2 : Nat) (x3 : Nat) (x4 : AwnMsg) (x5 : Bool) :
    held (awnOut x1 x2 x3 x4 x5) = held x1 := by
  unfold awnOut
  dsimp only
  (repeat' split) <;> simp only [↓held_setTile, ↓held_itemLog, ↓held_swathAcked, ↓held_updSaddle]

theorem held_dieAwnHop (x1 : State) (x2 : Nat) (x3 : Nat) (x4 : Bool) : held (dieAwnHop x1 x2 x3 x4) = held x1 := by
  unfold dieAwnHop
  dsimp only
  (repeat' split) <;> simp only [↓held_itemLog, ↓held_setTile]

theorem held_awnHop (x1 : State) (x2 : Nat) (x3 : Nat) (x4 : Bool) : held (awnHop x1 x2 x3 x4) = held x1 := by
  unfold awnHop
  dsimp only
  (repeat' split) <;> simp only [↓held_dieAwnHop, ↓held_awnOut, ↓held_setTile]

theorem held_awnToken (x1 : State) (x2 : Nat) (x3 : Nat) : held (awnToken x1 x2 x3) = held x1 := by
  unfold awnToken
  (repeat' split) <;> simp only [↓held_itemLog, ↓held_setTile, ↓held_putTile]

theorem held_awnCount (x1 : State) (x2 : Nat) (x3 : Nat) : held (awnCount x1 x2 x3) = held x1 := by
  unfold awnCount
  (repeat' split) <;> simp only [↓held_itemLog, ↓held_setTile, ↓held_putTile]

theorem held_awnAck (x1 : State) (x2 : Nat) (x3 : Nat) : held (awnAck x1 x2 x3) = held x1 := by
  unfold awnAck
  (repeat' split) <;> simp only [↓held_itemLog, ↓held_setTile, ↓held_putTile]

theorem held_probeAnswer (x1 : State) (x2 : Nat) (x3 : Nat) (x4 : Bool) : held (probeAnswer x1 x2 x3 x4) = held x1 := by
  unfold probeAnswer
  simp only [↓held_setTile]

theorem held_sendProbe (x1 : State) (x2 : Nat) (x3 : Nat) : held (sendProbe x1 x2 x3) = held x1 := by
  unfold sendProbe
  simp only [↓held_awnFromDie, ↓held_ite, ite_self, held_mk, held_eta]

theorem held_probeReached (x1 : State) (x2 : Nat) (x3 : Nat) (x4 : Bool) (x5 : Tile) :
    held (probeReached x1 x2 x3 x4 x5) = held x1 := by
  unfold probeReached
  simp only [↓held_probeAnswer, ↓held_setTile, ↓held_ite, ite_self]

theorem held_probeTile (x1 : State) (x2 : Nat) (x3 : Nat) (x4 : Bool) : held (probeTile x1 x2 x3 x4) = held x1 := by
  unfold probeTile
  (repeat' split) <;> simp only [↓held_probeReached, ↓held_sendProbe]

theorem held_coreTimeout (x1 : State) (x2 : Nat) : held (coreTimeout x1 x2) = held x1 := by
  unfold coreTimeout
  dsimp only
  (repeat' split) <;> simp only [↓held_probeAnswer, ↓held_setTile]

theorem held_passAnswer (x1 : State) (x2 : Nat) (x3 : Bool) : held (passAnswer x1 x2 x3) = held x1 := by
  unfold passAnswer
  dsimp only
  (repeat' split) <;> simp only [↓held_sendRing, ↓held_setSaddle]

theorem held_linkSpare (x1 : State) (x2 : Nat) (x3 : Nat) (x4 : Nat) (x5 : Bool) (x6 : BitVec 32) :
    held (linkSpare x1 x2 x3 x4 x5 x6) = held x1 := by
  unfold linkSpare
  simp only [↓held_setTile, ↓held_tileLog, ↓held_takeOutOfService, ↓held_ceAdd, ↓held_ite, ite_self]

theorem held_onGroup (x1 : State) (x2 : Nat) (x3 : Nat) (x4 : Nat) (x5 : Bool) (x6 : LinkSt → LinkSt) :
    held (onGroup x1 x2 x3 x4 x5 x6) = held x1 := by
  unfold onGroup
  simp only [↓held_setTile, ↓held_ite, ite_self]

theorem held_linkRepaired (x1 : State) (x2 : Nat) (x3 : Nat) (x4 : Nat) (x5 : Bool) :
    held (linkRepaired x1 x2 x3 x4 x5) = held x1 := by
  unfold linkRepaired
  simp only [↓held_onGroup]

theorem held_parityWindow (x1 : State) (x2 : Nat) (x3 : Nat) (x4 : Nat) (x5 : Bool) :
    held (parityWindow x1 x2 x3 x4 x5) = held x1 := by
  unfold parityWindow
  simp only [↓held_onGroup]

/-! ### Saddle -/

theorem held_ringReport (x1 : State) (x2 : Nat) (x3 : LogRec) : held (ringReport x1 x2 x3) = held x1 := by
  unfold ringReport
  simp only [↓held_sendRing]

theorem held_saddlePop (x1 : State) (x2 : Nat) (x3 : Nat) : held (saddlePop x1 x2 x3) = held x1 := by
  unfold saddlePop
  simp only [↓held_updSaddle]

theorem held_markBad (x1 : State) (x2 : Nat) (x3 : BitVec 8) (x4 : Nat) : held (markBad x1 x2 x3 x4) = held x1 := by
  unfold markBad
  simp only [↓held_updSaddle, held_mk, held_eta]

theorem held_unmarkBad (x1 : State) (x2 : Nat) (x3 : BitVec 8) (x4 : Nat) : held (unmarkBad x1 x2 x3 x4) = held x1 := by
  unfold unmarkBad
  simp only [↓held_updSaddle, held_mk, held_eta]

theorem held_writeLine (x1 : State) (x2 : Nat) (x3 : Pkt) (x4 : Nat) : held (writeLine x1 x2 x3 x4) = held x1 := by
  unfold writeLine
  simp only [↓held_ringReport, ↓held_markBad, ↓held_unmarkBad, ↓held_ite, ite_self, held_mk, held_eta]

theorem held_saddleAck (x1 : State) (x2 : Nat) (x3 : Nat) (x4 : Pkt) : held (saddleAck x1 x2 x3 x4) = held x1 := by
  unfold saddleAck
  simp only [↓held_acceptAck]

theorem held_saddleCheck (s s' : State) (k : Nat) (c : BitVec 8) (epoch off : Nat) (h :
    saddleCheck s k c epoch off = .drop s') :
    held s' = held s := by
  unfold saddleCheck at h
  dsimp only at h
  (repeat' split at h) <;> first
    | contradiction
    | (obtain rfl := SadChk.drop.inj h; simp only [↓held_ownItem, ↓held_logAt])

theorem held_saddleRead (x1 : State) (x2 : Nat) (x3 : Nat) : held (saddleRead x1 x2 x3) = held x1 := by
  unfold saddleRead
  try dsimp only
  repeat' first
    | with_reducible rfl
    | exact held_saddleCheck _ _ _ _ _ _ (by assumption)
    | (with_reducible refine (held_foldl _ (fun s a => ?_) _ _).trans ?_; try dsimp only)
    | split
    | simp only [↓held_saddlePop, ↓held_updSaddle]
    | refine (?_ : _ = _).trans (held_saddleCheck _ _ _ _ _ _ (by assumption))

theorem held_eccOutcome (x1 : State) (x2 : Nat) (x3 : BitVec 8) (x4 : Nat) (x5 : Nat) (x6 : HbmEcc) :
    held (eccOutcome x1 x2 x3 x4 x5 x6) = held x1 := by
  unfold eccOutcome
  (repeat' split) <;> simp only [↓held_ceAdd, ↓held_updSaddle, ↓held_ringReport, ↓held_markBad]

theorem held_eccOutcomes (x1 : State) (x2 : Nat) (x3 : BitVec 8) (x4 : List (Nat × HbmEcc)) :
    held (eccOutcomes x1 x2 x3 x4) = held x1 := by
  unfold eccOutcomes
  try dsimp only
  repeat' first
    | with_reducible rfl
    | (with_reducible refine (held_foldl _ (fun s a => ?_) _ _).trans ?_; try dsimp only)
    | split
    | simp only [↓held_eccOutcome]

theorem held_hbmReturn (x1 : State) (x2 : Nat) (x3 : Nat) (x4 : HbmEcc) : held (hbmReturn x1 x2 x3 x4) = held x1 := by
  unfold hbmReturn
  dsimp only
  (repeat' split) <;> simp only [↓held_eccOutcome, ↓held_setSaddle, ↓held_fromDie]

theorem held_saddleWriteLine (x1 : State) (x2 : Nat) (x3 : Nat) : held (saddleWriteLine x1 x2 x3) = held x1 := by
  unfold saddleWriteLine
  try dsimp only
  repeat' first
    | with_reducible rfl
    | exact held_saddleCheck _ _ _ _ _ _ (by assumption)
    | (with_reducible refine (held_foldl _ (fun s a => ?_) _ _).trans ?_; try dsimp only)
    | split
    | simp only [↓held_saddlePop, ↓held_saddleAck, ↓held_writeLine]
    | refine (?_ : _ = _).trans (held_saddleCheck _ _ _ _ _ _ (by assumption))

theorem held_escAppend (x1 : State) (x2 : Nat) (x3 : Nat) : held (escAppend x1 x2 x3) = held x1 := by
  unfold escAppend
  try dsimp only
  repeat' first
    | with_reducible rfl
    | exact held_saddleCheck _ _ _ _ _ _ (by assumption)
    | (with_reducible refine (held_foldl _ (fun s a => ?_) _ _).trans ?_; try dsimp only)
    | split
    | simp only [↓held_saddlePop, ↓held_writeLine, ↓held_viewPut, ↓held_wakeSteward, ↓held_saddleAck]
    | refine (?_ : _ = _).trans (held_saddleCheck _ _ _ _ _ _ (by assumption))

theorem held_logAnomaly (x1 : State) (x2 : BitVec 8) (x3 : Ctx) (x4 : Nat) (x5 : W32) (x6 : Nat) (x7 : HRec) :
    held (logAnomaly x1 x2 x3 x4 x5 x6 x7) = held x1 := by
  unfold logAnomaly
  simp only [↓held_numLog, ↓held_autoTest]

theorem held_healthDrop (x1 : State) (x2 : Ctx) : held (healthDrop x1 x2) = held x1 := by
  unfold healthDrop
  simp only [↓held_viewPut]

theorem held_combineHealth (x1 : State) (x2 : BitVec 8) (x3 : Nat) (x4 : Nat) (x5 : W32) (x6 : Nat) :
    held (combineHealth x1 x2 x3 x4 x5 x6) = held x1 := by
  unfold combineHealth
  dsimp only
  (repeat' split) <;> simp only [↓held_healthDrop, ↓held_viewPut, ↓held_updCtx]

theorem held_testRecord (x1 : BitVec 8) (x2 : W32) (x3 : State) (x4 : Nat) : held (testRecord x1 x2 x3 x4) = held x3 := by
  unfold testRecord
  dsimp only
  (repeat' split) <;> simp only [↓held_logAnomaly, ↓held_setCtx]

theorem held_testHealth (x1 : State) (x2 : BitVec 8) (x3 : W32) : held (testHealth x1 x2 x3) = held x1 := by
  unfold testHealth
  try dsimp only
  repeat' first
    | with_reducible rfl
    | (with_reducible refine (held_foldl _ (fun s a => ?_) _ _).trans ?_; try dsimp only)
    | split
    | simp only [↓held_testRecord, ↓held_updCtx]

theorem held_healthPort (x1 : State) (x2 : Nat) (x3 : Nat) : held (healthPort x1 x2 x3) = held x1 := by
  unfold healthPort
  try dsimp only
  repeat' first
    | with_reducible rfl
    | exact held_saddleCheck _ _ _ _ _ _ (by assumption)
    | (with_reducible refine (held_foldl _ (fun s a => ?_) _ _).trans ?_; try dsimp only)
    | split
    | simp only [↓held_saddlePop, ↓held_saddleAck, ↓held_ringReport, ↓held_combineHealth]
    | refine (?_ : _ = _).trans (held_saddleCheck _ _ _ _ _ _ (by assumption))

theorem held_beginScrub (x1 : State) (x2 : Nat) (x3 : List Nat) (x4 : Option (BitVec 8)) :
    held (beginScrub x1 x2 x3 x4) = held x1 := by
  unfold beginScrub
  simp only [↓held_updSaddle, ↓held_ite, ite_self]

theorem held_openView (x1 : State) (x2 : BitVec 8) : held (openView x1 x2) = held x1 := by
  unfold openView
  try dsimp only
  repeat' first
    | with_reducible rfl
    | (with_reducible refine (held_foldl _ (fun s a => ?_) _ _).trans ?_; try dsimp only)
    | split
    | simp only [↓held_viewPut]

theorem held_scrubDone (x1 : State) (x2 : Nat) : held (scrubDone x1 x2) = held x1 := by
  unfold scrubDone
  dsimp only
  (repeat' split) <;> simp only [↓held_zeroSlabs, ↓held_updSaddle, ↓held_openView]

/-! ### Eth -/

theorem held_setEthPort (x1 : State) (x2 : Nat) (x3 : EthPort) : held (setEthPort x1 x2 x3) = held x1 := by
  unfold setEthPort
  simp only [held_mk, held_eta]

theorem held_ethEmit (x1 : State) (x2 : EthOut) : held (ethEmit x1 x2) = held x1 := by
  unfold ethEmit
  simp only [held_mk, held_eta]

theorem held_ethDrop (x1 : State) : held (ethDrop x1) = held x1 := by
  unfold ethDrop
  simp only [held_mk, held_eta]

theorem held_setEthStream (x1 : State) (x2 : EthStream) : held (setEthStream x1 x2) = held x1 := by
  unfold setEthStream
  simp only [held_mk, held_eta]

theorem held_ethOutAll (x1 : State) (x2 : Nat) (x3 : List Dgram) : held (ethOutAll x1 x2 x3) = held x1 := by
  unfold ethOutAll
  try dsimp only
  repeat' first
    | with_reducible rfl
    | (with_reducible refine (held_foldl _ (fun s a => ?_) _ _).trans ?_; try dsimp only)
    | split
    | simp only [↓held_ethEmit]

theorem held_ethPump (x1 : State) (x2 : StreamKey) : held (ethPump x1 x2) = held x1 := by
  unfold ethPump
  simp only [↓held_ethOutAll, ↓held_setEthStream]

theorem held_ethSend (x1 : State) (x2 : StreamKey) (x3 : XOwner) (x4 : List Dgram) :
    held (ethSend x1 x2 x3 x4) = held x1 := by
  unfold ethSend
  simp only [↓held_ethPump, ↓held_setEthStream]

theorem held_advanceRd (x1 : Nat) (x2 : State) (x3 : BitVec 8) : held (advanceRd x1 x2 x3) = held x2 := by
  induction x1 generalizing x2 with
  | zero => rfl
  | succ k ih =>
    unfold advanceRd
    (repeat' split) <;> simp only [↓ih, ↓held_viewPut, held_mk, held_eta]

theorem held_modXfer (x1 : State) (x2 : BitVec 8) (x3 : Nat) (x4 : Transfer → Transfer) :
    held (modXfer x1 x2 x3 x4) = held x1 := by
  unfold modXfer
  simp only [held_mk, held_eta]

theorem held_endXfer (x1 : State) (x2 : BitVec 8) (x3 : Nat) (x4 : Nat) (x5 : Nat) :
    held (endXfer x1 x2 x3 x4 x5) = held x1 := by
  unfold endXfer
  dsimp only
  (repeat' split) <;> simp only [↓held_viewPut, ↓held_modXfer, ↓held_advanceRd]

theorem held_fetchPut (x1 : State) (x2 : BitVec 8) (x3 : Ctx) (x4 : Nat) (x5 : PutJob) (x6 : List (Nat × HbmEcc)) :
    held (fetchPut x1 x2 x3 x4 x5 x6) = held x1 := by
  unfold fetchPut
  try dsimp only
  repeat' first
    | with_reducible rfl
    | (with_reducible refine (held_foldl _ (fun s a => ?_) _ _).trans ?_; try dsimp only)
    | split
    | simp only [↓held_eccOutcomes, ↓held_sendRing, held_mk, held_eta]

theorem held_finishPut (x1 : State) (x2 : PutJob) : held (finishPut x1 x2) = held x1 := by
  unfold finishPut
  dsimp only
  (repeat' split) <;> simp only [↓held_ethSend, ↓held_endXfer, held_mk, held_eta]

theorem held_putPiece (x1 : State) (x2 : Nat) (x3 : Nat) (x4 : List Byte) (x5 : Bool) :
    held (putPiece x1 x2 x3 x4 x5) = held x1 := by
  unfold putPiece
  dsimp only
  (repeat' split) <;> simp only [↓held_finishPut, held_mk, held_eta]

theorem held_startDesc (x1 : State) (x2 : BitVec 8) (x3 : Ctx) (x4 : Nat × Nat) (x5 : Nat) (x6 : List (Nat × HbmEcc)) :
    held (startDesc x1 x2 x3 x4 x5 x6) = held x1 := by
  unfold startDesc
  dsimp only
  (repeat' split) <;> simp only [↓held_endXfer, ↓held_modXfer, ↓held_ethSend, ↓held_fetchPut, 
      held_mk, held_eta]

theorem held_xringPoll (x1 : State) (x2 : BitVec 8) (x3 : List (Nat × HbmEcc)) : held (xringPoll x1 x2 x3) = held x1 := by
  unfold xringPoll
  try dsimp only
  repeat' first
    | with_reducible rfl
    | (with_reducible refine (held_foldl _ (fun s a => ?_) _ _).trans ?_; try dsimp only)
    | split
    | simp only [↓held_startDesc, ↓held_updCtx]

theorem held_stookFails (x1 : State) (x2 : BitVec 8) (x3 : W32) : held (stookFails x1 x2 x3) = held x1 := by
  unfold stookFails
  simp only [↓held_updCtx]

theorem held_frameAcked (x1 : State) (x2 : XOwner) : held (frameAcked x1 x2) = held x1 := by
  unfold frameAcked
  dsimp only
  (repeat' split) <;> simp only [↓held_modXfer, ↓held_endXfer, ↓held_updCtx]

theorem held_ethAck (x1 : State) (x2 : Nat) (x3 : Dgram) : held (ethAck x1 x2 x3) = held x1 := by
  unfold ethAck
  try dsimp only
  repeat' first
    | with_reducible rfl
    | (with_reducible refine (held_foldl _ (fun s a => ?_) _ _).trans ?_; try dsimp only)
    | split
    | simp only [↓held_ethDrop, ↓held_ceAdd, ↓held_setEthStream, ↓held_ethPump, ↓held_frameAcked]

theorem held_sendEthAck (x1 : State) (x2 : EthStream) : held (sendEthAck x1 x2) = held x1 := by
  unfold sendEthAck
  simp only [↓held_ethOutAll, ↓held_setEthStream]

theorem held_ethAckTimer (x1 : State) (x2 : Nat) : held (ethAckTimer x1 x2) = held x1 := by
  unfold ethAckTimer
  (repeat' split) <;> simp only [↓held_sendEthAck]

theorem held_breakStream (x1 : State) (x2 : EthStream) : held (breakStream x1 x2) = held x1 := by
  unfold breakStream
  try dsimp only
  repeat' first
    | with_reducible rfl
    | (with_reducible refine (held_foldl _ (fun s a => ?_) _ _).trans ?_; try dsimp only)
    | split
    | simp only [↓held_setEthStream, ↓held_logAt, ↓held_endXfer, ↓held_stookFails]

theorem held_ethResend (x1 : State) (x2 : Nat) : held (ethResend x1 x2) = held x1 := by
  unfold ethResend
  (repeat' split) <;> simp only [↓held_breakStream, ↓held_ethOutAll, ↓held_setEthStream]

theorem held_ethSeq (s s' t : State) (port : Nat) (d : Dgram) (h : ethSeq s port d = (some s', t)) :
    held s' = held s := by
  unfold ethSeq at h
  dsimp only at h
  split at h
  · obtain rfl := Option.some.inj (Prod.mk.inj h).1
    simp only [↓held_ite, ↓held_sendEthAck, ↓held_setEthStream, ite_self]
  · exact absurd (Prod.mk.inj h).1 (by simp)

theorem held_ethSeq_old (s t : State) (port : Nat) (d : Dgram) (h : ethSeq s port d = (none, t)) : held t = held s := by
  unfold ethSeq at h
  dsimp only at h
  split at h
  · exact absurd (Prod.mk.inj h).1 (by simp)
  · obtain rfl := (Prod.mk.inj h).2
    exact held_setEthStream _ _

theorem held_ethReject (x1 : State) (x2 : Nat) (x3 : Dgram) (x4 : Nat) : held (ethReject x1 x2 x3 x4) = held x1 := by
  unfold ethReject
  simp only [↓held_ethOutAll, ↓held_logAt]

theorem held_ethStore (x1 : State) (x2 : Nat) (x3 : BitVec 8) (x4 : Ctx) (x5 : Nat) (x6 : Nat) (x7 : List Byte) :
    held (ethStore x1 x2 x3 x4 x5 x6 x7) = held x1 := by
  unfold ethStore
  try dsimp only
  repeat' first
    | with_reducible rfl
    | (with_reducible refine (held_foldl _ (fun s a => ?_) _ _).trans ?_; try dsimp only)
    | split
    | simp only [↓held_sendRing]

theorem held_getProgress (x1 : State) (x2 : Dgram) (x3 : Nat) : held (getProgress x1 x2 x3) = held x1 := by
  unfold getProgress
  dsimp only
  (repeat' split) <;> simp only [↓held_endXfer, ↓held_modXfer]

theorem held_ethArrive (x1 : State) (x2 : Nat) (x3 : Nat) (x4 : Dgram) (x5 : State → State) (hx5 : ∀ y0,
    held (x5 y0) = held y0) : held (ethArrive x1 x2 x3 x4 x5) = held x1 := by
  unfold ethArrive
  try dsimp only
  repeat' first
    | with_reducible rfl
    | exact held_ethSeq _ _ _ _ _ (by assumption)
    | exact held_ethSeq_old _ _ _ _ (by assumption)
    | (with_reducible refine (held_foldl _ (fun s a => ?_) _ _).trans ?_; try dsimp only)
    | split
    | simp only [↓held_ethDrop, ↓held_ceAdd, ↓hx5]
    | refine (?_ : _ = _).trans (held_ethSeq _ _ _ _ _ (by assumption))
    | refine (?_ : _ = _).trans (held_ethSeq_old _ _ _ _ (by assumption))

theorem held_ethData (x1 : State) (x2 : Nat) (x3 : Dgram) : held (ethData x1 x2 x3) = held x1 := by
  unfold ethData
  try dsimp only
  repeat' first
    | with_reducible rfl
    | (refine held_ethArrive _ _ _ _ _ (fun s => ?_); try dsimp only)
    | (with_reducible refine (held_foldl _ (fun s a => ?_) _ _).trans ?_; try dsimp only)
    | split
    | simp only [↓held_ethReject, ↓held_getProgress, ↓held_ethStore]

theorem held_ethGetreq (x1 : State) (x2 : Nat) (x3 : Dgram) (x4 : List (Nat × HbmEcc)) :
    held (ethGetreq x1 x2 x3 x4) = held x1 := by
  unfold ethGetreq
  try dsimp only
  repeat' first
    | with_reducible rfl
    | (refine held_ethArrive _ _ _ _ _ (fun s => ?_); try dsimp only)
    | (with_reducible refine (held_foldl _ (fun s a => ?_) _ _).trans ?_; try dsimp only)
    | split
    | simp only [↓held_ethReject, ↓held_fetchPut]

theorem held_ethRejected (x1 : State) (x2 : Nat) (x3 : Dgram) : held (ethRejected x1 x2 x3) = held x1 := by
  unfold ethRejected
  dsimp only
  (repeat' split) <;> simp only [↓held_ethDrop, ↓held_ceAdd, ↓held_endXfer, held_mk, held_eta]

theorem held_lldpSend (x1 : State) (x2 : Nat) : held (lldpSend x1 x2) = held x1 := by
  unfold lldpSend
  simp only [↓held_ethEmit, ↓held_ite, ite_self]

theorem held_lldpGot (x1 : State) (x2 : Nat) (x3 : List Byte) : held (lldpGot x1 x2 x3) = held x1 := by
  unfold lldpGot
  simp only [↓held_setEthPort, ↓held_ite, ite_self]

theorem held_neighbourAsk (x1 : State) (x2 : Nat) (x3 : Bool) (x4 : BitVec 128) (x5 : List Byte) :
    held (neighbourAsk x1 x2 x3 x4 x5) = held x1 := by
  unfold neighbourAsk
  simp only [↓held_ethEmit, ↓held_ite, ite_self]

theorem held_echoAsk (x1 : State) (x2 : Nat) (x3 : Bool) (x4 : BitVec 128) (x5 : List Byte) :
    held (echoAsk x1 x2 x3 x4 x5) = held x1 := by
  unfold echoAsk
  simp only [↓held_ethEmit, ↓held_ethDrop, ↓held_ite, ite_self]

theorem held_ethLink (x1 : State) (x2 : Nat) (x3 : Bool) : held (ethLink x1 x2 x3) = held x1 := by
  unfold ethLink
  simp only [↓held_setEvt, ↓held_setEthPort, ↓held_ite, ite_self]

theorem held_cageDown (x1 : State) (x2 : Nat) : held (cageDown x1 x2) = held x1 := by
  unfold cageDown
  try dsimp only
  repeat' first
    | with_reducible rfl
    | (with_reducible refine (held_foldl _ (fun s a => ?_) _ _).trans ?_; try dsimp only)
    | split
    | simp only [↓held_setEthPort]

theorem held_osfpIn (x1 : State) (x2 : Nat) (x3 : Bool) : held (osfpIn x1 x2 x3) = held x1 := by
  unfold osfpIn
  simp only [↓held_cageDown, ↓held_setEvt, ↓held_ite, ite_self, held_mk, held_eta]

theorem held_osfpOut (x1 : State) (x2 : Nat) : held (osfpOut x1 x2) = held x1 := by
  unfold osfpOut
  simp only [↓held_cageDown, ↓held_setEvt, ↓held_ite, ite_self, held_mk, held_eta]

/-! ### Stook -/

theorem held_openStook (x1 : State) (x2 : BitVec 8) (x3 : W32) : held (openStook x1 x2 x3) = held x1 := by
  unfold openStook
  (repeat' split) <;> simp only [↓held_setCtx]

theorem held_emitStook (x1 : State) (x2 : Nat) (x3 : BitVec 8) (x4 : W32) (x5 : Nat) (x6 : Nat) (x7 : List Byte) :
    held (emitStook x1 x2 x3 x4 x5 x6 x7) = held x1 := by
  unfold emitStook
  try dsimp only
  repeat' first
    | with_reducible rfl
    | (with_reducible refine (held_foldl _ (fun s a => ?_) _ _).trans ?_; try dsimp only)
    | split
    | simp only [↓held_stookFails, ↓held_updCtx, ↓held_sendRing]

theorem held_stookPut (x1 : State) (x2 : BitVec 8) (x3 : W32) (x4 : Nat) (x5 : Nat) (x6 : Nat) (x7 : List Byte) :
    held (stookPut x1 x2 x3 x4 x5 x6 x7) = held x1 := by
  unfold stookPut
  dsimp only
  (repeat' split) <;> simp only [↓held_stookFails, ↓held_ethSend]

theorem held_emitBoundary (x1 : State) (x2 : BitVec 8) : held (emitBoundary x1 x2) = held x1 := by
  unfold emitBoundary
  dsimp only
  (repeat' split) <;> simp only [↓held_setCtx, ↓held_emitStook]

theorem held_emitParts (x1 : State) (x2 : BitVec 8) : held (emitParts x1 x2) = held x1 := by
  unfold emitParts
  dsimp only
  (repeat' split) <;> simp only [↓held_setCtx, ↓held_emitStook]

theorem held_manifestPut (x1 : State) (x2 : BitVec 8) : held (manifestPut x1 x2) = held x1 := by
  unfold manifestPut
  dsimp only
  (repeat' split) <;> simp only [↓held_stookFails, ↓held_setCtx, ↓held_stookPut]

theorem held_sealPut (x1 : State) (x2 : BitVec 8) : held (sealPut x1 x2) = held x1 := by
  unfold sealPut
  dsimp only
  (repeat' split) <;> simp only [↓held_setCtx, ↓held_stookPut]

theorem held_verifyTry (x1 : State) (x2 : BitVec 8) : held (verifyTry x1 x2) = held x1 := by
  unfold verifyTry
  dsimp only
  (repeat' split) <;> simp only [↓held_answerAwaiting, ↓held_autoTest, ↓held_logCairn]

theorem held_stookPart (x1 : State) (x2 : BitVec 8) : held (stookPart x1 x2) = held x1 := by
  unfold stookPart
  dsimp only
  (repeat' split) <;> simp only [↓held_endXfer, ↓held_setCtx, ↓held_verifyTry, ↓held_emitBoundary]

/-! ### Ring -/

theorem held_ringWrite (x1 : State) (x2 : Nat) (x3 : BitVec 8) (x4 : Nat) (x5 : Nat) (x6 : List Byte) (x7 : Bool) :
    held (ringWrite x1 x2 x3 x4 x5 x6 x7) = held x1 := by
  unfold ringWrite
  try dsimp only
  repeat' first
    | with_reducible rfl
    | exact held_saddleCheck _ _ _ _ _ _ (by assumption)
    | (with_reducible refine (held_foldl _ (fun s a => ?_) _ _).trans ?_; try dsimp only)
    | split
    | simp only [↓held_viewWrite, ↓held_markBad, ↓held_unmarkBad, ↓held_drainRecs]
    | refine (?_ : _ = _).trans (held_saddleCheck _ _ _ _ _ _ (by assumption))

theorem held_deliver (x1 : State) (x2 : Flit) : held (deliver x1 x2) = held x1 := by
  unfold deliver
  dsimp only
  (repeat' split) <;> simp only [↓held_ringWrite, ↓held_putPiece, ↓held_stookFails, ↓held_stookPut, 
      held_mk, held_eta]

theorem held_ringFlit (x1 : State) (x2 : Nat) (x3 : Bool) : held (ringFlit x1 x2 x3) = held x1 := by
  unfold ringFlit
  dsimp only
  (repeat' split) <;> simp only [↓held_ceAdd, ↓held_deliver, held_mk, held_eta]

/-! ### Update -/

theorem held_latchClip (x1 : State) (x2 : BitVec 8) (x3 : W32) : held (latchClip x1 x2 x3) = held x1 := by
  unfold latchClip
  (repeat' split) <;> simp only [↓held_setCtx]

theorem held_setItem (x1 : State) (x2 : UpdItem) : held (setItem x1 x2) = held x1 := by
  unfold setItem
  simp only [↓held_ite, ite_self, held_mk, held_eta]

theorem held_dropItem (x1 : State) (x2 : UpdItem) : held (dropItem x1 x2) = held x1 := by
  unfold dropItem
  simp only [held_mk, held_eta]

theorem held_spillChunk (x1 : State) (x2 : Ctx) (x3 : Plan) (x4 : PlanBucket) (x5 : Nat) (x6 : Nat) (x7 : List Int) :
    held (spillChunk x1 x2 x3 x4 x5 x6 x7) = held x1 := by
  unfold spillChunk
  try dsimp only
  repeat' first
    | with_reducible rfl
    | (with_reducible refine (held_foldl _ (fun s a => ?_) _ _).trans ?_; try dsimp only)
    | split
    | simp only [↓held_viewWrite]

theorem held_setSlot (x1 : State) (x2 : BSlot) : held (setSlot x1 x2) = held x1 := by
  unfold setSlot
  simp only [↓held_ite, ite_self, held_mk, held_eta]

theorem held_dropSlot (x1 : State) (x2 : BitVec 8) (x3 : W32) (x4 : Nat) : held (dropSlot x1 x2 x3 x4) = held x1 := by
  unfold dropSlot
  simp only [held_mk, held_eta]

theorem held_landChunk (x1 : State) (x2 : Nat) (x3 : Ctx) (x4 : Plan) (x5 : PlanBucket) (x6 : BSlot) (x7 : Nat) (x8 : Nat)
    (x9 : List Line) : held (landChunk x1 x2 x3 x4 x5 x6 x7 x8 x9) = held x1 := by
  unfold landChunk
  simp only [↓held_spillChunk, ↓held_setItem, ↓held_dropSlot, ↓held_setSlot, ↓held_ite, ite_self]

theorem held_bucketLanding (x1 : State) (x2 : Nat) : held (bucketLanding x1 x2) = held x1 := by
  unfold bucketLanding
  dsimp only
  (repeat' split) <;> simp only [↓held_setSaddle, ↓held_ownItem, ↓held_logAt, ↓held_ringReport, ↓held_landChunk]

theorem held_emitBlock (s : State) (c : BitVec 8) (x : Ctx) (r : PlanRange) (rm : Nat) (step : W32) (blk : Nat) (ws :
    List Nat) :
    held (emitBlock s c x r rm step blk ws).1 = held s := by
  unfold emitBlock
  dsimp only
  split <;> simp only [↓held_viewPut, ↓held_viewWrite]

theorem held_emitRange (s : State) (c : BitVec 8) (x : Ctx) (r : PlanRange) (rm : Nat) (step : W32) :
    held (emitRange s c x r rm step).1 = held s := by
  unfold emitRange
  refine held_foldl_fst _ ?_ _ _
  intro a b
  exact held_emitBlock a.1 _ _ _ _ _ _ _

theorem held_setVersion (x1 : State) (x2 : BitVec 8) (x3 : Nat) (x4 : W32) : held (setVersion x1 x2 x3 x4) = held x1 := by
  unfold setVersion
  simp only [↓held_updCtx, ↓held_emitParts, ↓held_gleanRec]

theorem held_pubDone (x1 : State) (x2 : BitVec 8) (x3 : Nat) (x4 : W32) : held (pubDone x1 x2 x3 x4) = held x1 := by
  unfold pubDone
  (repeat' split) <;> simp only [↓held_setVersion]

theorem held_sendExps (x1 : State) (x2 : Ctx) (x3 : Plan) (x4 : Nat) (x5 : W32) (x6 : List Byte) (x7 : Nat) :
    held (sendExps x1 x2 x3 x4 x5 x6 x7) = held x1 := by
  unfold sendExps
  try dsimp only
  repeat' first
    | with_reducible rfl
    | (with_reducible refine (held_foldl _ (fun s a => ?_) _ _).trans ?_; try dsimp only)
    | split
    | simp only [↓held_originate]

theorem held_sendTables (x1 : State) (x2 : BitVec 8) (x3 : Nat) (x4 : W32) : held (sendTables x1 x2 x3 x4) = held x1 := by
  unfold sendTables
  try dsimp only
  repeat' first
    | with_reducible rfl
    | (with_reducible refine (held_foldl _ (fun s a => ?_) _ _).trans ?_; try dsimp only)
    | split
    | simp only [↓held_sendExps]

theorem held_publishNow (x1 : State) (x2 : BitVec 8) (x3 : Nat) (x4 : W32) : held (publishNow x1 x2 x3 x4) = held x1 := by
  unfold publishNow
  dsimp only
  (repeat' split) <;> simp only [↓held_viewWrite, ↓held_updCtx, ↓held_pubDone, ↓held_sendTables]

theorem held_publish (x1 : State) (x2 : BitVec 8) (x3 : Nat) (x4 : W32) : held (publish x1 x2 x3 x4) = held x1 := by
  unfold publish
  simp only [↓held_publishNow, ↓held_updCtx]

theorem held_publishWaiting (x1 : State) (x2 : BitVec 8) (x3 : W32) : held (publishWaiting x1 x2 x3) = held x1 := by
  unfold publishWaiting
  try dsimp only
  repeat' first
    | with_reducible rfl
    | (with_reducible refine (held_foldl _ (fun s a => ?_) _ _).trans ?_; try dsimp only)
    | split
    | simp only [↓held_publishNow]

theorem held_poisonGroups (x1 : State) (x2 : Nat) (x3 : BitVec 8) (x4 : Ctx) (x5 : Nat) (x6 : OptGroup) (x7 : PlanRange)
    (x8 : List Nat) : held (poisonGroups x1 x2 x3 x4 x5 x6 x7 x8) = held x1 := by
  unfold poisonGroups
  try dsimp only
  repeat' first
    | with_reducible rfl
    | (with_reducible refine (held_foldl _ (fun s a => ?_) _ _).trans ?_; try dsimp only)
    | split
    | simp only [↓held_markBad]

theorem held_updateRange (x1 : State) (x2 : Nat) (x3 : BitVec 8) (x4 : Ctx) (x5 : Plan) (x6 : UpdItem) (x7 : List Nat)
    (x8 : Nat) (x9 : Nat) (x10 : Option Nat) (x11 : PlanRange) :
    held (updateRange x1 x2 x3 x4 x5 x6 x7 x8 x9 x10 x11) = held x1 := by
  unfold updateRange
  try dsimp only
  repeat' first
    | with_reducible rfl
    | (with_reducible refine (held_foldl _ (fun s a => ?_) _ _).trans ?_; try dsimp only)
    | split
    | simp only [↓held_viewPut, ↓held_combineHealth, ↓held_poisonGroups, ↓held_emitStook, 
        ↓held_emitRange]

theorem held_updateRanges (x1 : State) (x2 : Nat) (x3 : BitVec 8) (x4 : Ctx) (x5 : Plan) (x6 : PlanBucket) (x7 : UpdItem)
    (x8 : Nat) (x9 : Nat) : held (updateRanges x1 x2 x3 x4 x5 x6 x7 x8 x9) = held x1 := by
  have h : ∀ (l : List PlanRange) (a : State × Nat), held (l.foldl (fun (a : State × Nat) r =>
      (updateRange a.1 x2 x3 x4 x5 x7 (bucketExps x1 x4 x5 x7.bucket x6 x7.step x7.att) x8 x9
        ((stookState x4 x5 x7.bucket x7.step).map (· + a.2)) r, a.2 + 12 * r.nelem)) a).1 = held a.1 :=
    held_foldl_fst _ (fun a b => held_updateRange _ _ _ _ _ _ _ _ _ _ _)
  unfold updateRanges
  simp only [↓held_ite, ↓held_updCtx, h, ite_self]

theorem held_emitUnchanged (x1 : State) (x2 : Nat) (x3 : BitVec 8) (x4 : Ctx) (x5 : Plan) (x6 : PlanBucket) (x7 :
    UpdItem) : held (emitUnchanged x1 x2 x3 x4 x5 x6 x7) = held x1 := by
  unfold emitUnchanged
  split
  · rfl
  · simp only [↓held_updCtx]
    exact held_foldl_fst _ (fun a b => held_emitStook _ _ _ _ _ _ _) _ _

theorem held_latchSched (x1 : State) (x2 : Nat) (x3 : BitVec 8) (x4 : W32) : held (latchSched x1 x2 x3 x4) = held x1 := by
  unfold latchSched
  dsimp only
  (repeat' split) <;> simp only [↓held_setCtx, ↓held_logAt]

theorem held_applyBucket (x1 : State) (x2 : Nat) (x3 : BitVec 8) (x4 : Plan) (x5 : PlanBucket) (x6 : UpdItem) (x7 :
    Nat × Bool) : held (applyBucket x1 x2 x3 x4 x5 x6 x7) = held x1 := by
  unfold applyBucket
  dsimp only
  (repeat' split) <;> simp only [↓held_openStook, ↓held_publish, ↓held_emitBoundary, ↓held_emitUnchanged, ↓held_dropItem,
      ↓held_latchSched, ↓held_setItem, ↓held_updateRanges]

theorem held_bucketUpdate (x1 : State) (x2 : Nat) (x3 : BitVec 8) (x4 : W32) (x5 : Nat) (x6 : List (Nat × HbmEcc)) :
    held (bucketUpdate x1 x2 x3 x4 x5 x6) = held x1 := by
  unfold bucketUpdate
  dsimp only
  (repeat' split) <;> simp only [↓held_latchClip, ↓held_eccOutcomes, ↓held_updCtx, ↓held_applyBucket, ↓held_setItem]

theorem held_schedRetry (x1 : State) (x2 : Nat) (x3 : BitVec 8) : held (schedRetry x1 x2 x3) = held x1 := by
  unfold schedRetry
  try dsimp only
  repeat' first
    | with_reducible rfl
    | (with_reducible refine (held_foldl _ (fun s a => ?_) _ _).trans ?_; try dsimp only)
    | split
    | simp only [↓held_updCtx, held_mk, held_eta]

theorem held_schedRetryAll (x1 : State) (x2 : Nat) : held (schedRetryAll x1 x2) = held x1 := by
  unfold schedRetryAll
  try dsimp only
  repeat' first
    | with_reducible rfl
    | (with_reducible refine (held_foldl _ (fun s a => ?_) _ _).trans ?_; try dsimp only)
    | split
    | simp only [↓held_schedRetry]

theorem held_clipArrives (x1 : State) (x2 : Nat) (x3 : BitVec 8) (x4 : W32) :
    held (clipArrives x1 x2 x3 x4) = held x1 := by
  unfold clipArrives
  dsimp only
  (repeat' split) <;> simp only [↓held_setCtx, held_mk, held_eta]

/-! ### Tasks -/

theorem held_noteLoad (x1 : State) (x2 : BitVec 8) (x3 : Nat) (x4 : Nat) (x5 : W32) (x6 : Nat) :
    held (noteLoad x1 x2 x3 x4 x5 x6) = held x1 := by
  unfold noteLoad
  simp only [↓held_updCtx]

theorem held_dispatcherLoad (x1 : State) (x2 : Nat) (x3 : BitVec 8) : held (dispatcherLoad x1 x2 x3) = held x1 := by
  unfold dispatcherLoad
  dsimp only
  (repeat' split) <;> simp only [↓held_noteLoad, ↓held_putTile]

theorem held_anchorRecs (x1 : State) (x2 : BitVec 8) (x3 : W32) (x4 : List Nat) (x5 : GTask) :
    held (anchorRecs x1 x2 x3 x4 x5) = held x1 := by
  unfold anchorRecs
  try dsimp only
  repeat' first
    | with_reducible rfl
    | (with_reducible refine (held_foldl _ (fun s a => ?_) _ _).trans ?_; try dsimp only)
    | split
    | simp only [↓held_gleanRec]

theorem held_replayRetire (x1 : State) (x2 : BitVec 8) (x3 : Nat × Nat × Nat) :
    held (replayRetire x1 x2 x3) = held x1 := by
  unfold replayRetire
  dsimp only
  (repeat' split) <;> simp only [↓held_updCtx, ↓held_logAt]

theorem held_retireRecs (x1 : State) (x2 : BitVec 8) (x3 : Ctx) (x4 : Retiring) (x5 : Nat) :
    held (retireRecs x1 x2 x3 x4 x5) = held x1 := by
  unfold retireRecs
  dsimp only
  (repeat' split) <;> simp only [↓held_setCtx, ↓held_gleanRec, ↓held_anchorRecs]

theorem held_recordFault (x1 : State) (x2 : BitVec 8) (x3 : Retiring) : held (recordFault x1 x2 x3) = held x1 := by
  unfold recordFault
  dsimp only
  (repeat' split) <;> simp only [↓held_complRec, ↓held_updCtx]

theorem held_retire (x1 : State) (x2 : BitVec 8) (x3 : Retiring) : held (retire x1 x2 x3) = held x1 := by
  unfold retire
  dsimp only
  (repeat' split) <;> simp only [↓held_recordFault, ↓held_retireRecs, ↓held_updCtx, ↓held_replayRetire]

theorem held_completionArrives (x1 : State) (x2 : Nat) : held (completionArrives x1 x2) = held x1 := by
  unfold completionArrives
  dsimp only
  (repeat' split) <;> simp only [↓held_setSaddle, ↓held_ownItem, ↓held_logAt, ↓held_retire]

theorem held_instanceDone (x1 : State) (x2 : BitVec 8) : held (instanceDone x1 x2) = held x1 := by
  unfold instanceDone
  dsimp only
  (repeat' split) <;> simp only [↓held_complRec, ↓held_updCtx, held_mk, held_eta]

theorem held_loadSubmission (x1 : State) (x2 : BitVec 8) : held (loadSubmission x1 x2) = held x1 := by
  unfold loadSubmission
  simp only [↓held_updCtx]

theorem held_beginCancel (x1 : State) (x2 : BitVec 8) (x3 : List Nat) : held (beginCancel x1 x2 x3) = held x1 := by
  unfold beginCancel
  simp only [↓held_updCtx, ↓held_onTiles, ↓held_ite, ite_self]

theorem held_freeKeys (x1 : State) (x2 : BitVec 8) (x3 : List Submission) : held (freeKeys x1 x2 x3) = held x1 := by
  unfold freeKeys
  simp only [↓held_onTiles]

theorem held_cancelRecs (x1 : State) (x2 : BitVec 8) (x3 : List Submission) : held (cancelRecs x1 x2 x3) = held x1 := by
  unfold cancelRecs
  try dsimp only
  repeat' first
    | with_reducible rfl
    | (with_reducible refine (held_foldl _ (fun s a => ?_) _ _).trans ?_; try dsimp only)
    | split
    | simp only [↓held_complRec, ↓held_updCtx]

theorem held_completeCancel (x1 : State) (x2 : BitVec 8) : held (completeCancel x1 x2) = held x1 := by
  unfold completeCancel
  dsimp only
  (repeat' split) <;> simp only [↓held_leaseLog, ↓held_advanceEpoch, ↓held_freeKeys, ↓held_cancelRecs, ↓held_updCtx]

/-! ### Winnow -/

theorem held_ctrlFrame (x1 : State) (x2 : BitVec 8) (x3 : Nat) (x4 : W32) (x5 : Nat) (x6 : Nat) (x7 : Nat) (x8 :
    List Line) : held (ctrlFrame x1 x2 x3 x4 x5 x6 x7 x8) = held x1 := by
  unfold ctrlFrame
  dsimp only
  (repeat' split) <;> simp only [↓held_originate]

theorem held_sendCtrl (x1 : State) (x2 : BitVec 8) (x3 : Nat) (x4 : Nat) (x5 : W32) (x6 : Nat) (x7 : Nat) (x8 : Nat) (x9 :
    Nat) (x10 : Nat) : held (sendCtrl x1 x2 x3 x4 x5 x6 x7 x8 x9 x10) = held x1 := by
  unfold sendCtrl
  simp only [↓held_ctrlFrame]

theorem held_sendAll (x1 : State) (x2 : BitVec 8) (x3 : Plan) (x4 : Nat) (x5 : W32) (x6 : Nat) (x7 : Nat) (x8 : Nat) :
    held (sendAll x1 x2 x3 x4 x5 x6 x7 x8) = held x1 := by
  unfold sendAll
  try dsimp only
  repeat' first
    | with_reducible rfl
    | (with_reducible refine (held_foldl _ (fun s a => ?_) _ _).trans ?_; try dsimp only)
    | split
    | simp only [↓held_sendCtrl]

theorem held_sendChunk (s s' : State) (c : BitVec 8) (x : Ctx) (pl : Plan) (u : BSlot) (chunk next dst : Nat) (pair :
    Bool) (side : Nat)
    (mant : List Int) (h : sendChunk s c x pl u chunk next dst pair side mant = some s') : held s' = held s := by
  unfold sendChunk at h
  dsimp only at h
  (repeat' split at h) <;> first
    | contradiction
    | (obtain rfl := Option.some.inj h; simp only [↓held_updLink, ↓held_sendOn])

theorem held_commitHere (x1 : State) (x2 : BitVec 8) (x3 : Plan) (x4 : Nat) (x5 : PlanBucket) (x6 : W32) (x7 : Nat) :
    held (commitHere x1 x2 x3 x4 x5 x6 x7) = held x1 := by
  unfold commitHere
  try dsimp only
  repeat' first
    | with_reducible rfl
    | (with_reducible refine (held_foldl _ (fun s a => ?_) _ _).trans ?_; try dsimp only)
    | split
    | simp only [↓held_setTile, ↓held_updCtx, ↓held_dropSlot, held_mk, held_eta]

theorem held_sendFinal (x1 : State) (x2 : BitVec 8) (x3 : Plan) (x4 : PlanBucket) (x5 : BSlot) (x6 : Nat) :
    held (sendFinal x1 x2 x3 x4 x5 x6) = held x1 := by
  unfold sendFinal
  simp only [↓held_setTile]

theorem held_closePairs (x1 : State) (x2 : BitVec 8) (x3 : BSlot) (x4 : PlanBucket) :
    held (closePairs x1 x2 x3 x4) = held x1 := by
  unfold closePairs
  try dsimp only
  repeat' first
    | with_reducible rfl
    | (with_reducible refine (held_foldl _ (fun s a => ?_) _ _).trans ?_; try dsimp only)
    | split
    | simp only [↓held_logAt, ↓held_updCtx]

theorem held_commitBucket (x1 : State) (x2 : BitVec 8) (x3 : Plan) (x4 : PlanBucket) (x5 : BSlot) :
    held (commitBucket x1 x2 x3 x4 x5) = held x1 := by
  unfold commitBucket
  try dsimp only
  repeat' first
    | with_reducible rfl
    | (with_reducible refine (held_foldl _ (fun s a => ?_) _ _).trans ?_; try dsimp only)
    | split
    | simp only [↓held_setSlot, ↓held_updCtx, ↓held_closePairs, ↓held_sendAll, ↓held_commitHere, ↓held_sendFinal]

theorem held_redispatch (x1 : State) (x2 : BitVec 8) (x3 : Plan) (x4 : PlanBucket) (x5 : W32) (x6 : Nat) :
    held (redispatch x1 x2 x3 x4 x5 x6) = held x1 := by
  unfold redispatch
  try dsimp only
  repeat' first
    | with_reducible rfl
    | (with_reducible refine (held_foldl _ (fun s a => ?_) _ _).trans ?_; try dsimp only)
    | split
    | simp only [↓held_updCtx, ↓held_setTile]

theorem held_openAttempt (x1 : State) (x2 : BitVec 8) (x3 : Plan) (x4 : PlanBucket) (x5 : BSlot) :
    held (openAttempt x1 x2 x3 x4 x5) = held x1 := by
  unfold openAttempt
  simp only [↓held_sendAll, ↓held_numLog, ↓held_setSlot, ↓held_redispatch]

theorem held_ownerProgress (x1 : State) (x2 : BitVec 8) (x3 : Ctx) (x4 : Plan) (x5 : PlanBucket) (x6 : BSlot) :
    held (ownerProgress x1 x2 x3 x4 x5 x6) = held x1 := by
  unfold ownerProgress
  simp only [↓held_openAttempt, ↓held_numLog, ↓held_commitBucket, ↓held_setSlot, ↓held_ite, ite_self]

theorem held_sendChunk_map (s : State) (c : BitVec 8) (x : Ctx) (pl : Plan) (u : BSlot) (chunk next dst : Nat) (pair :
    Bool) (side : Nat)
    (mant : List Int) (ch d : Chunk) : held (((sendChunk s c x pl u chunk next dst pair side mant).map (fun t => (t,
        ch))).getD (s, d)).1 = held s := by
  cases h : sendChunk s c x pl u chunk next dst pair side mant with
  | none => rfl
  | some t => exact held_sendChunk _ _ _ _ _ _ _ _ _ _ _ _ h

theorem held_chunkLeave (s : State) (c : BitVec 8) (x : Ctx) (pl : Plan) (e : PlanBucket) (u : BSlot) (i : Nat) :
    held (chunkLeave s c x pl e u i).1 = held s := by
  unfold chunkLeave
  dsimp only
  have key : ∀ (t : State) (ch : Chunk), held ((match findInput ch pl.myRank true with
      | some j => if ch.copySent then none
          else (sendChunk t c x pl u i ((pathNext pl e.owner i pl.myRank).getD e.owner) e.owner true j.side.toNat j.mant).map
            (fun s => (s, { ch with copySent := true }))
      | none => none).getD (t, ch)).1 = held t := by
    intro t ch
    split
    · split
      · rfl
      · exact held_sendChunk_map _ _ _ _ _ _ _ _ _ _ _ _ _
    · rfl
  refine (key _ _).trans ?_
  split
  · split
    · exact held_sendChunk_map _ _ _ _ _ _ _ _ _ _ _ _ _
    · rfl
  · rfl

theorem held_senderProgress (x1 : State) (x2 : BitVec 8) (x3 : Ctx) (x4 : Plan) (x5 : PlanBucket) (x6 : BSlot) :
    held (senderProgress x1 x2 x3 x4 x5 x6) = held x1 := by
  unfold senderProgress
  simp only [↓held_setSlot]
  exact held_foldl_fst _ (fun a b => held_chunkLeave _ _ _ _ _ _ _) _ _

theorem held_slotOnce (x1 : State) (x2 : BitVec 8) (x3 : W32) (x4 : Nat) : held (slotOnce x1 x2 x3 x4) = held x1 := by
  unfold slotOnce
  (repeat' split) <;> simp only [↓held_ownerProgress, ↓held_senderProgress]

theorem held_sweepSlots (x1 : State) (x2 : BitVec 8) : held (sweepSlots x1 x2) = held x1 := by
  unfold sweepSlots
  try dsimp only
  repeat' first
    | with_reducible rfl
    | (with_reducible refine (held_foldl _ (fun s a => ?_) _ _).trans ?_; try dsimp only)
    | split
    | simp only [↓held_slotOnce]

theorem held_sweepWhile (x1 : BitVec 8) (x2 : Nat) (x3 : State) : held (sweepWhile x1 x2 x3) = held x3 := by
  induction x2 generalizing x3 with
  | zero => rfl
  | succ n ih =>
    unfold sweepWhile
    dsimp only
    split <;> simp only [↓ih, ↓held_sweepSlots]

theorem held_allProgress (x1 : State) (x2 : BitVec 8) : held (allProgress x1 x2) = held x1 := by
  unfold allProgress
  simp only [↓held_sweepWhile]

theorem held_slotProgress (x1 : State) (x2 : BitVec 8) (x3 : W32) (x4 : Nat) :
    held (slotProgress x1 x2 x3 x4) = held x1 := by
  unfold slotProgress
  simp only [↓held_slotOnce, ↓held_allProgress, ↓held_ite, ite_self]

theorem held_countStale (x1 : State) (x2 : BitVec 8) : held (countStale x1 x2) = held x1 := by
  unfold countStale
  simp only [↓held_updCtx]

theorem held_requestTests (x1 : Plan) (x2 : BitVec 8) (x3 : State) (x4 : Nat) :
    held (requestTests x1 x2 x3 x4) = held x3 := by
  unfold requestTests
  simp only [↓held_autoTest, ↓held_ite, ite_self, held_mk, held_eta]

theorem held_suspect (x1 : State) (x2 : BitVec 8) (x3 : Plan) (x4 : W32) (x5 : Nat) (x6 : Nat) (x7 : Nat) (x8 : Nat) (x9 :
    Nat) (x10 : BitVec 64) (x11 : BitVec 64) : held (suspect x1 x2 x3 x4 x5 x6 x7 x8 x9 x10 x11) = held x1 := by
  unfold suspect
  try dsimp only
  repeat' first
    | with_reducible rfl
    | (with_reducible refine (held_foldl _ (fun s a => ?_) _ _).trans ?_; try dsimp only)
    | split
    | simp only [↓held_logAt, ↓held_requestTests]

theorem held_pairVerified (s : State) (c : BitVec 8) (w : Nat) (pl : Plan) (e : PlanBucket) (u : BSlot) (chunk : Nat) (p :
    Nat × Nat) (i : ChunkIn) :
    held (pairVerified s c w pl e u chunk p i).1 = held s := by
  unfold pairVerified
  dsimp only
  (repeat' split) <;> simp only [↓held_suspect]

theorem held_ownInput (x1 : State) (x2 : BitVec 8) (x3 : W32) (x4 : Nat) (x5 : Nat) (x6 : Nat) (x7 : Line) (x8 :
    List Int) : held (ownInput x1 x2 x3 x4 x5 x6 x7 x8) = held x1 := by
  unfold ownInput
  dsimp only
  (repeat' split) <;> simp only [↓held_countStale, ↓held_slotProgress, ↓held_setSlot]

theorem held_takeData (s s' : State) (f : RawFrame) (h : takeData s f = .gone s' ∨ takeData s f = .kept s') :
    held s' = held s := by
  unfold takeData at h
  dsimp only at h
  (repeat' split at h) <;> (rcases h with h | h) <;> first
    | contradiction
    | (obtain rfl := Taken.gone.inj h; simp only [↓held_sendCtrl, ↓held_countStale])
    | (obtain rfl := Taken.kept.inj h; simp only [↓held_sendCtrl, ↓held_setSlot])

theorem held_takeFirstData (x1 : State) (x2 : Nat) (x3 : List RawFrame) (x4 : List RawFrame) :
    held (takeFirstData x1 x2 x3 x4) = held x1 := by
  induction x4 generalizing x3 with
  | nil => rfl
  | cons f rest ih =>
    unfold takeFirstData
    dsimp only
    split
    · exact ih _
    · next h => simp only [↓held_freeLines, ↓held_updLink, held_takeData _ _ _ (Or.inl h)]
    · next h => simp only [↓held_freeLines, ↓held_updLink, held_takeData _ _ _ (Or.inr h)]

theorem held_winnowData (x1 : State) (x2 : Nat) (x3 : WinnowIn) : held (winnowData x1 x2 x3) = held x1 := by
  unfold winnowData
  (repeat' split) <;> simp only [↓held_takeFirstData, ↓held_ownInput]

theorem held_goodVerdict (x1 : State) (x2 : FrameTag) (x3 : PlanBucket) (x4 : BSlot) (x5 : Plan) (x6 : Nat) (x7 :
    ChunkIn) : held (goodVerdict x1 x2 x3 x4 x5 x6 x7) = held x1 := by
  unfold goodVerdict
  dsimp only
  split <;> simp only [↓held_slotProgress, ↓held_sendCtrl, ↓held_setSlot, ↓held_pairVerified]

theorem held_badVerdict (x1 : State) (x2 : FrameTag) (x3 : PlanBucket) (x4 : BSlot) (x5 : Plan) (x6 : Nat) (x7 : Nat)
    (x8 : ChunkIn) : held (badVerdict x1 x2 x3 x4 x5 x6 x7 x8) = held x1 := by
  unfold badVerdict
  simp only [↓held_setSlot, ↓held_logAt, ↓held_slotProgress, ↓held_sendCtrl]

theorem held_lateCopy (x1 : State) (x2 : FrameTag) (x3 : Ctx) (x4 : PlanBucket) (x5 : Plan) (x6 : Nat) (x7 : RawFrame) :
    held (lateCopy x1 x2 x3 x4 x5 x6 x7) = held x1 := by
  unfold lateCopy
  dsimp only
  (repeat' split) <;> simp only [↓held_sendCtrl, ↓held_suspect, ↓held_updCtx, ↓held_logAt]

theorem held_verdictLine (x1 : State) (x2 : Nat) : held (verdictLine x1 x2) = held x1 := by
  unfold verdictLine
  dsimp only
  (repeat' split) <;> simp only [↓held_updLink, ↓held_lateCopy, ↓held_sendCtrl, ↓held_goodVerdict, ↓held_badVerdict]

theorem held_pairDeadline (x1 : State) (x2 : BitVec 8) (x3 : W32) (x4 : Nat) (x5 : Nat) (x6 : Nat) :
    held (pairDeadline x1 x2 x3 x4 x5 x6) = held x1 := by
  unfold pairDeadline
  dsimp only
  (repeat' split) <;> simp only [↓held_slotProgress, ↓held_setSlot]

theorem held_takeCtrl (s s' : State) (p kind : Nat) (f : RawFrame) (l : Line) (h : takeCtrl s p kind = some (f, l, s')) :
    held s' = held s := by
  unfold takeCtrl at h
  dsimp only at h
  (repeat' split at h) <;> first
    | contradiction
    | (obtain rfl := (Prod.mk.inj (Prod.mk.inj (Option.some.inj h)).2).2; simp only [↓held_freeLines, ↓held_updLink])

theorem held_attemptFrame (x1 : State) (x2 : Nat) : held (attemptFrame x1 x2) = held x1 := by
  unfold attemptFrame
  try dsimp only
  repeat' first
    | with_reducible rfl
    | exact held_takeCtrl _ _ _ _ _ _ (by assumption)
    | (with_reducible refine (held_foldl _ (fun s a => ?_) _ _).trans ?_; try dsimp only)
    | split
    | simp only [↓held_setSlot, ↓held_redispatch]
    | refine (?_ : _ = _).trans (held_takeCtrl _ _ _ _ _ _ (by assumption))

theorem held_commitFrame (x1 : State) (x2 : Nat) : held (commitFrame x1 x2) = held x1 := by
  unfold commitFrame
  try dsimp only
  repeat' first
    | with_reducible rfl
    | exact held_takeCtrl _ _ _ _ _ _ (by assumption)
    | (with_reducible refine (held_foldl _ (fun s a => ?_) _ _).trans ?_; try dsimp only)
    | split
    | simp only [↓held_allProgress, ↓held_commitHere]
    | refine (?_ : _ = _).trans (held_takeCtrl _ _ _ _ _ _ (by assumption))

theorem held_chunkAckFrame (x1 : State) (x2 : Nat) : held (chunkAckFrame x1 x2) = held x1 := by
  unfold chunkAckFrame
  try dsimp only
  repeat' first
    | with_reducible rfl
    | exact held_takeCtrl _ _ _ _ _ _ (by assumption)
    | (with_reducible refine (held_foldl _ (fun s a => ?_) _ _).trans ?_; try dsimp only)
    | split
    | simp only [↓held_setSlot, ↓held_allProgress, held_mk, held_eta]
    | refine (?_ : _ = _).trans (held_takeCtrl _ _ _ _ _ _ (by assumption))

theorem held_requeue (x1 : State) (x2 : Nat) (x3 : HeldFrame) : held (requeue x1 x2 x3) = held x1 := by
  unfold requeue
  simp only [↓held_pumpPort, ↓held_updLink]

theorem held_resendFrame (x1 : State) (x2 : Nat) : held (resendFrame x1 x2) = held x1 := by
  unfold resendFrame
  try dsimp only
  repeat' first
    | with_reducible rfl
    | exact held_takeCtrl _ _ _ _ _ _ (by assumption)
    | (with_reducible refine (held_foldl _ (fun s a => ?_) _ _).trans ?_; try dsimp only)
    | split
    | simp only [↓held_requeue]
    | refine (?_ : _ = _).trans (held_takeCtrl _ _ _ _ _ _ (by assumption))

theorem held_resendTimeout (x1 : State) (x2 : Nat) (x3 : Nat) : held (resendTimeout x1 x2 x3) = held x1 := by
  unfold resendTimeout
  (repeat' split) <;> simp only [↓held_requeue]

/-! ### Reloc -/

theorem held_patchGraph (x1 : State) (x2 : BitVec 8) (x3 : Graph) (x4 : List Reloc) :
    held (patchGraph x1 x2 x3 x4) = held x1 := by
  unfold patchGraph
  dsimp only
  (repeat' split) <;> simp only [↓held_setCtx, ↓held_onTiles]

theorem held_placeGraph (x1 : State) (x2 : Graph) : held (placeGraph x1 x2) = held x1 := by
  unfold placeGraph
  (repeat' split) <;> simp only [↓held_onTiles]

theorem held_replaceGraphs (x1 : State) (x2 : BitVec 8) : held (replaceGraphs x1 x2) = held x1 := by
  unfold replaceGraphs
  try dsimp only
  repeat' first
    | with_reducible rfl
    | (with_reducible refine (held_foldl _ (fun s a => ?_) _ _).trans ?_; try dsimp only)
    | split
    | simp only [↓held_patchGraph, ↓held_placeGraph]

theorem held_patchLayer (x1 : State) (x2 : BitVec 8) (x3 : Nat) : held (patchLayer x1 x2 x3) = held x1 := by
  unfold patchLayer
  try dsimp only
  repeat' first
    | with_reducible rfl
    | (with_reducible refine (held_foldl _ (fun s a => ?_) _ _).trans ?_; try dsimp only)
    | split
    | simp only [↓held_patchGraph]

theorem held_patchSheaf (x1 : State) (x2 : BitVec 8) (x3 : Nat) : held (patchSheaf x1 x2 x3) = held x1 := by
  unfold patchSheaf
  try dsimp only
  repeat' first
    | with_reducible rfl
    | (with_reducible refine (held_foldl _ (fun s a => ?_) _ _).trans ?_; try dsimp only)
    | split
    | simp only [↓held_patchGraph]

/-! ### Norm -/

theorem held_sendNorm (x1 : State) (x2 : BitVec 8) (x3 : Plan) (x4 : Nat) (x5 : Nat) (x6 : W32) (x7 : Nat × List VRec) :
    held (sendNorm x1 x2 x3 x4 x5 x6 x7) = held x1 := by
  unfold sendNorm
  simp only [↓held_ctrlFrame]

theorem held_takeT2 (x1 : State) (x2 : BitVec 8) (x3 : W32) (x4 : Nat × List VRec) :
    held (takeT2 x1 x2 x3 x4) = held x1 := by
  unfold takeT2
  dsimp only
  (repeat' split) <;> simp only [↓held_latchClip, ↓held_setCtx, ↓held_logAt, ↓held_publishWaiting]

theorem held_normGo (x1 : State) (x2 : BitVec 8) (x3 : W32) : held (normGo x1 x2 x3) = held x1 := by
  unfold normGo
  dsimp only
  (repeat' split) <;> simp only [↓held_setCtx, ↓held_sendNorm, ↓held_takeT2]

theorem held_normStart (x1 : State) (x2 : BitVec 8) (x3 : W32) : held (normStart x1 x2 x3) = held x1 := by
  unfold normStart
  dsimp only
  (repeat' split) <;> simp only [↓held_latchClip, ↓held_normGo, ↓held_setCtx]

theorem held_normFrameIn (x1 : State) (x2 : Nat) : held (normFrameIn x1 x2) = held x1 := by
  unfold normFrameIn
  try dsimp only
  repeat' first
    | with_reducible rfl
    | exact held_takeCtrl _ _ _ _ _ _ (by assumption)
    | (with_reducible refine (held_foldl _ (fun s a => ?_) _ _).trans ?_; try dsimp only)
    | split
    | simp only [↓held_normGo, ↓held_setCtx]
    | refine (?_ : _ = _).trans (held_takeCtrl _ _ _ _ _ _ (by assumption))

theorem held_clipFrameIn (x1 : State) (x2 : Nat) : held (clipFrameIn x1 x2) = held x1 := by
  unfold clipFrameIn
  try dsimp only
  repeat' first
    | with_reducible rfl
    | exact held_takeCtrl _ _ _ _ _ _ (by assumption)
    | (with_reducible refine (held_foldl _ (fun s a => ?_) _ _).trans ?_; try dsimp only)
    | split
    | simp only [↓held_sendNorm, ↓held_takeT2]
    | refine (?_ : _ = _).trans (held_takeCtrl _ _ _ _ _ _ (by assumption))

theorem held_expTableIn (x1 : State) (x2 : Nat) : held (expTableIn x1 x2) = held x1 := by
  unfold expTableIn
  dsimp only
  (repeat' split) <;> simp only [↓held_freeLines, ↓held_updLink, ↓held_viewWrite, ↓held_updCtx, ↓held_sendCtrl]

theorem held_exptAckFrame (x1 : State) (x2 : Nat) : held (exptAckFrame x1 x2) = held x1 := by
  unfold exptAckFrame
  try dsimp only
  repeat' first
    | with_reducible rfl
    | exact held_takeCtrl _ _ _ _ _ _ (by assumption)
    | (with_reducible refine (held_foldl _ (fun s a => ?_) _ _).trans ?_; try dsimp only)
    | split
    | simp only [↓held_pubDone, ↓held_updCtx]
    | refine (?_ : _ = _).trans (held_takeCtrl _ _ _ _ _ _ (by assumption))

theorem held_setLayer (x1 : State) (x2 : BitVec 8) (x3 : Nat) (x4 : W32) (x5 : Nat) (x6 : Nat) :
    held (setLayer x1 x2 x3 x4 x5 x6) = held x1 := by
  unfold setLayer
  dsimp only
  (repeat' split) <;> simp only [↓held_gleanRec, ↓held_viewPut]

theorem held_boundaryScale (x1 : State) (x2 : BitVec 8) (x3 : W32) (x4 : Nat) :
    held (boundaryScale x1 x2 x3 x4) = held x1 := by
  unfold boundaryScale
  dsimp only
  (repeat' split) <;> simp only [↓held_patchLayer, ↓held_setLayer, ↓held_numLog, ↓held_updCtx]

theorem held_boundaryNarrow (x1 : State) (x2 : BitVec 8) (x3 : W32) (x4 : Nat) :
    held (boundaryNarrow x1 x2 x3 x4) = held x1 := by
  unfold boundaryNarrow
  dsimp only
  (repeat' split) <;> simp only [↓held_setLayer, ↓held_patchLayer, ↓held_numLog]

theorem held_wrapNotice (x1 : State) (x2 : BitVec 8) (x3 : W32) : held (wrapNotice x1 x2 x3) = held x1 := by
  unfold wrapNotice
  simp only [↓held_ite, ite_self, held_mk, held_eta]

theorem held_stepBoundary (x1 : State) (x2 : BitVec 8) (x3 : W32) : held (stepBoundary x1 x2 x3) = held x1 := by
  unfold stepBoundary
  try dsimp only
  repeat' first
    | with_reducible rfl
    | (with_reducible refine (held_foldl _ (fun s a => ?_) _ _).trans ?_; try dsimp only)
    | split
    | simp only [↓held_testHealth, ↓held_wrapNotice, ↓held_boundaryNarrow, ↓held_boundaryScale, ↓held_updCtx,
        ↓held_emitParts, ↓held_publishWaiting]

theorem held_resubmitPass (x1 : State) (x2 : BitVec 8) (x3 : W32) (x4 : List (Nat × Nat)) :
    held (resubmitPass x1 x2 x3 x4) = held x1 := by
  unfold resubmitPass
  try dsimp only
  repeat' first
    | with_reducible rfl
    | (with_reducible refine (held_foldl _ (fun s a => ?_) _ _).trans ?_; try dsimp only)
    | split
    | simp only [↓held_setTile]

theorem held_escalate (x1 : State) (x2 : BitVec 8) (x3 : EscReq) : held (escalate x1 x2 x3) = held x1 := by
  unfold escalate
  dsimp only
  (repeat' split) <;> simp only [↓held_viewPut, ↓held_numLog, ↓held_setLayer, ↓held_updCtx, ↓held_resubmitPass,
      ↓held_patchLayer]

/-! ### Spur -/

theorem held_spurFollow (x1 : State) (x2 : Nat) : held (spurFollow x1 x2) = held x1 := by
  unfold spurFollow
  simp only [↓held_setSpurSt, ↓held_ite, ite_self]

theorem held_signalDetect (x1 : State) (x2 : Nat) : held (signalDetect x1 x2) = held x1 := by
  unfold signalDetect
  simp only [↓held_spurFollow, ↓held_updLink, ↓held_ite, ite_self]

theorem held_linkTrained (x1 : State) (x2 : Nat) : held (linkTrained x1 x2) = held x1 := by
  unfold linkTrained
  simp only [↓held_spurFollow, ↓held_updLink, ↓held_ite, ite_self]

theorem held_restartLinks (x1 : State) (x2 : Nat) : held (restartLinks x1 x2) = held x1 := by
  unfold restartLinks
  try dsimp only
  repeat' first
    | with_reducible rfl
    | (with_reducible refine (held_foldl _ (fun s a => ?_) _ _).trans ?_; try dsimp only)
    | split
    | simp only [↓held_setSwath, ↓held_updLink]

theorem held_failSpur (x1 : State) (x2 : Nat) : held (failSpur x1 x2) = held x1 := by
  unfold failSpur
  try dsimp only
  repeat' first
    | with_reducible rfl
    | (with_reducible refine (held_foldl _ (fun s a => ?_) _ _).trans ?_; try dsimp only)
    | split
    | simp only [↓held_logAt, ↓held_setSpurSt, ↓held_setSwath, ↓held_updLink, ↓held_leaseLog, ↓held_quiesce]

theorem held_lossOfLock (x1 : State) (x2 : Nat) : held (lossOfLock x1 x2) = held x1 := by
  unfold lossOfLock
  simp only [↓held_failSpur, ↓held_updLink, ↓held_ite, ite_self]

theorem held_controlSilence (x1 : State) (x2 : Nat) : held (controlSilence x1 x2) = held x1 := by
  unfold controlSilence
  simp only [↓held_failSpur, ↓held_ite, ite_self]

theorem held_sendControl (x1 : State) (x2 : Nat) : held (sendControl x1 x2) = held x1 := by
  unfold sendControl
  simp only [↓held_updLink, ↓held_ite, ite_self]

theorem held_hopReplay (x1 : State) (x2 : Nat) : held (hopReplay x1 x2) = held x1 := by
  unfold hopReplay
  simp only [↓held_updLink, ↓held_ite, ite_self]

theorem held_detachDone (x1 : State) (x2 : Nat) : held (detachDone x1 x2) = held x1 := by
  unfold detachDone
  try dsimp only
  repeat' first
    | with_reducible rfl
    | (with_reducible refine (held_foldl _ (fun s a => ?_) _ _).trans ?_; try dsimp only)
    | split
    | simp only [↓held_dropFrame, ↓held_setSpurSt, ↓held_restartLinks]

theorem held_beginDetach (x1 : State) (x2 : Nat) : held (beginDetach x1 x2) = held x1 := by
  unfold beginDetach
  simp only [↓held_detachDone, ↓held_setSpurSt, ↓held_ite, ite_self]

theorem held_detachTimeout (x1 : State) (x2 : Nat) : held (detachTimeout x1 x2) = held x1 := by
  unfold detachTimeout
  try dsimp only
  repeat' first
    | with_reducible rfl
    | (with_reducible refine (held_foldl _ (fun s a => ?_) _ _).trans ?_; try dsimp only)
    | split
    | simp only [↓held_updLink, ↓held_dropFrame, ↓held_detachDone]

theorem held_takeHello (x1 : State) (x2 : Nat) (x3 : Nat) : held (takeHello x1 x2 x3) = held x1 := by
  unfold takeHello
  simp only [↓held_setEvt, ↓held_ite, ite_self, held_mk, held_eta]

theorem held_controlRecord (x1 : State) (x2 : Nat) (x3 : BitVec 64) (x4 : Line) :
    held (controlRecord x1 x2 x3 x4) = held x1 := by
  unfold controlRecord
  simp only [↓held_logAt, ↓held_takeHello, ↓held_updLink, ↓held_detachDone, ↓held_pumpPort, ↓held_ite, ite_self]

theorem held_spurBack (x1 : State) (x2 : Nat) : held (spurBack x1 x2) = held x1 := by
  unfold spurBack
  try dsimp only
  repeat' first
    | with_reducible rfl
    | (with_reducible refine (held_foldl _ (fun s a => ?_) _ _).trans ?_; try dsimp only)
    | split
    | simp only [↓held_setCtx, ↓held_partitionReset]

theorem held_recoverOnAttach (x1 : State) : held (recoverOnAttach x1) = held x1 := by
  unfold recoverOnAttach
  try dsimp only
  repeat' first
    | with_reducible rfl
    | (with_reducible refine (held_foldl _ (fun s a => ?_) _ _).trans ?_; try dsimp only)
    | split
    | simp only [↓held_sendNotices]

theorem held_spurAttach (x1 : State) (x2 : Nat) : held (spurAttach x1 x2) = held x1 := by
  unfold spurAttach
  try dsimp only
  repeat' first
    | with_reducible rfl
    | (with_reducible refine (held_foldl _ (fun s a => ?_) _ _).trans ?_; try dsimp only)
    | split
    | simp only [↓held_logAt, ↓held_setSpurSt, ↓held_restartLinks, ↓held_updLink, ↓held_recoverOnAttach, ↓held_spurBack]

theorem held_frameMalformed (x1 : State) (x2 : Nat) (x3 : RawFrame) : held (frameMalformed x1 x2 x3) = held x1 := by
  unfold frameMalformed
  simp only [↓held_logAt, ↓held_updLink, ↓held_freeLines, ↓held_ite, ite_self]

theorem held_inOrder (x1 : State) (x2 : Nat) (x3 : RawFrame) (x4 : State → State) (hx4 : ∀ y0, held (x4 y0) = held y0) :
    held (inOrder x1 x2 x3 x4) = held x1 := by
  unfold inOrder
  (repeat' split) <;> simp only [↓held_updLink, ↓held_freeLines, ↓held_logAt, ↓hx4]

theorem held_endCheck (s s' : State) (p : Nat) (f : RawFrame) (h : endCheck s p f = some s') : held s' = held s := by
  unfold endCheck at h
  dsimp only at h
  (repeat' split at h) <;> first
    | contradiction
    | (obtain rfl := Option.some.inj h; first | exact held_logAt _ _ _ _ _ _ _ | exact held_staleAtPort _ _ _)

theorem held_releaseFrame (x1 : State) (x2 : Nat) (x3 : RawFrame) : held (releaseFrame x1 x2 x3) = held x1 := by
  unfold releaseFrame
  dsimp only
  (repeat' split) <;> simp only [↓held_setSwath, ↓held_updLink, ↓held_freeLines, ↓held_logAt]

theorem held_engineFrame (x1 : State) (x2 : Nat) (x3 : RawFrame) : held (engineFrame x1 x2 x3) = held x1 := by
  unfold engineFrame
  simp only [↓held_updLink, ↓held_freeLines, ↓held_logAt, ↓held_ite, ite_self]

theorem held_transitIn (x1 : State) (x2 : Nat) (x3 : RawFrame) (x4 : Bool) : held (transitIn x1 x2 x3 x4) = held x1 := by
  unfold transitIn
  try dsimp only
  repeat' first
    | with_reducible rfl
    | (with_reducible refine (held_foldl _ (fun s a => ?_) _ _).trans ?_; try dsimp only)
    | split
    | simp only [↓held_freeLines, ↓held_logAt, ↓held_fromDie]

theorem held_frameGoes (x1 : State) (x2 : Nat) (x3 : RawFrame) (x4 : Bool) : held (frameGoes x1 x2 x3 x4) = held x1 := by
  unfold frameGoes
  try dsimp only
  repeat' first
    | with_reducible rfl
    | exact held_endCheck _ _ _ _ (by assumption)
    | (refine held_inOrder _ _ _ _ (fun s => ?_); try dsimp only)
    | (with_reducible refine (held_foldl _ (fun s a => ?_) _ _).trans ?_; try dsimp only)
    | split
    | simp only [↓held_transitIn, ↓held_freeLines, ↓held_engineFrame, ↓held_updLink, ↓held_releaseFrame]
    | refine (?_ : _ = _).trans (held_endCheck _ _ _ _ (by assumption))

theorem held_frameVerdict (x1 : State) (x2 : Nat) (x3 : RawFrame) (x4 : Bool) :
    held (frameVerdict x1 x2 x3 x4) = held x1 := by
  unfold frameVerdict
  simp only [↓held_ceAdd, ↓held_logAt, ↓held_frameGoes, ↓held_freeLines, ↓held_updLink, ↓held_transitIn, ↓held_ite,
      ite_self]

theorem held_frameReceive (x1 : State) (x2 : Nat) (x3 : RawFrame) (x4 : Bool) :
    held (frameReceive x1 x2 x3 x4) = held x1 := by
  unfold frameReceive
  simp only [↓held_frameMalformed, ↓held_updLink, ↓held_frameVerdict, ↓held_ite, ite_self]

theorem held_takeEngine (s s' : State) (p kind : Nat) (f : RawFrame) (v : Nat) (h : takeEngine s p kind = some (f, v,
    s')) : held s' = held s := by
  unfold takeEngine at h
  dsimp only at h
  (repeat' split at h) <;> simp only [Option.some.injEq, Prod.mk.injEq, reduceCtorEq] at h
  all_goals
    obtain ⟨_, _, rfl⟩ := h
    simp only [↓held_freeLines, ↓held_updLink]

theorem held_takeCredit (x1 : State) (x2 : Nat) : held (takeCredit x1 x2) = held x1 := by
  unfold takeCredit
  try dsimp only
  repeat' first
    | with_reducible rfl
    | exact held_takeEngine _ _ _ _ _ _ (by assumption)
    | (with_reducible refine (held_foldl _ (fun s a => ?_) _ _).trans ?_; try dsimp only)
    | split
    | simp only [↓held_updLink]
    | refine (?_ : _ = _).trans (held_takeEngine _ _ _ _ _ _ (by assumption))

theorem held_restartStreams (x1 : State) (x2 : BitVec 24) (x3 : BitVec 8) (x4 : Nat) :
    held (restartStreams x1 x2 x3 x4) = held x1 := by
  unfold restartStreams
  simp only [held_mk, held_eta]

theorem held_setPeerEpoch (x1 : State) (x2 : BitVec 24) (x3 : BitVec 8) (x4 : Nat) :
    held (setPeerEpoch x1 x2 x3 x4) = held x1 := by
  unfold setPeerEpoch
  simp only [↓held_restartStreams, ↓held_ite, ite_self, held_mk, held_eta]

theorem held_notice (x1 : State) (x2 : Nat) (x3 : Nat) (x4 : State → BitVec 8 → PeerNotice → State) (hx4 : ∀ y0 y1 y2,
    held (x4 y0 y1 y2) = held y0) : held (notice x1 x2 x3 x4) = held x1 := by
  unfold notice
  try dsimp only
  repeat' first
    | with_reducible rfl
    | exact held_takeEngine _ _ _ _ _ _ (by assumption)
    | (with_reducible refine (held_foldl _ (fun s a => ?_) _ _).trans ?_; try dsimp only)
    | split
    | simp only [↓held_setCtx, ↓held_setPeerEpoch, ↓hx4]
    | refine (?_ : _ = _).trans (held_takeEngine _ _ _ _ _ _ (by assumption))

theorem held_recoverFrame (x1 : State) (x2 : Nat) : held (recoverFrame x1 x2) = held x1 := by
  unfold recoverFrame
  try dsimp only
  repeat' first
    | with_reducible rfl
    | (refine held_notice _ _ _ _ (fun s c n => ?_); try dsimp only)
    | (with_reducible refine (held_foldl _ (fun s a => ?_) _ _).trans ?_; try dsimp only)
    | split
    | simp only [↓held_partitionReset, ↓held_updCtx]

theorem held_outFrame (x1 : State) (x2 : Nat) : held (outFrame x1 x2) = held x1 := by
  unfold outFrame
  try dsimp only
  repeat' first
    | with_reducible rfl
    | (refine held_notice _ _ _ _ (fun s c n => ?_); try dsimp only)
    | (with_reducible refine (held_foldl _ (fun s a => ?_) _ _).trans ?_; try dsimp only)
    | split
    | simp only [↓held_quiesce]

theorem held_repairFrame (x1 : State) (x2 : Nat) : held (repairFrame x1 x2) = held x1 := by
  unfold repairFrame
  try dsimp only
  repeat' first
    | with_reducible rfl
    | (refine held_notice _ _ _ _ (fun s c n => ?_); try dsimp only)
    | (with_reducible refine (held_foldl _ (fun s a => ?_) _ _).trans ?_; try dsimp only)
    | split
    | simp only [↓held_updCtx]

theorem held_rerun (x1 : State) (x2 : BitVec 8) (x3 : Ctx) (x4 : PeerNotice) : held (rerun x1 x2 x3 x4) = held x1 := by
  unfold rerun
  simp only [↓held_partitionReset, ↓held_setCtx, ↓held_replayImpossible, ↓held_ite, ite_self]

theorem held_resumeFrame (x1 : State) (x2 : Nat) : held (resumeFrame x1 x2) = held x1 := by
  unfold resumeFrame
  try dsimp only
  repeat' first
    | with_reducible rfl
    | (refine held_notice _ _ _ _ (fun s c n => ?_); try dsimp only)
    | (with_reducible refine (held_foldl _ (fun s a => ?_) _ _).trans ?_; try dsimp only)
    | split
    | simp only [↓held_setCtx, ↓held_partitionReset, ↓held_rerun]

end Sys2Proof.Machine
end

