-- ==== Sys2Proof/Laws/HeldCmd.lean ====
section
/-! SUPPORT. What the engine's work leaves alone, continued: `held` of `Laws/Held.lean` over the operations of host interface,
mailbox commands, Cairn complex, power and faults. -/
namespace Sys2Proof.Machine

/-! ### Pcie -/

theorem held_mbxCtl (x1 : State) (x2 : Nat) (x3 : W32) : held (mbxCtl x1 x2 x3) = held x1 := by
  unfold mbxCtl
  simp only [↓held_wakeFor, ↓held_setChan, ↓held_ite, ite_self]

theorem held_mbxStat (x1 : State) (x2 : Nat) (x3 : Nat) : held (mbxStat x1 x2 x3) = held x1 := by
  unfold mbxStat
  simp only [↓held_writeReply, ↓held_setChan]

theorem held_chanWrite (x1 : State) (x2 : Nat) (x3 : Nat) (x4 : W32) (x5 : Option (BitVec 64)) :
    held (chanWrite x1 x2 x3 x4 x5) = held x1 := by
  unfold chanWrite
  simp only [↓held_setChan, ↓held_mbxCtl, ↓held_mbxStat, ↓held_ite, ite_self, held_mk, held_eta]

theorem held_mbxGo (x1 : State) (x2 : Nat) (x3 : W32) : held (mbxGo x1 x2 x3) = held x1 := by
  unfold mbxGo
  simp only [↓held_mbxCtl, ↓held_ite, ite_self]

theorem held_mbxTimeout (x1 : State) (x2 : Nat) : held (mbxTimeout x1 x2) = held x1 := by
  unfold mbxTimeout
  simp only [↓held_chanIrq, ↓held_setChan, ↓held_ite, ite_self]

theorem held_mgmtUdp (x1 : State) (x2 : Nat) (x3 : Nat) (x4 : W32) (x5 : BitVec 64) :
    held (mgmtUdp x1 x2 x3 x4 x5) = held x1 := by
  unfold mgmtUdp
  simp only [↓held_chanWrite, ↓held_ite, ite_self, held_mk, held_eta]

theorem held_mgmtI3c (x1 : State) (x2 : Nat) (x3 : List W32) : held (mgmtI3c x1 x2 x3) = held x1 := by
  unfold mgmtI3c
  try dsimp only
  repeat' first
    | with_reducible rfl
    | (with_reducible refine (held_foldl _ (fun s a => ?_) _ _).trans ?_; try dsimp only)
    | split
    | simp only [↓held_chanWrite, held_mk, held_eta]

theorem held_evtEnable (x1 : State) (x2 : W32) : held (evtEnable x1 x2) = held x1 := by
  unfold evtEnable
  simp only [↓held_raiseVec, ↓held_ite, ite_self, held_mk, held_eta]

theorem held_vecMask (x1 : State) (x2 : Nat) (x3 : Nat) (x4 : Bool) : held (vecMask x1 x2 x3 x4) = held x1 := by
  unfold vecMask
  simp only [↓held_ite, ite_self, held_mk, held_eta]

theorem held_msixUnmask (x1 : State) (x2 : Nat) (x3 : Nat) : held (msixUnmask x1 x2 x3) = held x1 := by
  unfold msixUnmask
  simp only [↓held_vecMask, ↓held_ite, ite_self]

theorem held_msixWrite (x1 : State) (x2 : Nat) (x3 : Nat) (x4 : W32) : held (msixWrite x1 x2 x3 x4) = held x1 := by
  unfold msixWrite
  dsimp only
  (repeat' split) <;> simp only [↓held_vecMask, held_mk, held_eta]

theorem held_bellRefused (x1 : State) (x2 : BitVec 8) (x3 : W32) : held (bellRefused x1 x2 x3) = held x1 := by
  unfold bellRefused
  simp only [↓held_logCairn]

theorem held_doorbell (x1 : State) (x2 : BitVec 8) (x3 : W32) : held (doorbell x1 x2 x3) = held x1 := by
  unfold doorbell
  simp only [↓held_bellRefused, ↓held_setEvt, ↓held_wakeSteward, ↓held_ite, ite_self, held_mk, held_eta]

theorem held_popNext (x1 : State) (x2 : BitVec 8) : held (popNext x1 x2) = held x1 := by
  unfold popNext
  simp only [held_mk, held_eta]

theorem held_dropOther (x1 : BitVec 8) (x2 : Nat) (x3 : State) : held (dropOther x1 x2 x3) = held x3 := by
  induction x2 generalizing x3 with
  | zero => rfl
  | succ n ih =>
    unfold dropOther
    split
    · split
      · rfl
      · rw [ih, held_bellRefused, held_popNext]
    · rfl

theorem held_takeBell (x1 : State) (x2 : BitVec 8) (x3 : Nat) (x4 : State → Ctx → W32 → State) (hx4 : ∀ y0 y1 y2,
    held (x4 y0 y1 y2) = held y0) : held (takeBell x1 x2 x3 x4) = held x1 := by
  unfold takeBell
  dsimp only
  (repeat' split) <;> simp only [↓held_dropOther, ↓held_popNext, ↓held_bellRefused, ↓hx4]

theorem held_bellExtend (x1 : State) (x2 : BitVec 8) : held (bellExtend x1 x2) = held x1 := by
  unfold bellExtend
  try dsimp only
  repeat' first
    | with_reducible rfl
    | (refine held_takeBell _ _ _ _ (fun s x v => ?_); try dsimp only)
    | (with_reducible refine (held_foldl _ (fun s a => ?_) _ _).trans ?_; try dsimp only)
    | split
    | simp only [↓held_bellRefused, ↓held_setCtx]

theorem held_bellNotify (x1 : State) (x2 : BitVec 8) : held (bellNotify x1 x2) = held x1 := by
  unfold bellNotify
  try dsimp only
  repeat' first
    | with_reducible rfl
    | (refine held_takeBell _ _ _ _ (fun s x v => ?_); try dsimp only)
    | (with_reducible refine (held_foldl _ (fun s a => ?_) _ _).trans ?_; try dsimp only)
    | split
    | simp only [↓held_raiseCompletion]

theorem held_bellKick (x1 : State) (x2 : BitVec 8) : held (bellKick x1 x2) = held x1 := by
  unfold bellKick
  exact held_takeBell _ _ _ _ (fun s _ _ => held_foldl _ (fun _ _ => held_schedRetry _ _ _) _ _)

theorem held_bar2Write (x1 : State) (x2 : Nat) (x3 : List Byte) (x4 : Bool) : held (bar2Write x1 x2 x3 x4) = held x1 := by
  unfold bar2Write
  try dsimp only
  repeat' first
    | with_reducible rfl
    | (with_reducible refine (held_foldl _ (fun s a => ?_) _ _).trans ?_; try dsimp only)
    | split
    | simp only [↓held_logAt, ↓held_sendRing, held_mk, held_eta]

theorem held_hostPosts (x1 : State) (x2 : Bool) (x3 : State → State) (hx3 : ∀ y0, held (x3 y0) = held y0) :
    held (hostPosts x1 x2 x3) = held x1 := by
  unfold hostPosts
  simp only [↓hx3, ↓held_ite, ite_self, held_mk, held_eta]

theorem held_regWrite (x1 : State) (x2 : Nat) (x3 : Nat) (x4 : W32) (x5 : Nat) :
    held (regWrite x1 x2 x3 x4 x5) = held x1 := by
  unfold regWrite
  simp only [↓held_chanWrite, ↓held_doorbell, ↓held_evtEnable, ↓held_msixWrite, ↓held_ite, ite_self, held_mk, held_eta]

theorem held_fnReset (x1 : State) (x2 : Nat) : held (fnReset x1 x2) = held x1 := by
  unfold fnReset
  simp only [held_mk, held_eta]

theorem held_vfReset (x1 : State) (x2 : Nat) : held (vfReset x1 x2) = held x1 := by
  unfold vfReset
  simp only [↓held_fnReset, ↓held_ite, ite_self]

theorem held_allFnReset (x1 : State) : held (allFnReset x1) = held x1 := by
  unfold allFnReset
  try dsimp only
  repeat' first
    | with_reducible rfl
    | (with_reducible refine (held_foldl _ (fun s a => ?_) _ _).trans ?_; try dsimp only)
    | split
    | simp only [↓held_fnReset]

theorem held_pfReset (x1 : State) : held (pfReset x1) = held x1 := by
  unfold pfReset
  simp only [↓held_allFnReset, ↓held_ite, ite_self]

theorem held_followLink (x1 : State) : held (followLink x1) = held x1 := by
  unfold followLink
  simp only [held_mk, held_eta]

theorem held_perstAssert (x1 : State) : held (perstAssert x1) = held x1 := by
  unfold perstAssert
  simp only [↓held_followLink, ↓held_allFnReset, held_mk, held_eta]

theorem held_perstRelease (x1 : State) : held (perstRelease x1) = held x1 := by
  unfold perstRelease
  simp only [↓held_followLink, held_mk, held_eta]

theorem held_configRequest (x1 : State) (x2 : Nat) (x3 : CfgItem) : held (configRequest x1 x2 x3) = held x1 := by
  unfold configRequest
  simp only [↓held_ite, ite_self, held_mk, held_eta]

theorem held_pcieFatal (x1 : State) (x2 : W32) : held (pcieFatal x1 x2) = held x1 := by
  unfold pcieFatal
  simp only [↓held_waitForRepair, ↓held_logAt, ↓held_ite, ite_self, held_mk, held_eta]

/-! ### Mbox -/

theorem held_mbxTake (x1 : State) (x2 : Nat) : held (mbxTake x1 x2) = held x1 := by
  unfold mbxTake
  simp only [↓held_setChan, ↓held_settle, ↓held_chanIrq, ↓held_ite, ite_self, held_mk, held_eta]

theorem held_runCmd (x1 : State) (x2 : Nat) (x3 : Nat) (x4 : Msg → Bool) (x5 : State → Msg → State) (hx5 : ∀ y0 y1,
    held (x5 y0 y1) = held y0) : held (runCmd x1 x2 x3 x4 x5) = held x1 := by
  unfold runCmd
  dsimp only
  (repeat' split) <;> simp only [↓held_discardAsm, ↓held_answer, ↓hx5]

theorem held_onCtx (s : State) (n : Nat) (c : BitVec 8) (any : Bool) (k : Ctx → State) (hk : ∀ x, held (k x) = held s) :
    held (onCtx s n c any k) = held s := by
  unfold onCtx
  (repeat' split) <;> first | exact hk _ | exact held_answer _ _ _

theorem held_onSheaf (s : State) (n h : Nat) (any : Bool) (k : Sheaf → Ctx → State) (hk : ∀ b x, held (k b x) = held s) :
    held (onSheaf s n h any k) = held s := by
  unfold onSheaf
  split
  · exact held_answer _ _ _
  · exact held_onCtx _ _ _ _ _ (fun x => hk _ x)

theorem held_badPart (x1 : State) (x2 : Nat) : held (badPart x1 x2) = held x1 := by
  unfold badPart
  simp only [↓held_answer, ↓held_updChan]

theorem held_stagedPart (x1 : State) (x2 : Nat) : held (stagedPart x1 x2) = held x1 := by
  unfold stagedPart
  dsimp only
  (repeat' split) <;> simp only [↓held_discardAsm, ↓held_answer, ↓held_badPart, ↓held_updChan]

theorem held_withStruct (x1 : State) (x2 : Nat) (x3 : Msg) (x4 : Option Ctx) (x5 : Option (Nat × Nat)) (x6 :
    State → List Byte → State) (hx6 : ∀ y0 y1, held (x6 y0 y1) = held y0) :
    held (withStruct x1 x2 x3 x4 x5 x6) = held x1 := by
  unfold withStruct
  dsimp only
  (repeat' split) <;> simp only [↓held_badPart, ↓held_updChan, ↓held_answer, ↓held_viewWrite, ↓hx6]

theorem held_withStruct_wait (s : State) (n : Nat) (m : Msg) (x : Option Ctx) (v : Option (Nat × Nat)) (k :
    State → List Byte → State)
    (hk : ∀ t d, held t = held s → held (k t d) = held s) : held (withStruct s n m x v k) = held s := by
  unfold withStruct
  dsimp only
  (repeat' split) <;> first
    | (simp only [↓held_badPart, ↓held_answer, ↓held_updChan]; done)
    | (refine hk _ _ ?_; simp only [↓held_updChan, ↓held_viewWrite])

/-! ### Fallow -/

theorem held_sleepTile (x1 : State) (x2 : TilePower) (x3 : Nat) : held (sleepTile x1 x2 x3) = held x1 := by
  unfold sleepTile
  simp only [↓held_setTile, ↓held_ite, ite_self]

theorem held_wakeTile (x1 : State) (x2 : Nat) : held (wakeTile x1 x2) = held x1 := by
  unfold wakeTile
  simp only [↓held_setTile, ↓held_ite, ite_self]

theorem held_autoLog (x1 : State) (x2 : Nat) (x3 : Bool) : held (autoLog x1 x2 x3) = held x1 := by
  unfold autoLog
  simp only [↓held_setEvt, ↓held_logCairn]

theorem held_autoWake (x1 : State) (x2 : List Nat) : held (autoWake x1 x2) = held x1 := by
  unfold autoWake
  try dsimp only
  repeat' first
    | with_reducible rfl
    | (with_reducible refine (held_foldl _ (fun s a => ?_) _ _).trans ?_; try dsimp only)
    | split
    | simp only [↓held_autoLog, ↓held_wakeTile, held_mk, held_eta]

theorem held_autoSleep (x1 : State) : held (autoSleep x1) = held x1 := by
  unfold autoSleep
  try dsimp only
  repeat' first
    | with_reducible rfl
    | (with_reducible refine (held_foldl _ (fun s a => ?_) _ _).trans ?_; try dsimp only)
    | split
    | simp only [↓held_autoLog, ↓held_sleepTile, held_mk, held_eta]

/-! ### CmdCtx -/

theorem held_badArg (x1 : State) (x2 : Nat) : held (badArg x1 x2) = held x1 := by
  unfold badArg
  simp only [↓held_answer]

theorem held_denied (x1 : State) (x2 : Nat) (x3 : Nat) : held (denied x1 x2 x3) = held x1 := by
  unfold denied
  simp only [↓held_answer]

theorem held_noRes (x1 : State) (x2 : Nat) (x3 : Nat) : held (noRes x1 x2 x3) = held x1 := by
  unfold noRes
  simp only [↓held_answer]

theorem held_setAwait (x1 : State) (x2 : Nat) (x3 : Await) : held (setAwait x1 x2 x3) = held x1 := by
  unfold setAwait
  simp only [↓held_updChan]

theorem held_onReady (s : State) (n : Nat) (c : BitVec 8) (any : Bool) (k : Ctx → State) (hk : ∀ x, held (k x) = held s) :
    held (onReady s n c any k) = held s := by
  unfold onReady
  split
  · rfl
  · exact held_onCtx _ _ _ _ _ hk

theorem held_hello (x1 : State) (x2 : Nat) : held (hello x1 x2) = held x1 := by
  unfold hello
  try dsimp only
  repeat' first
    | with_reducible rfl
    | (refine held_runCmd _ _ _ _ _ (fun s m => ?_); try dsimp only)
    | (with_reducible refine (held_foldl _ (fun s a => ?_) _ _).trans ?_; try dsimp only)
    | split
    | simp only [↓held_answer, ↓held_badArg, ↓held_denied, held_mk, held_eta]

theorem held_caps (x1 : State) (x2 : Nat) : held (caps x1 x2) = held x1 := by
  unfold caps
  try dsimp only
  repeat' first
    | with_reducible rfl
    | (refine held_runCmd _ _ _ _ _ (fun s m => ?_); try dsimp only)
    | (with_reducible refine (held_foldl _ (fun s a => ?_) _ _).trans ?_; try dsimp only)
    | split
    | simp only [↓held_badArg, ↓held_answer]

theorem held_ctxOpen (x1 : State) (x2 : Nat) : held (ctxOpen x1 x2) = held x1 := by
  unfold ctxOpen
  try dsimp only
  repeat' first
    | with_reducible rfl
    | (refine held_runCmd _ _ _ _ _ (fun s m => ?_); try dsimp only)
    | (with_reducible refine (held_foldl _ (fun s a => ?_) _ _).trans ?_; try dsimp only)
    | split
    | simp only [↓held_badArg, ↓held_noRes, ↓held_setCtx, ↓held_advanceEpoch, ↓held_beginScrub,
        ↓held_updSaddle, ↓held_answer]

theorem held_sheafBind (x1 : State) (x2 : Nat) : held (sheafBind x1 x2) = held x1 := by
  unfold sheafBind
  try dsimp only
  repeat' first
    | with_reducible rfl
    | (refine held_runCmd _ _ _ _ _ (fun s m => ?_); try dsimp only)
    | (refine held_onReady _ _ _ _ _ (fun x => ?_); try dsimp only)
    | (with_reducible refine (held_foldl _ (fun s a => ?_) _ _).trans ?_; try dsimp only)
    | split
    | simp only [↓held_denied, ↓held_badArg, ↓held_noRes, ↓held_autoWake, ↓held_onTiles, ↓held_answer,
        held_mk, held_eta]

theorem held_leaveSheaf (x1 : State) (x2 : Nat) (x3 : BitVec 8) : held (leaveSheaf x1 x2 x3) = held x1 := by
  unfold leaveSheaf
  simp only [↓held_unquiesce, ↓held_updCtx]

theorem held_releaseSheaf (x1 : State) (x2 : Nat) (x3 : Bool) : held (releaseSheaf x1 x2 x3) = held x1 := by
  unfold releaseSheaf
  try dsimp only
  repeat' first
    | with_reducible rfl
    | (with_reducible refine (held_foldl _ (fun s a => ?_) _ _).trans ?_; try dsimp only)
    | split
    | simp only [↓held_leaseLog, ↓held_leaveSheaf, ↓held_onTiles, held_mk, held_eta]

theorem held_cancelOn (x1 : State) (x2 : BitVec 8) (x3 : Nat) : held (cancelOn x1 x2 x3) = held x1 := by
  unfold cancelOn
  dsimp only
  (repeat' split) <;> simp only [↓held_beginCancel]

theorem held_finishRelease (x1 : State) (x2 : Nat) : held (finishRelease x1 x2) = held x1 := by
  unfold finishRelease
  (repeat' split) <;> simp only [↓held_answerAwaiting, ↓held_releaseSheaf]

theorem held_sheafRelease (x1 : State) (x2 : Nat) : held (sheafRelease x1 x2) = held x1 := by
  unfold sheafRelease
  try dsimp only
  repeat' first
    | with_reducible rfl
    | (refine held_runCmd _ _ _ _ _ (fun s m => ?_); try dsimp only)
    | (refine held_onSheaf _ _ _ _ _ (fun b x => ?_); try dsimp only)
    | (with_reducible refine (held_foldl _ (fun s a => ?_) _ _).trans ?_; try dsimp only)
    | split
    | simp only [↓held_badArg, ↓held_cancelOn, ↓held_setAwait, ↓held_finishRelease, 
        held_mk, held_eta]

theorem held_giveBanks (x1 : State) (x2 : Nat) (x3 : Sheaf) (x4 : BitVec 8) (x5 : Nat) :
    held (giveBanks x1 x2 x3 x4 x5) = held x1 := by
  unfold giveBanks
  simp only [↓held_onTiles, held_mk, held_eta]

theorem held_sheafCotenant (x1 : State) (x2 : Nat) : held (sheafCotenant x1 x2) = held x1 := by
  unfold sheafCotenant
  refine held_runCmd _ _ _ _ _ (fun s m => ?_)
  dsimp only
  refine (held_onSheaf _ _ _ _ _ (fun b x => ?_)).trans ?_
  · (repeat' split) <;> first
      | rfl
      | simp only [↓held_answer, ↓held_denied, ↓held_badArg, ↓held_noRes, ↓held_quiesce, ↓held_giveBanks]
  · split
    · exact held_unquiesce _ _ _
    · rfl

theorem held_closeCtx (x1 : State) (x2 : BitVec 8) : held (closeCtx x1 x2) = held x1 := by
  unfold closeCtx
  try dsimp only
  repeat' first
    | with_reducible rfl
    | (with_reducible refine (held_foldl _ (fun s a => ?_) _ _).trans ?_; try dsimp only)
    | split
    | simp only [↓held_advanceEpoch, ↓held_releaseSheaf, ↓held_leaseLog, ↓held_dropCtxFills, ↓held_freeGranule,
        ↓held_beginScrub, ↓held_setSpurOwner, ↓held_answerAwaiting, held_mk, held_eta]

theorem held_finishClose (x1 : State) (x2 : BitVec 8) : held (finishClose x1 x2) = held x1 := by
  unfold finishClose
  simp only [↓held_closeCtx, ↓held_ite, ite_self]

theorem held_ctxClose (x1 : State) (x2 : Nat) : held (ctxClose x1 x2) = held x1 := by
  unfold ctxClose
  try dsimp only
  repeat' first
    | with_reducible rfl
    | (refine held_runCmd _ _ _ _ _ (fun s m => ?_); try dsimp only)
    | (refine held_onReady _ _ _ _ _ (fun x => ?_); try dsimp only)
    | (with_reducible refine (held_foldl _ (fun s a => ?_) _ _).trans ?_; try dsimp only)
    | split
    | simp only [↓held_badArg, ↓held_setAwait, ↓held_setCtx, ↓held_cancelOn, ↓held_beginCancel,
        ↓held_finishClose]

theorem held_graphCancel (x1 : State) (x2 : Nat) : held (graphCancel x1 x2) = held x1 := by
  unfold graphCancel
  try dsimp only
  repeat' first
    | with_reducible rfl
    | (refine held_runCmd _ _ _ _ _ (fun s m => ?_); try dsimp only)
    | (refine held_onReady _ _ _ _ _ (fun x => ?_); try dsimp only)
    | (with_reducible refine (held_foldl _ (fun s a => ?_) _ _).trans ?_; try dsimp only)
    | split
    | simp only [↓held_badArg, ↓held_answer, ↓held_setAwait, ↓held_beginCancel]

theorem held_cancelDone (x1 : State) (x2 : BitVec 8) : held (cancelDone x1 x2) = held x1 := by
  unfold cancelDone
  try dsimp only
  repeat' first
    | with_reducible rfl
    | (with_reducible refine (held_foldl _ (fun s a => ?_) _ _).trans ?_; try dsimp only)
    | split
    | simp only [↓held_completeCancel, ↓held_answerAwaiting, ↓held_finishRelease, ↓held_finishClose]

theorem held_epochMay (x1 : State) (x2 : BitVec 8) : held (epochMay x1 x2) = held x1 := by
  unfold epochMay
  dsimp only
  (repeat' split) <;> simp only [↓held_finishClose, ↓held_runReset, held_mk, held_eta]

/-! ### CmdGraph -/

theorem held_badAt (x1 : State) (x2 : Nat) (x3 : Nat × Nat) : held (badAt x1 x2 x3) = held x1 := by
  unfold badAt
  simp only [↓held_answer]

theorem held_putLayer (x1 : State) (x2 : BitVec 8) (x3 : List Byte) (x4 : Nat) :
    held (putLayer x1 x2 x3 x4) = held x1 := by
  unfold putLayer
  dsimp only
  (repeat' split) <;> simp only [↓held_updCtx, ↓held_viewPut]

theorem held_leaseGranule (x1 : State) (x2 : BitVec 8) (x3 : Nat) : held (leaseGranule x1 x2 x3) = held x1 := by
  unfold leaseGranule
  simp only [↓held_freeGranule, ↓held_ite, ite_self, held_mk, held_eta]

theorem held_loadObject (x1 : State) (x2 : Nat) (x3 : Nat) (x4 : Sheaf) (x5 : BitVec 8) (x6 : Ctx) (x7 : List Byte) (x8 :
    ObjLayout) (x9 : Nat) : held (loadObject x1 x2 x3 x4 x5 x6 x7 x8 x9) = held x1 := by
  unfold loadObject
  try dsimp only
  repeat' first
    | with_reducible rfl
    | (with_reducible refine (held_foldl _ (fun s a => ?_) _ _).trans ?_; try dsimp only)
    | split
    | simp only [↓held_leaseGranule, ↓held_setSwath, ↓held_viewPut, ↓held_viewWrite, ↓held_putLayer, ↓held_updCtx,
        ↓held_placeGraph, ↓held_answer, held_mk, held_eta]

theorem held_graphLoad (x1 : State) (x2 : Nat) (x3 : ObjLayout) : held (graphLoad x1 x2 x3) = held x1 := by
  unfold graphLoad
  try dsimp only
  repeat' first
    | with_reducible rfl
    | (refine held_runCmd _ _ _ _ _ (fun s m => ?_); try dsimp only)
    | (refine held_onReady _ _ _ _ _ (fun x => ?_); try dsimp only)
    | (refine held_withStruct _ _ _ _ _ _ (fun s d => ?_); try dsimp only)
    | (with_reducible refine (held_foldl _ (fun s a => ?_) _ _).trans ?_; try dsimp only)
    | split
    | simp only [↓held_badArg, ↓held_badAt, ↓held_denied, ↓held_noRes, ↓held_loadObject]

theorem held_graphSubmit (x1 : State) (x2 : Nat) : held (graphSubmit x1 x2) = held x1 := by
  unfold graphSubmit
  try dsimp only
  repeat' first
    | with_reducible rfl
    | (refine held_runCmd _ _ _ _ _ (fun s m => ?_); try dsimp only)
    | (refine held_onReady _ _ _ _ _ (fun x => ?_); try dsimp only)
    | (with_reducible refine (held_foldl _ (fun s a => ?_) _ _).trans ?_; try dsimp only)
    | split
    | simp only [↓held_badArg, ↓held_answer, ↓held_wakeSteward, ↓held_setCtx, ↓held_noRes]

theorem held_unloadGraph (x1 : State) (x2 : BitVec 8) (x3 : Ctx) (x4 : Graph) :
    held (unloadGraph x1 x2 x3 x4) = held x1 := by
  unfold unloadGraph
  try dsimp only
  repeat' first
    | with_reducible rfl
    | (with_reducible refine (held_foldl _ (fun s a => ?_) _ _).trans ?_; try dsimp only)
    | split
    | simp only [↓held_dropFills, ↓held_setSwath, ↓held_freeGranule, ↓held_setCtx]

theorem held_graphUnload (x1 : State) (x2 : Nat) : held (graphUnload x1 x2) = held x1 := by
  unfold graphUnload
  try dsimp only
  repeat' first
    | with_reducible rfl
    | (refine held_runCmd _ _ _ _ _ (fun s m => ?_); try dsimp only)
    | (refine held_onReady _ _ _ _ _ (fun x => ?_); try dsimp only)
    | (with_reducible refine (held_foldl _ (fun s a => ?_) _ _).trans ?_; try dsimp only)
    | split
    | simp only [↓held_badArg, ↓held_denied, ↓held_answer, ↓held_unloadGraph]

/-! ### Stream -/

theorem held_releaseBlk (x1 : State) (x2 : Nat) (x3 : Nat) (x4 : BlkEntry) : held (releaseBlk x1 x2 x3 x4) = held x1 := by
  unfold releaseBlk
  dsimp only
  (repeat' split) <;> simp only [↓held_setSwath, ↓held_sendOn]

theorem held_sendSwLine (x1 : State) (x2 : Nat) (x3 : BlkEntry) (x4 : SwReq) (x5 : List SwReq) (x6 : Nat) (x7 :
    Nat × Line × BitVec 64) : held (sendSwLine x1 x2 x3 x4 x5 x6 x7) = held x1 := by
  unfold sendSwLine
  try dsimp only
  repeat' first
    | with_reducible rfl
    | (with_reducible refine (held_foldl _ (fun s a => ?_) _ _).trans ?_; try dsimp only)
    | split
    | simp only [↓held_setSwath, ↓held_fromDie]

theorem held_serveShape (p : Nat) (b : BlkEntry) (a : State × MergeEntry) (g : (Nat × Nat × Nat) × Nat) :
    held (serveShape p b a g).1 = held a.1 := by
  unfold serveShape
  dsimp only
  split
  · rfl
  · exact held_foldl _ (fun s l => held_sendSwLine _ _ _ _ _ _ _) _ _

theorem held_serveMerge (x1 : State) (x2 : Nat) (x3 : MergeEntry) : held (serveMerge x1 x2 x3) = held x1 := by
  unfold serveMerge
  dsimp only
  split
  · rfl
  · split
    · rfl
    · have h : held ((shapesOf x3).zipIdx.foldl (serveShape x2 (by assumption : BlkEntry)) (x1, x3)).1 = held x1 :=
        held_foldl_fst _ (fun a g => held_serveShape _ _ _ _) _ _
      split
      · split <;> simp only [↓held_releaseBlk, ↓held_setSwath, h]
      · simp only [↓held_setSwath, h]

theorem held_servePort (x1 : State) (x2 : Nat) : held (servePort x1 x2) = held x1 := by
  unfold servePort
  try dsimp only
  repeat' first
    | with_reducible rfl
    | (with_reducible refine (held_foldl _ (fun s a => ?_) _ _).trans ?_; try dsimp only)
    | split
    | simp only [↓held_serveMerge]

theorem held_swreadRequest (x1 : State) (x2 : Nat) : held (swreadRequest x1 x2) = held x1 := by
  unfold swreadRequest
  dsimp only
  (repeat' split) <;> simp only [↓held_ownItem, ↓held_logAt, ↓held_setSwath, ↓held_servePort]

theorem held_mergeExpiry (x1 : State) (x2 : Nat) (x3 : Nat) : held (mergeExpiry x1 x2 x3) = held x1 := by
  unfold mergeExpiry
  dsimp only
  (repeat' split) <;> simp only [↓held_servePort, ↓held_setSwath]

theorem held_writeFill (x1 : State) (x2 : Nat) (x3 : Swath) (x4 : FillLine) (x5 : BlkEntry) (x6 : Option Peer) :
    held (writeFill x1 x2 x3 x4 x5 x6) = held x1 := by
  unfold writeFill
  dsimp only
  (repeat' split) <;> simp only [↓held_setSwath, ↓held_updLink, ↓held_sendOn, ↓held_servePort]

theorem held_fillLine (x1 : State) (x2 : Nat) (x3 : Bool) : held (fillLine x1 x2 x3) = held x1 := by
  unfold fillLine
  dsimp only
  (repeat' split) <;> simp only [↓held_updLink, ↓held_logAt, ↓held_setSwath, ↓held_writeFill]

theorem held_sendItem (x1 : State) (x2 : Nat) (x3 : BitVec 8) (x4 : Ctx) (x5 : BlkEntry) (x6 : Nat × Nat × Nat) (x7 : W32)
    (x8 : Nat) (x9 : Nat) : held (sendItem x1 x2 x3 x4 x5 x6 x7 x8 x9) = held x1 := by
  unfold sendItem
  try dsimp only
  repeat' first
    | with_reducible rfl
    | (with_reducible refine (held_foldl _ (fun s a => ?_) _ _).trans ?_; try dsimp only)
    | split
    | simp only [↓held_fromDie]

theorem held_sequencerItem (x1 : State) (x2 : Nat) (x3 : BitVec 8) (x4 : List (Nat × HbmEcc)) :
    held (sequencerItem x1 x2 x3 x4) = held x1 := by
  unfold sequencerItem
  dsimp only
  (repeat' split) <;> simp only [↓held_sendItem, ↓held_eccOutcomes, ↓held_updSaddle]

/-! ### CmdPlan -/

theorem held_dropPlan (x1 : State) (x2 : BitVec 8) : held (dropPlan x1 x2) = held x1 := by
  unfold dropPlan
  simp only [↓held_updCtx, held_mk, held_eta]

theorem held_installPlan (x1 : State) (x2 : BitVec 8) (x3 : Plan) : held (installPlan x1 x2 x3) = held x1 := by
  unfold installPlan
  dsimp only
  (repeat' split) <;> simp only [↓held_dropPlan, ↓held_viewWrite, ↓held_updCtx]

theorem held_bucketPlan (x1 : State) (x2 : Nat) : held (bucketPlan x1 x2) = held x1 := by
  unfold bucketPlan
  try dsimp only
  repeat' first
    | with_reducible rfl
    | (refine held_runCmd _ _ _ _ _ (fun s m => ?_); try dsimp only)
    | (refine held_onReady _ _ _ _ _ (fun x => ?_); try dsimp only)
    | (refine held_withStruct _ _ _ _ _ _ (fun s d => ?_); try dsimp only)
    | (with_reducible refine (held_foldl _ (fun s a => ?_) _ _).trans ?_; try dsimp only)
    | split
    | simp only [↓held_badArg, ↓held_denied, ↓held_badAt, ↓held_noRes, ↓held_answer,
        ↓held_installPlan]

theorem held_bucketPlanClear (x1 : State) (x2 : Nat) : held (bucketPlanClear x1 x2) = held x1 := by
  unfold bucketPlanClear
  try dsimp only
  repeat' first
    | with_reducible rfl
    | (refine held_runCmd _ _ _ _ _ (fun s m => ?_); try dsimp only)
    | (refine held_onReady _ _ _ _ _ (fun x => ?_); try dsimp only)
    | (with_reducible refine (held_foldl _ (fun s a => ?_) _ _).trans ?_; try dsimp only)
    | split
    | simp only [↓held_badArg, ↓held_answer, ↓held_denied, ↓held_dropPlan]

/-! ### CmdPeer -/

theorem held_installEngine (x1 : State) (x2 : EngineTable) : held (installEngine x1 x2) = held x1 := by
  unfold installEngine
  try dsimp only
  repeat' first
    | with_reducible rfl
    | (with_reducible refine (held_foldl _ (fun s a => ?_) _ _).trans ?_; try dsimp only)
    | split
    | simp only [↓held_beginDetach, held_mk, held_eta]

theorem held_peerEngine (x1 : State) (x2 : Nat) : held (peerEngine x1 x2) = held x1 := by
  unfold peerEngine
  try dsimp only
  repeat' first
    | with_reducible rfl
    | (refine held_runCmd _ _ _ _ _ (fun s m => ?_); try dsimp only)
    | (refine held_withStruct _ _ _ _ _ _ (fun s d => ?_); try dsimp only)
    | (with_reducible refine (held_foldl _ (fun s a => ?_) _ _).trans ?_; try dsimp only)
    | split
    | simp only [↓held_denied, ↓held_badArg, ↓held_badAt, ↓held_answer,
        ↓held_installEngine]

theorem held_restartPeers (x1 : State) (x2 : Option PeerTable) (x3 : PeerTable) :
    held (restartPeers x1 x2 x3) = held x1 := by
  unfold restartPeers
  try dsimp only
  repeat' first
    | with_reducible rfl
    | (with_reducible refine (held_foldl _ (fun s a => ?_) _ _).trans ?_; try dsimp only)
    | split
    | simp only [↓held_restartStreams]

theorem held_installPeers (x1 : State) (x2 : BitVec 8) (x3 : PeerTable) : held (installPeers x1 x2 x3) = held x1 := by
  unfold installPeers
  try dsimp only
  repeat' first
    | with_reducible rfl
    | (with_reducible refine (held_foldl _ (fun s a => ?_) _ _).trans ?_; try dsimp only)
    | split
    | simp only [↓held_updLink, ↓held_restartPeers, ↓held_updCtx, ↓held_setSpurOwner, ↓held_grantBinds]

theorem held_peerContext (x1 : State) (x2 : Nat) : held (peerContext x1 x2) = held x1 := by
  unfold peerContext
  refine held_runCmd _ _ _ _ _ (fun s m => ?_)
  refine held_onReady _ _ _ _ _ (fun x => ?_)
  dsimp only
  split
  · exact held_badArg _ _
  · refine held_withStruct_wait _ _ _ _ _ _ (fun t d ht => ?_)
    (repeat' split) <;> first
      | exact ht
      | rfl
      | (refine Eq.trans ?_ ht; simp only [↓held_badAt, ↓held_noRes, ↓held_answer, ↓held_installPeers])

/-! ### CmdStook -/

theorem held_stookTake (x1 : State) (x2 : Nat) : held (stookTake x1 x2) = held x1 := by
  unfold stookTake
  try dsimp only
  repeat' first
    | with_reducible rfl
    | (refine held_runCmd _ _ _ _ _ (fun s m => ?_); try dsimp only)
    | (refine held_onReady _ _ _ _ _ (fun x => ?_); try dsimp only)
    | (with_reducible refine (held_foldl _ (fun s a => ?_) _ _).trans ?_; try dsimp only)
    | split
    | simp only [↓held_denied, ↓held_badArg, ↓held_answer, ↓held_setCtx]

theorem held_rewind (x1 : State) (x2 : Ctx) (x3 : Nat) (x4 : List Byte) : held (rewind x1 x2 x3 x4) = held x1 := by
  unfold rewind
  simp only [↓held_viewWrite, ↓held_viewPut, ↓held_ite, ite_self]

theorem held_restoreFence (x1 : State) (x2 : BitVec 8) : held (restoreFence x1 x2) = held x1 := by
  unfold restoreFence
  try dsimp only
  repeat' first
    | with_reducible rfl
    | (with_reducible refine (held_foldl _ (fun s a => ?_) _ _).trans ?_; try dsimp only)
    | split
    | simp only [↓held_advanceEpoch, ↓held_onTiles, ↓held_resetPorts, ↓held_resetSaddles, ↓held_setCtx, 
        held_mk, held_eta]

theorem held_restoreUndefined (x1 : State) (x2 : Ctx) (x3 : List (Nat × List Byte)) :
    held (restoreUndefined x1 x2 x3) = held x1 := by
  unfold restoreUndefined
  try dsimp only
  repeat' first
    | with_reducible rfl
    | (with_reducible refine (held_foldl _ (fun s a => ?_) _ _).trans ?_; try dsimp only)
    | split
    | simp only [↓held_viewWrite, held_mk, held_eta]

theorem held_restoreState (x1 : State) (x2 : BitVec 8) (x3 : Plan) (x4 : W32) (x5 : BitVec 64) (x6 : Option (BitVec 32)) :
    held (restoreState x1 x2 x3 x4 x5 x6) = held x1 := by
  unfold restoreState
  try dsimp only
  repeat' first
    | with_reducible rfl
    | (with_reducible refine (held_foldl _ (fun s a => ?_) _ _).trans ?_; try dsimp only)
    | split
    | simp only [↓held_onTiles, ↓held_updSaddle, ↓held_updCtx, ↓held_replaceGraphs, 
        ↓held_emitRange]

theorem held_sendResume (x1 : State) (x2 : BitVec 8) (x3 : W32) : held (sendResume x1 x2 x3) = held x1 := by
  unfold sendResume
  simp only [↓held_sendNotices, held_mk, held_eta]

theorem held_restoreRun (x1 : State) (x2 : Nat) (x3 : BitVec 8) (x4 : Plan) (x5 : StoreAnswer) (x6 : List Byte) :
    held (restoreRun x1 x2 x3 x4 x5 x6) = held x1 := by
  unfold restoreRun
  try dsimp only
  repeat' first
    | with_reducible rfl
    | (with_reducible refine (held_foldl _ (fun s a => ?_) _ _).trans ?_; try dsimp only)
    | split
    | simp only [↓held_restoreFence, ↓held_answer, ↓held_restoreUndefined, ↓held_viewWrite, ↓held_restoreState,
        ↓held_sendResume]

theorem held_abandonReplay (x1 : State) (x2 : BitVec 8) (x3 : Ctx) : held (abandonReplay x1 x2 x3) = held x1 := by
  unfold abandonReplay
  simp only [↓held_beginCancel, ↓held_ite, ite_self]

theorem held_stookRestore (x1 : State) (x2 : Nat) (x3 : StoreAnswer) : held (stookRestore x1 x2 x3) = held x1 := by
  unfold stookRestore
  try dsimp only
  repeat' first
    | with_reducible rfl
    | (simp only [↓held_denied, ↓held_badArg, ↓held_abandonReplay, ↓held_answer, ↓held_restoreRun,
        ↓held_rewind, ↓held_ite, ite_self]; done)
    | (refine held_runCmd _ _ _ _ _ (fun s m => ?_); try dsimp only)
    | (refine held_onReady _ _ _ _ _ (fun x => ?_); try dsimp only)
    | (with_reducible refine (held_foldl _ (fun s a => ?_) _ _).trans ?_; try dsimp only)
    | split
    | simp only [↓held_runCmd, ↓held_denied, ↓held_badArg, ↓held_abandonReplay, ↓held_answer, ↓held_restoreRun,
        ↓held_rewind, ↓held_ite, ite_self, held_mk, held_eta]

theorem held_stookVerify (x1 : State) (x2 : Nat) : held (stookVerify x1 x2) = held x1 := by
  unfold stookVerify
  try dsimp only
  repeat' first
    | with_reducible rfl
    | (refine held_runCmd _ _ _ _ _ (fun s m => ?_); try dsimp only)
    | (refine held_onReady _ _ _ _ _ (fun x => ?_); try dsimp only)
    | (with_reducible refine (held_foldl _ (fun s a => ?_) _ _).trans ?_; try dsimp only)
    | split
    | simp only [↓held_denied, ↓held_badArg, ↓held_verifyTry, ↓held_setAwait, ↓held_answer]

/-! ### CmdMisc -/

theorem held_fieldTest (x1 : State) (x2 : Nat) : held (fieldTest x1 x2) = held x1 := by
  unfold fieldTest
  try dsimp only
  repeat' first
    | with_reducible rfl
    | (refine held_runCmd _ _ _ _ _ (fun s m => ?_); try dsimp only)
    | (refine held_onSheaf _ _ _ _ _ (fun b x => ?_); try dsimp only)
    | (with_reducible refine (held_foldl _ (fun s a => ?_) _ _).trans ?_; try dsimp only)
    | split
    | simp only [↓held_denied, ↓held_badArg, ↓held_setAwait, ↓held_orderTest]

theorem held_testStart (x1 : State) (x2 : Nat) : held (testStart x1 x2) = held x1 := by
  unfold testStart
  (repeat' split) <;> simp only [held_mk, held_eta]

theorem held_resubmit (x1 : State) (x2 : BitVec 8) (x3 : Submission) : held (resubmit x1 x2 x3) = held x1 := by
  unfold resubmit
  dsimp only
  (repeat' split) <;> simp only [↓held_setCtx]

theorem held_resumeWork (x1 : State) (x2 : Nat) (x3 : BitVec 8) : held (resumeWork x1 x2 x3) = held x1 := by
  unfold resumeWork
  try dsimp only
  repeat' first
    | with_reducible rfl
    | (with_reducible refine (held_foldl _ (fun s a => ?_) _ _).trans ?_; try dsimp only)
    | split
    | simp only [↓held_resubmit, ↓held_cancelRecs]

theorem held_placeSheaf (x1 : State) (x2 : Nat) (x3 : List (BitVec 8)) : held (placeSheaf x1 x2 x3) = held x1 := by
  unfold placeSheaf
  try dsimp only
  repeat' first
    | with_reducible rfl
    | (with_reducible refine (held_foldl _ (fun s a => ?_) _ _).trans ?_; try dsimp only)
    | split
    | simp only [↓held_placeGraph]

theorem held_testComplete (x1 : State) (x2 : Nat) (x3 : BitVec 6) (x4 : List Nat) :
    held (testComplete x1 x2 x3 x4) = held x1 := by
  unfold testComplete
  try dsimp only
  repeat' first
    | with_reducible rfl
    | (with_reducible refine (held_foldl _ (fun s a => ?_) _ _).trans ?_; try dsimp only)
    | split
    | simp only [↓held_placeSheaf, ↓held_onTiles, ↓held_logCairn, ↓held_suspectWindow, ↓held_resumeWork, ↓held_unquiesce,
        ↓held_answerAwaiting, ↓held_tileFailed, ↓held_hardFail, ↓held_takeOutOfService, held_mk,
        held_eta]

theorem held_powerPolicy (x1 : State) (x2 : Nat) : held (powerPolicy x1 x2) = held x1 := by
  unfold powerPolicy
  try dsimp only
  repeat' first
    | with_reducible rfl
    | (refine held_runCmd _ _ _ _ _ (fun s m => ?_); try dsimp only)
    | (with_reducible refine (held_foldl _ (fun s a => ?_) _ _).trans ?_; try dsimp only)
    | split
    | simp only [↓held_denied, ↓held_badArg, ↓held_autoWake, ↓held_answer, held_mk,
        held_eta]

theorem held_setPower (x1 : State) (x2 : Nat) (x3 : List Nat) : held (setPower x1 x2 x3) = held x1 := by
  unfold setPower
  try dsimp only
  repeat' first
    | with_reducible rfl
    | (with_reducible refine (held_foldl _ (fun s a => ?_) _ _).trans ?_; try dsimp only)
    | split
    | simp only [↓held_wakeTile, ↓held_sleepTile, ↓held_setEvt]

theorem held_fallowSheaf (x1 : State) (x2 : Nat) : held (fallowSheaf x1 x2) = held x1 := by
  unfold fallowSheaf
  try dsimp only
  repeat' first
    | with_reducible rfl
    | (refine held_runCmd _ _ _ _ _ (fun s m => ?_); try dsimp only)
    | (refine held_onSheaf _ _ _ _ _ (fun b x => ?_); try dsimp only)
    | (with_reducible refine (held_foldl _ (fun s a => ?_) _ _).trans ?_; try dsimp only)
    | split
    | simp only [↓held_badArg, ↓held_denied, ↓held_setPower, ↓held_onTiles, ↓held_answer]

theorem held_fallowRectangle (x1 : State) (x2 : Nat) : held (fallowRectangle x1 x2) = held x1 := by
  unfold fallowRectangle
  try dsimp only
  repeat' first
    | with_reducible rfl
    | (refine held_runCmd _ _ _ _ _ (fun s m => ?_); try dsimp only)
    | (with_reducible refine (held_foldl _ (fun s a => ?_) _ _).trans ?_; try dsimp only)
    | split
    | simp only [↓held_denied, ↓held_badArg, ↓held_answer, ↓held_setPower, held_mk,
        held_eta]

theorem held_attest (x1 : State) (x2 : Nat) : held (attest x1 x2) = held x1 := by
  unfold attest
  try dsimp only
  repeat' first
    | with_reducible rfl
    | (refine held_runCmd _ _ _ _ _ (fun s m => ?_); try dsimp only)
    | (with_reducible refine (held_foldl _ (fun s a => ?_) _ _).trans ?_; try dsimp only)
    | split
    | simp only [↓held_badArg, ↓held_updChan, ↓held_answer, held_mk, held_eta]

theorem held_logRead (x1 : State) (x2 : Nat) : held (logRead x1 x2) = held x1 := by
  unfold logRead
  try dsimp only
  repeat' first
    | with_reducible rfl
    | (refine held_runCmd _ _ _ _ _ (fun s m => ?_); try dsimp only)
    | (refine held_onCtx _ _ _ _ _ (fun x => ?_); try dsimp only)
    | (with_reducible refine (held_foldl _ (fun s a => ?_) _ _).trans ?_; try dsimp only)
    | split
    | simp only [↓held_badArg, ↓held_answer, ↓held_denied]

/-! ### Boot -/

theorem held_extend (x1 : State) (x2 : Nat) (x3 : BitVec 256) : held (extend x1 x2 x3) = held x1 := by
  unfold extend
  simp only [↓held_ite, ite_self, held_mk, held_eta]

theorem held_bootFailed (x1 : State) (x2 : Nat) (x3 : Nat) : held (bootFailed x1 x2 x3) = held x1 := by
  unfold bootFailed
  simp only [↓held_logCairn]

theorem held_resetSpurs (x1 : State) : held (resetSpurs x1) = held x1 := by
  unfold resetSpurs
  simp only [↓held_setEvt, ↓held_ite, ite_self, held_mk, held_eta]

theorem held_dropNuarn (x1 : State) : held (dropNuarn x1) = held x1 := by
  unfold dropNuarn
  simp only [held_mk, held_eta]

theorem held_endAwaits (x1 : State) : held (endAwaits x1) = held x1 := by
  unfold endAwaits
  try dsimp only
  repeat' first
    | with_reducible rfl
    | (with_reducible refine (held_foldl _ (fun s a => ?_) _ _).trans ?_; try dsimp only)
    | split
    | simp only [↓held_answer]

theorem held_closeAll (x1 : State) : held (closeAll x1) = held x1 := by
  unfold closeAll
  simp only [held_mk, held_eta]

theorem held_mainOff (x1 : State) : held (mainOff x1) = held x1 := by
  unfold mainOff
  simp only [↓held_resetSpurs, ↓held_endAwaits, ↓held_closeAll, ↓held_dropNuarn, ↓held_followLink, ↓held_setEngState,
      ↓held_ite, ite_self, held_mk, held_eta]

theorem held_powerLost (x1 : State) (x2 : Nat) : held (powerLost x1 x2) = held x1 := by
  unfold powerLost
  simp only [↓held_mainOff, ↓held_logCairn]

theorem held_powerCut (x1 : State) (x2 : Nat) : held (powerCut x1 x2) = held x1 := by
  unfold powerCut
  simp only [↓held_powerLost, ↓held_ite, ite_self, held_mk, held_eta]

theorem held_standbyGood (x1 : State) : held (standbyGood x1) = held x1 := by
  unfold standbyGood
  simp only [held_mk, held_eta]

theorem held_holdCtx (x1 : State) (x2 : BitVec 8) : held (holdCtx x1 x2) = held x1 := by
  unfold holdCtx
  simp only [↓held_updCtx, held_mk, held_eta]

theorem held_rebindAll (x1 : State) : held (rebindAll x1) = held x1 := by
  unfold rebindAll
  try dsimp only
  repeat' first
    | with_reducible rfl
    | (with_reducible refine (held_foldl _ (fun s a => ?_) _ _).trans ?_; try dsimp only)
    | split
    | simp only [↓held_onTiles, held_mk, held_eta]

theorem held_reopenAll (x1 : State) : held (reopenAll x1) = held x1 := by
  unfold reopenAll
  try dsimp only
  repeat' first
    | with_reducible rfl
    | (with_reducible refine (held_foldl _ (fun s a => ?_) _ _).trans ?_; try dsimp only)
    | split
    | simp only [↓held_logCairn, ↓held_runReset, ↓held_rebindAll, ↓held_closeAll, held_mk, held_eta]

theorem held_freshTiles (x1 : State) : held (freshTiles x1) = held x1 := by
  unfold freshTiles
  simp only [held_mk, held_eta]

theorem held_lostShots (x1 : State) (x2 : List Nat) : held (lostShots x1 x2) = held x1 := by
  unfold lostShots
  try dsimp only
  repeat' first
    | with_reducible rfl
    | (with_reducible refine (held_foldl _ (fun s a => ?_) _ _).trans ?_; try dsimp only)
    | split
    | simp only [↓held_logCairn]

theorem held_hbmTrained (x1 : State) (x2 : List Nat) : held (hbmTrained x1 x2) = held x1 := by
  unfold hbmTrained
  simp only [↓held_setEngState, ↓held_reopenAll, ↓held_ite, ite_self]

theorem held_trainingEnd (x1 : State) : held (trainingEnd x1) = held x1 := by
  unfold trainingEnd
  simp only [↓held_setEngState, ↓held_ite, ite_self]

theorem held_stewardsUp (x1 : State) : held (stewardsUp x1) = held x1 := by
  unfold stewardsUp
  simp only [↓held_setEngState, ↓held_ite, ite_self, held_mk, held_eta]

/-! ### Cairn -/

theorem held_setSteward (x1 : State) (x2 : Nat) (x3 : Steward) : held (setSteward x1 x2 x3) = held x1 := by
  unfold setSteward
  simp only [held_mk, held_eta]

theorem held_stewardLeases (x1 : State) (x2 : Nat) : held (stewardLeases x1 x2) = held x1 := by
  unfold stewardLeases
  simp only [↓held_leaseLog]

theorem held_stewardDies (x1 : State) (x2 : Nat) : held (stewardDies x1 x2) = held x1 := by
  unfold stewardDies
  simp only [↓held_setSteward, ↓held_setEvt, ↓held_logAt, ↓held_stewardLeases, ↓held_waitForRepair, ↓held_ite, ite_self,
      held_mk, held_eta]

theorem held_restartAnswer (x1 : State) (x2 : Nat) : held (restartAnswer x1 x2) = held x1 := by
  unfold restartAnswer
  dsimp only
  (repeat' split) <;> simp only [↓held_updChan, ↓held_answerOne]

theorem held_rollTest (x1 : State) (x2 : Nat) : held (rollTest x1 x2) = held x1 := by
  unfold rollTest
  try dsimp only
  repeat' first
    | with_reducible rfl
    | (with_reducible refine (held_foldl _ (fun s a => ?_) _ _).trans ?_; try dsimp only)
    | split
    | simp only [↓held_unquiesce, held_mk, held_eta]

theorem held_restartChan (x1 : State) (x2 : Nat) : held (restartChan x1 x2) = held x1 := by
  unfold restartChan
  try dsimp only
  repeat' first
    | with_reducible rfl
    | (with_reducible refine (held_foldl _ (fun s a => ?_) _ _).trans ?_; try dsimp only)
    | split
    | simp only [↓held_updChan, ↓held_rollTest, ↓held_writeReply, ↓held_restartAnswer]

theorem held_stewardBack (x1 : State) (x2 : Nat) : held (stewardBack x1 x2) = held x1 := by
  unfold stewardBack
  try dsimp only
  repeat' first
    | with_reducible rfl
    | (with_reducible refine (held_foldl _ (fun s a => ?_) _ _).trans ?_; try dsimp only)
    | split
    | simp only [↓held_restartChan, ↓held_setSteward]

theorem held_stewardSleeps (x1 : State) (x2 : Nat) : held (stewardSleeps x1 x2) = held x1 := by
  unfold stewardSleeps
  simp only [↓held_setSteward, ↓held_ite, ite_self]

theorem held_stewardWakes (x1 : State) (x2 : Nat) : held (stewardWakes x1 x2) = held x1 := by
  unfold stewardWakes
  simp only [↓held_wakeSteward, ↓held_ite, ite_self]

theorem held_nuarnWrite (x1 : State) (x2 : BitVec 8) (x3 : Nat) (x4 : List Byte) :
    held (nuarnWrite x1 x2 x3 x4) = held x1 := by
  unfold nuarnWrite
  dsimp only
  (repeat' split) <;> simp only [↓held_logCairn, ↓held_viewWrite, ↓held_drainRecs]

theorem held_accessWrite (x1 : State) (x2 : Nat) (x3 : Nat) (x4 : List Byte) (x5 : CairnTarget) :
    held (accessWrite x1 x2 x3 x4 x5) = held x1 := by
  unfold accessWrite
  dsimp only
  (repeat' split) <;> simp only [↓held_nuarnWrite, held_mk, held_eta]

theorem held_cairnAccess (x1 : State) (x2 : Nat) (x3 : CairnTarget) (x4 : W32) (x5 : List Byte) :
    held (cairnAccess x1 x2 x3 x4 x5) = held x1 := by
  unfold cairnAccess
  dsimp only
  (repeat' split) <;> simp only [↓held_logAt, ↓held_answer, ↓held_stewardDies, ↓held_accessWrite]

/-! ### CmdFw -/

theorem held_takeNuarn (x1 : State) (x2 : List Byte) : held (takeNuarn x1 x2) = held x1 := by
  unfold takeNuarn
  simp only [↓held_extend, held_mk, held_eta]

theorem held_nuarnLoad (x1 : State) (x2 : Nat) : held (nuarnLoad x1 x2) = held x1 := by
  unfold nuarnLoad
  try dsimp only
  repeat' first
    | with_reducible rfl
    | (refine held_runCmd _ _ _ _ _ (fun s m => ?_); try dsimp only)
    | (refine held_withStruct _ _ _ _ _ _ (fun s d => ?_); try dsimp only)
    | (with_reducible refine (held_foldl _ (fun s a => ?_) _ _).trans ?_; try dsimp only)
    | split
    | simp only [↓held_badArg, ↓held_badPart, ↓held_denied, ↓held_answer, ↓held_takeNuarn]

/-! ### Power -/

theorem held_mainEnRise (x1 : State) : held (mainEnRise x1) = held x1 := by
  unfold mainEnRise
  simp only [↓held_ite, ite_self, held_mk, held_eta]

theorem held_powerupStart (x1 : State) (x2 : Nat) (x3 : Nat) (x4 : Bool) (x5 : Bool) :
    held (powerupStart x1 x2 x3 x4 x5) = held x1 := by
  unfold powerupStart
  simp only [↓held_ite, ite_self, held_mk, held_eta]

theorem held_prechargeDone (x1 : State) : held (prechargeDone x1) = held x1 := by
  unfold prechargeDone
  simp only [↓held_followLink, ↓held_ite, ite_self, held_mk, held_eta]

theorem held_tellPeers (x1 : State) (x2 : Nat) : held (tellPeers x1 x2) = held x1 := by
  unfold tellPeers
  try dsimp only
  repeat' first
    | with_reducible rfl
    | (with_reducible refine (held_foldl _ (fun s a => ?_) _ _).trans ?_; try dsimp only)
    | split
    | simp only [↓held_sendNotices]

theorem held_orderly (x1 : State) : held (orderly x1) = held x1 := by
  unfold orderly
  try dsimp only
  repeat' first
    | with_reducible rfl
    | (with_reducible refine (held_foldl _ (fun s a => ?_) _ _).trans ?_; try dsimp only)
    | split
    | simp only [↓held_tellPeers, ↓held_setEngState, ↓held_faultCtx, held_mk, held_eta]

theorem held_orderlyTick (x1 : State) : held (orderlyTick x1) = held x1 := by
  unfold orderlyTick
  dsimp only
  (repeat' split) <;> simp only [↓held_tellPeers, ↓held_powerLost, held_mk, held_eta]

theorem held_mainEnLow (x1 : State) : held (mainEnLow x1) = held x1 := by
  unfold mainEnLow
  simp only [↓held_orderly, held_mk, held_eta]

theorem held_eoff (x1 : State) : held (eoff x1) = held x1 := by
  unfold eoff
  simp only [↓held_powerCut, held_mk, held_eta]

theorem held_inletTimeout (x1 : State) (x2 : Nat) : held (inletTimeout x1 x2) = held x1 := by
  unfold inletTimeout
  simp only [↓held_orderly, ↓held_ite, ite_self]

theorem held_flowTimeout (x1 : State) (x2 : Nat) : held (flowTimeout x1 x2) = held x1 := by
  unfold flowTimeout
  simp only [↓held_orderly, ↓held_ite, ite_self]

theorem held_thermalTrip (x1 : State) (x2 : Nat) (x3 : Nat) (x4 : Nat) : held (thermalTrip x1 x2 x3 x4) = held x1 := by
  unfold thermalTrip
  simp only [↓held_powerCut, ↓held_logCairn, ↓held_ite, ite_self]

theorem held_tileHotTrip (x1 : State) (x2 : Nat) : held (tileHotTrip x1 x2) = held x1 := by
  unfold tileHotTrip
  simp only [↓held_setTile, ↓held_setEvt, ↓held_logAt, ↓held_ite, ite_self, held_mk, held_eta]

theorem held_tileCool (x1 : State) (x2 : Nat) : held (tileCool x1 x2) = held x1 := by
  unfold tileCool
  simp only [↓held_setEvt, ↓held_setTile, ↓held_ite, ite_self]

theorem held_hbmHotAt (x1 : State) (x2 : Nat) (x3 : Nat) : held (hbmHotAt x1 x2 x3) = held x1 := by
  unfold hbmHotAt
  simp only [↓held_ite, ite_self, held_mk, held_eta]

theorem held_hbmVeryAt (x1 : State) (x2 : Nat) (x3 : Nat) : held (hbmVeryAt x1 x2 x3) = held x1 := by
  unfold hbmVeryAt
  simp only [↓held_ite, ite_self, held_mk, held_eta]

theorem held_dieHotAt (x1 : State) (x2 : Nat) (x3 : Nat) : held (dieHotAt x1 x2 x3) = held x1 := by
  unfold dieHotAt
  simp only [↓held_ite, ite_self, held_mk, held_eta]

theorem held_derate (x1 : State) (x2 : Nat) (x3 : Nat) : held (derate x1 x2 x3) = held x1 := by
  unfold derate
  simp only [↓held_setEvt, ↓held_logCairn, ↓held_ite, ite_self, held_mk, held_eta]

theorem held_limiterWindow (x1 : State) (x2 : Nat) : held (limiterWindow x1 x2) = held x1 := by
  unfold limiterWindow
  simp only [↓held_setEvt, ↓held_logCairn, ↓held_ite, ite_self, held_mk, held_eta]

theorem held_dvfsLog (x1 : State) (x2 : Nat) (x3 : Nat) (x4 : Nat) (x5 : Bool) :
    held (dvfsLog x1 x2 x3 x4 x5) = held x1 := by
  unfold dvfsLog
  simp only [↓held_setEvt, ↓held_logCairn]

theorem held_setFg (x1 : State) (x2 : Nat) : held (setFg x1 x2) = held x1 := by
  unfold setFg
  simp only [↓held_dvfsLog, ↓held_ite, ite_self, held_mk, held_eta]

theorem held_loopPower (x1 : State) (x2 : Nat) : held (loopPower x1 x2) = held x1 := by
  unfold loopPower
  simp only [↓held_setEvt, ↓held_setFg, ↓held_ite, ite_self, held_mk, held_eta]

theorem held_setCeil (x1 : State) (x2 : Nat) (x3 : Nat) : held (setCeil x1 x2 x3) = held x1 := by
  unfold setCeil
  simp only [↓held_dvfsLog, ↓held_ite, ite_self, held_mk, held_eta]

theorem held_loopCeils (x1 : State) (x2 : LoopIn) : held (loopCeils x1 x2) = held x1 := by
  unfold loopCeils
  try dsimp only
  repeat' first
    | with_reducible rfl
    | (with_reducible refine (held_foldl _ (fun s a => ?_) _ _).trans ?_; try dsimp only)
    | split
    | simp only [↓held_setCeil, held_mk, held_eta]

theorem held_loopTiles (x1 : State) : held (loopTiles x1) = held x1 := by
  unfold loopTiles
  try dsimp only
  repeat' first
    | with_reducible rfl
    | (with_reducible refine (held_foldl _ (fun s a => ?_) _ _).trans ?_; try dsimp only)
    | split
    | simp only [↓held_setTile]

theorem held_loopPeriod (x1 : State) (x2 : LoopIn) : held (loopPeriod x1 x2) = held x1 := by
  unfold loopPeriod
  simp only [↓held_loopTiles, ↓held_loopCeils, ↓held_loopPower, ↓held_autoSleep, ↓held_ite, ite_self, held_mk, held_eta]

theorem held_eccWatch (x1 : State) : held (eccWatch x1) = held x1 := by
  unfold eccWatch
  try dsimp only
  repeat' first
    | with_reducible rfl
    | (with_reducible refine (held_foldl _ (fun s a => ?_) _ _).trans ?_; try dsimp only)
    | split
    | simp only [↓held_hardFail, held_mk, held_eta]

theorem held_countCes (x1 : State) (x2 : List (Nat × Nat)) : held (countCes x1 x2) = held x1 := by
  unfold countCes
  try dsimp only
  repeat' first
    | with_reducible rfl
    | (with_reducible refine (held_foldl _ (fun s a => ?_) _ _).trans ?_; try dsimp only)
    | split
    | simp only [↓held_ceAddN, held_mk, held_eta]

theorem held_telemetry (x1 : State) (x2 : TlmIn) : held (telemetry x1 x2) = held x1 := by
  unfold telemetry
  simp only [↓held_countCes, ↓held_eccWatch, ↓held_ite, ite_self, held_mk, held_eta]

theorem held_tlmAddress (x1 : State) (x2 : Nat) : held (tlmAddress x1 x2) = held x1 := by
  unfold tlmAddress
  simp only [↓held_ite, ite_self, held_mk, held_eta]

/-! ### Faults -/

theorem held_noteErr (s : State) (k unit place : Nat) : held (noteErr s k unit place).1 = held s := rfl

theorem held_ueReset (x1 : State) (x2 : Option (BitVec 8)) : held (ueReset x1 x2) = held x1 := by
  unfold ueReset
  (repeat' split) <;> simp only [↓held_partitionReset, ↓held_ownItem]

theorem held_ueCost (x1 : State) (x2 : LogRec) : held (ueCost x1 x2) = held x1 := by
  have h : ∀ k unit place, held (ueReset (noteErr x1 k unit place).1 x2.ctx) = held x1 := fun k unit place =>
    (held_ueReset _ _).trans (held_noteErr _ _ _ _)
  have own : held ((x2.ctx.map (ownItem x1)).getD x1) = held x1 := by
    cases x2.ctx with
    | none => rfl
    | some c => exact held_ownItem _ _
  unfold ueCost
  dsimp only
  split
  · split <;> simp only [↓held_hardFail, h]
  · split
    · split
      · rfl
      · split <;> simp only [↓held_takeOutOfService, h]
    · split
      · split
        · split
          · split <;> simp only [↓held_replayImpossible, ↓held_ueReset]
          · exact held_ueReset _ _
        · split
          · exact own
          · split
            · rfl
            · split <;> simp only [↓held_endXfer, ↓held_ownItem]
      · split
        · exact held_ueReset _ _
        · rfl

theorem held_ueArrives (x1 : State) (x2 : Option DieUe) : held (ueArrives x1 x2) = held x1 := by
  unfold ueArrives
  dsimp only
  (repeat' split) <;> simp only [↓held_ueCost, ↓held_ceAdd, ↓held_logRec, ↓held_takeOutOfService, ↓held_setSwath,
      held_mk, held_eta]

theorem held_taskFaultNext (x1 : State) (x2 : BitVec 8) : held (taskFaultNext x1 x2) = held x1 := by
  unfold taskFaultNext
  dsimp only
  (repeat' split) <;> simp only [↓held_setCtx, ↓held_partitionReset, ↓held_logAt, ↓held_beginCancel]

theorem held_layersBack (x1 : State) (x2 : Ctx) (x3 : W32) : held (layersBack x1 x2 x3) = held x1 := by
  unfold layersBack
  try dsimp only
  repeat' first
    | with_reducible rfl
    | (with_reducible refine (held_foldl _ (fun s a => ?_) _ _).trans ?_; try dsimp only)
    | split
    | simp only [↓held_viewPut]

theorem held_dropDeltas (x1 : State) (x2 : BitVec 8) (x3 : W32) : held (dropDeltas x1 x2 x3) = held x1 := by
  unfold dropDeltas
  simp only [↓held_updCtx]

theorem held_reemit (x1 : State) (x2 : BitVec 8) : held (reemit x1 x2) = held x1 := by
  unfold reemit
  try dsimp only
  repeat' first
    | with_reducible rfl
    | (with_reducible refine (held_foldl _ (fun s a => ?_) _ _).trans ?_; try dsimp only)
    | split
    | simp only [↓held_emitRange]

theorem held_loadMembers (x1 : State) (x2 : BitVec 8) (x3 : Ctx) (x4 : List (Nat × Nat × Nat)) :
    held (loadMembers x1 x2 x3 x4) = held x1 := by
  unfold loadMembers
  try dsimp only
  repeat' first
    | with_reducible rfl
    | (with_reducible refine (held_foldl _ (fun s a => ?_) _ _).trans ?_; try dsimp only)
    | split
    | simp only [↓held_onTiles, ↓held_setTile]

theorem held_resendTables (x1 : State) (x2 : BitVec 8) : held (resendTables x1 x2) = held x1 := by
  unfold resendTables
  try dsimp only
  repeat' first
    | with_reducible rfl
    | (with_reducible refine (held_foldl _ (fun s a => ?_) _ _).trans ?_; try dsimp only)
    | split
    | simp only [↓held_sendTables]

theorem held_endEmpty (x1 : State) (x2 : BitVec 8) (x3 : Nat) : held (endEmpty x1 x2 x3) = held x1 := by
  unfold endEmpty
  simp only [↓held_logAt, ↓held_updCtx]

theorem held_planReplay (x1 : State) (x2 : BitVec 8) : held (planReplay x1 x2) = held x1 := by
  unfold planReplay
  dsimp only
  (repeat' split) <;> simp only [↓held_setCtx, ↓held_reemit, ↓held_replayImpossible, ↓held_dropDeltas, ↓held_layersBack,
      ↓held_replaceGraphs, ↓held_updCtx, ↓held_loadMembers, ↓held_resendTables, ↓held_logAt, ↓held_endEmpty, 
      held_mk, held_eta]

theorem held_spurRepair (x1 : State) (x2 : Nat) : held (spurRepair x1 x2) = held x1 := by
  unfold spurRepair
  try dsimp only
  repeat' first
    | with_reducible rfl
    | (with_reducible refine (held_foldl _ (fun s a => ?_) _ _).trans ?_; try dsimp only)
    | split
    | simp only [↓held_setCtx, ↓held_logAt, ↓held_sendNotices]

theorem held_probeTimeout (x1 : State) (x2 : Nat) : held (probeTimeout x1 x2) = held x1 := by
  unfold probeTimeout
  simp only [↓held_hardFail, ↓held_ite, ite_self, held_mk, held_eta]

theorem held_remapped (x1 : State) (x2 : List Nat) (x3 : Nat) : held (remapped x1 x2 x3) = held x1 := by
  unfold remapped
  try dsimp only
  repeat' first
    | with_reducible rfl
    | (with_reducible refine (held_foldl _ (fun s a => ?_) _ _).trans ?_; try dsimp only)
    | split
    | simp only [↓held_lostShots, ↓held_tellPeers, ↓held_logCairn, ↓held_rebindAll, ↓held_freshTiles, ↓held_sendNotices,
        ↓held_setEngState, held_mk, held_eta]

end Sys2Proof.Machine
end

