-- ==== Sys2Proof/Laws/Table.lean ====
section
/-! SUPPORT. Read after write for the sparse tables and byte memories, and the lemma that every memory operation keeps the
canonical form. -/
namespace Sys2Proof.Machine

variable {α : Type}

@[simp] theorem tabFind_nil (i : Nat) : tabFind ([] : Tab α) i = none := rfl

theorem tabFind_tabSet_self (t : Tab α) (i : Nat) (v : α) : tabFind (tabSet t i v) i = some v := by
  induction t with
  | nil => simp [tabSet, tabFind]
  | cons p t ih =>
    obtain ⟨k, x⟩ := p
    simp only [tabSet]
    split
    · simp [tabFind]
    · split
      · simp [tabFind]
      · rename_i h1 h2
        have : ¬ k = i := fun h => h2 h.symm
        simp [tabFind, this, ih]

theorem tabFind_tabSet_ne (t : Tab α) (i j : Nat) (v : α) (h : i ≠ j) : tabFind (tabSet t i v) j = tabFind t j := by
  induction t with
  | nil => simp [tabSet, tabFind, h]
  | cons p t ih =>
    obtain ⟨k, x⟩ := p
    simp only [tabSet]
    split
    · simp [tabFind, h]
    · split
      · rename_i h1 h2
        subst h2
        simp [tabFind, h]
      · simp [tabFind, ih]

@[simp] theorem tabGet_tabSet_self (t : Tab α) (i : Nat) (v d : α) : tabGet (tabSet t i v) i d = v := by
  simp [tabGet, tabFind_tabSet_self]

theorem tabGet_tabSet_ne (t : Tab α) (i j : Nat) (v d : α) (h : i ≠ j) : tabGet (tabSet t i v) j d = tabGet t j d := by
  simp [tabGet, tabFind_tabSet_ne t i j v h]

/-! ### Byte memories -/

/-- Every listed address is above `b`. -/
def memAbove (b : Nat) : Mem → Prop
  | [] => True
  | (k, _) :: _ => b < k

theorem memWf_cons (a : Nat) (b : Byte) (m : Mem) : memWf ((a, b) :: m) = true ↔ b ≠ 0 ∧ memAbove a m ∧ memWf m = true := by
  cases m with
  | nil => simp [memWf, memAbove]
  | cons p m =>
    obtain ⟨k, x⟩ := p
    simp only [memWf, memAbove, Bool.and_eq_true, decide_eq_true_eq]
    constructor
    · rintro ⟨⟨h1, h2⟩, h3⟩; exact ⟨h2, h1, h3⟩
    · rintro ⟨h2, h1, h3⟩; exact ⟨⟨h1, h2⟩, h3⟩

theorem memAbove_memWr (m : Mem) (c a : Nat) (b : Byte) (hw : memWf m = true) (h : memAbove c m) (hc : c < a) :
    memAbove c (memWr m a b) := by
  cases m with
  | nil => simp only [memWr]; split <;> simp [memAbove, hc]
  | cons p m =>
    obtain ⟨k, x⟩ := p
    rw [memWf_cons] at hw
    simp only [memAbove] at h
    simp only [memWr]
    split
    · split <;> simp [memAbove, h, hc]
    · split
      · split
        · cases m with
          | nil => simp [memAbove]
          | cons q m => obtain ⟨j, y⟩ := q; have := hw.2.1; simp only [memAbove] at this ⊢; omega
        · simp [memAbove, hc]
      · simp [memAbove, h]

/-- Writing a byte keeps the canonical form. -/
theorem memWr_wf (m : Mem) (a : Nat) (b : Byte) (h : memWf m = true) : memWf (memWr m a b) = true := by
  induction m with
  | nil => simp only [memWr]; split <;> simp_all [memWf]
  | cons p m ih =>
    obtain ⟨k, x⟩ := p
    have hw := h
    rw [memWf_cons] at h
    simp only [memWr]
    split
    · split
      · exact hw
      · rw [memWf_cons]; exact ⟨by assumption, by simpa [memAbove], hw⟩
    · split
      · rename_i h1 h2
        subst h2
        split
        · exact h.2.2
        · rw [memWf_cons]; exact ⟨by assumption, h.2.1, h.2.2⟩
      · rw [memWf_cons]
        exact ⟨h.1, memAbove_memWr m k a b h.2.2 h.2.1 (by omega), ih h.2.2⟩

theorem memWrite_wf (m : Mem) (a n v : Nat) (h : memWf m = true) : memWf (memWrite m a n v) = true := by
  induction n generalizing m a v with
  | zero => exact h
  | succ n ih => exact ih _ _ _ (memWr_wf m a _ h)

theorem memWriteBytes_wf (m : Mem) (a : Nat) (l : List Byte) (h : memWf m = true) :
    memWf (memWriteBytes m a l) = true := by
  induction l generalizing m a with
  | nil => exact h
  | cons b l ih => exact ih _ _ (memWr_wf m a b h)

theorem memSetLine_wf (m : Mem) (a : Nat) (l : Line) (h : memWf m = true) : memWf (memSetLine m a l) = true :=
  memWrite_wf m a 64 l.toNat h

theorem memAbove_filter (m : Mem) (c : Nat) (p : Nat × BitVec 8 → Bool) (hw : memWf m = true) (h : memAbove c m) :
    memAbove c (m.filter p) := by
  induction m with
  | nil => exact h
  | cons q m ih =>
    obtain ⟨k, x⟩ := q
    rw [memWf_cons] at hw
    simp only [memAbove] at h
    simp only [List.filter]
    split
    · exact h
    · refine ih hw.2.2 ?_
      cases m with
      | nil => trivial
      | cons r m => obtain ⟨j, y⟩ := r; have := hw.2.1; simp only [memAbove] at this ⊢; omega

/-- Unlisting bytes keeps the canonical form. -/
theorem memFilter_wf (m : Mem) (p : Nat × BitVec 8 → Bool) (h : memWf m = true) : memWf (m.filter p) = true := by
  induction m with
  | nil => exact h
  | cons q m ih =>
    obtain ⟨k, x⟩ := q
    rw [memWf_cons] at h
    simp only [List.filter]
    split
    · rw [memWf_cons]; exact ⟨h.1, memAbove_filter m k p h.2.2 h.2.1, ih h.2.2⟩
    · exact ih h.2.2

theorem memZero_wf (m : Mem) (lo n : Nat) (h : memWf m = true) : memWf (memZero m lo n) = true := memFilter_wf m _ h

theorem memFind_above (m : Mem) (c i : Nat) (hw : memWf m = true) (h : memAbove c m) (hi : i ≤ c) :
    tabFind m i = none := by
  induction m generalizing c with
  | nil => rfl
  | cons q m ih =>
    obtain ⟨k, x⟩ := q
    rw [memWf_cons] at hw
    simp only [memAbove] at h
    have : ¬ k = i := by omega
    simp only [tabFind, this, if_false]
    exact ih k hw.2.2 hw.2.1 (by omega)

/-- A byte written reads back. -/
theorem memRd_memWr_self (m : Mem) (a : Nat) (b : Byte) (h : memWf m = true) : memRd (memWr m a b) a = b := by
  induction m with
  | nil => simp only [memWr]; split <;> simp_all [memRd, tabGet, tabFind]
  | cons q m ih =>
    obtain ⟨k, x⟩ := q
    have hw := h
    rw [memWf_cons] at h
    simp only [memWr]
    split
    · split
      · rename_i h1 h2
        simp only [memRd, tabGet, memFind_above ((k, x) :: m) a a hw (by simpa [memAbove]) (Nat.le_refl a)]
        simp [h2]
      · simp [memRd, tabGet, tabFind]
    · split
      · rename_i h1 h2
        subst h2
        split
        · rename_i h3
          simp only [memRd, tabGet, memFind_above m a a h.2.2 h.2.1 (Nat.le_refl a)]
          simp [h3]
        · simp [memRd, tabGet, tabFind]
      · rename_i h1 h2
        have : ¬ k = a := fun e => h2 e.symm
        have := ih h.2.2
        simpa [memRd, tabGet, tabFind, ‹¬ k = a›] using this

/-- A byte write leaves every other byte. -/
theorem memRd_memWr_ne (m : Mem) (a i : Nat) (b : Byte) (hi : i ≠ a) : memRd (memWr m a b) i = memRd m i := by
  have hi' : ¬ a = i := fun e => hi e.symm
  induction m with
  | nil => simp only [memWr]; split <;> simp [memRd, tabGet, tabFind, hi']
  | cons q m ih =>
    obtain ⟨k, x⟩ := q
    simp only [memWr]
    split
    · split
      · rfl
      · simp [memRd, tabGet, tabFind, hi']
    · split
      · rename_i h1 h2
        subst h2
        split <;> simp [memRd, tabGet, tabFind, hi']
      · by_cases hk : k = i
        · simp [memRd, tabGet, tabFind, hk]
        · simpa [memRd, tabGet, tabFind, hk] using ih

end Sys2Proof.Machine
end

