-- ==== Sys2Proof/Laws/State.lean ====
section
/-! SUPPORT. The field lemmas of State: for each named update of a part, what every field is after it; and read after write of
each part. -/
namespace Sys2Proof.Machine

/-! ### setTile -/

@[simp] theorem setTile_pending (s : State) (i : Nat) (x : Tile) : (setTile s i x).pending = s.pending := rfl
@[simp] theorem setTile_free (s : State) (i : Nat) (x : Tile) : (setTile s i x).free = s.free := rfl
@[simp] theorem setTile_dev (s : State) (i : Nat) (x : Tile) : (setTile s i x).dev = s.dev := rfl
@[simp] theorem setTile_ticks (s : State) (i : Nat) (x : Tile) : (setTile s i x).ticks = s.ticks := rfl
@[simp] theorem setTile_periods (s : State) (i : Nat) (x : Tile) : (setTile s i x).periods = s.periods := rfl
@[simp] theorem setTile_hotPeriods (s : State) (i : Nat) (x : Tile) : (setTile s i x).hotPeriods = s.hotPeriods := rfl
@[simp] theorem setTile_mapPeriods (s : State) (i : Nat) (x : Tile) : (setTile s i x).mapPeriods = s.mapPeriods := rfl
@[simp] theorem setTile_tiles (s : State) (i : Nat) (x : Tile) : (setTile s i x).tiles = tabSet s.tiles i x := rfl
@[simp] theorem setTile_swaths (s : State) (i : Nat) (x : Tile) : (setTile s i x).swaths = s.swaths := rfl
@[simp] theorem setTile_leases (s : State) (i : Nat) (x : Tile) : (setTile s i x).leases = s.leases := rfl
@[simp] theorem setTile_saddles (s : State) (i : Nat) (x : Tile) : (setTile s i x).saddles = s.saddles := rfl
@[simp] theorem setTile_hbm (s : State) (i : Nat) (x : Tile) : (setTile s i x).hbm = s.hbm := rfl
@[simp] theorem setTile_hbmBad (s : State) (i : Nat) (x : Tile) : (setTile s i x).hbmBad = s.hbmBad := rfl
@[simp] theorem setTile_ring (s : State) (i : Nat) (x : Tile) : (setTile s i x).ring = s.ring := rfl
@[simp] theorem setTile_ringArb (s : State) (i : Nat) (x : Tile) : (setTile s i x).ringArb = s.ringArb := rfl
@[simp] theorem setTile_reports (s : State) (i : Nat) (x : Tile) : (setTile s i x).reports = s.reports := rfl
@[simp] theorem setTile_links (s : State) (i : Nat) (x : Tile) : (setTile s i x).links = s.links := rfl
@[simp] theorem setTile_spurs (s : State) (i : Nat) (x : Tile) : (setTile s i x).spurs = s.spurs := rfl
@[simp] theorem setTile_engine (s : State) (i : Nat) (x : Tile) : (setTile s i x).engine = s.engine := rfl
@[simp] theorem setTile_eth (s : State) (i : Nat) (x : Tile) : (setTile s i x).eth = s.eth := rfl
@[simp] theorem setTile_ctxs (s : State) (i : Nat) (x : Tile) : (setTile s i x).ctxs = s.ctxs := rfl
@[simp] theorem setTile_sheaves (s : State) (i : Nat) (x : Tile) : (setTile s i x).sheaves = s.sheaves := rfl
@[simp] theorem setTile_epochs (s : State) (i : Nat) (x : Tile) : (setTile s i x).epochs = s.epochs := rfl
@[simp] theorem setTile_spaced (s : State) (i : Nat) (x : Tile) : (setTile s i x).spaced = s.spaced := rfl
@[simp] theorem setTile_bslots (s : State) (i : Nat) (x : Tile) : (setTile s i x).bslots = s.bslots := rfl
@[simp] theorem setTile_upd (s : State) (i : Nat) (x : Tile) : (setTile s i x).upd = s.upd := rfl
@[simp] theorem setTile_chans (s : State) (i : Nat) (x : Tile) : (setTile s i x).chans = s.chans := rfl
@[simp] theorem setTile_agree (s : State) (i : Nat) (x : Tile) : (setTile s i x).agree = s.agree := rfl
@[simp] theorem setTile_takeNo (s : State) (i : Nat) (x : Tile) : (setTile s i x).takeNo = s.takeNo := rfl
@[simp] theorem setTile_pcie (s : State) (i : Nat) (x : Tile) : (setTile s i x).pcie = s.pcie := rfl
@[simp] theorem setTile_cairn (s : State) (i : Nat) (x : Tile) : (setTile s i x).cairn = s.cairn := rfl
@[simp] theorem setTile_fuses (s : State) (i : Nat) (x : Tile) : (setTile s i x).fuses = s.fuses := rfl
@[simp] theorem setTile_shadow (s : State) (i : Nat) (x : Tile) : (setTile s i x).shadow = s.shadow := rfl
@[simp] theorem setTile_flash0 (s : State) (i : Nat) (x : Tile) : (setTile s i x).flash0 = s.flash0 := rfl
@[simp] theorem setTile_flash1 (s : State) (i : Nat) (x : Tile) : (setTile s i x).flash1 = s.flash1 := rfl
@[simp] theorem setTile_straps (s : State) (i : Nat) (x : Tile) : (setTile s i x).straps = s.straps := rfl
@[simp] theorem setTile_faultLog (s : State) (i : Nat) (x : Tile) : (setTile s i x).faultLog = s.faultLog := rfl
@[simp] theorem setTile_eventLog (s : State) (i : Nat) (x : Tile) : (setTile s i x).eventLog = s.eventLog := rfl
@[simp] theorem setTile_notices (s : State) (i : Nat) (x : Tile) : (setTile s i x).notices = s.notices := rfl
@[simp] theorem setTile_module (s : State) (i : Nat) (x : Tile) : (setTile s i x).module = s.module := rfl
@[simp] theorem setTile_tlm (s : State) (i : Nat) (x : Tile) : (setTile s i x).tlm = s.tlm := rfl
@[simp] theorem setTile_msiOut (s : State) (i : Nat) (x : Tile) : (setTile s i x).msiOut = s.msiOut := rfl
@[simp] theorem setTile_mgmtOut (s : State) (i : Nat) (x : Tile) : (setTile s i x).mgmtOut = s.mgmtOut := rfl
@[simp] theorem setTile_cfgOut (s : State) (i : Nat) (x : Tile) : (setTile s i x).cfgOut = s.cfgOut := rfl
@[simp] theorem setTile_mgmtTags (s : State) (i : Nat) (x : Tile) : (setTile s i x).mgmtTags = s.mgmtTags := rfl
@[simp] theorem setTile_mgmtAddr (s : State) (i : Nat) (x : Tile) : (setTile s i x).mgmtAddr = s.mgmtAddr := rfl

/-! ### setSwath -/

@[simp] theorem setSwath_pending (s : State) (i : Nat) (x : Swath) : (setSwath s i x).pending = s.pending := rfl
@[simp] theorem setSwath_free (s : State) (i : Nat) (x : Swath) : (setSwath s i x).free = s.free := rfl
@[simp] theorem setSwath_dev (s : State) (i : Nat) (x : Swath) : (setSwath s i x).dev = s.dev := rfl
@[simp] theorem setSwath_ticks (s : State) (i : Nat) (x : Swath) : (setSwath s i x).ticks = s.ticks := rfl
@[simp] theorem setSwath_periods (s : State) (i : Nat) (x : Swath) : (setSwath s i x).periods = s.periods := rfl
@[simp] theorem setSwath_hotPeriods (s : State) (i : Nat) (x : Swath) : (setSwath s i x).hotPeriods = s.hotPeriods := rfl
@[simp] theorem setSwath_mapPeriods (s : State) (i : Nat) (x : Swath) : (setSwath s i x).mapPeriods = s.mapPeriods := rfl
@[simp] theorem setSwath_tiles (s : State) (i : Nat) (x : Swath) : (setSwath s i x).tiles = s.tiles := rfl
@[simp] theorem setSwath_swaths (s : State) (i : Nat) (x : Swath) : (setSwath s i x).swaths = tabSet s.swaths i x := rfl
@[simp] theorem setSwath_leases (s : State) (i : Nat) (x : Swath) : (setSwath s i x).leases = s.leases := rfl
@[simp] theorem setSwath_saddles (s : State) (i : Nat) (x : Swath) : (setSwath s i x).saddles = s.saddles := rfl
@[simp] theorem setSwath_hbm (s : State) (i : Nat) (x : Swath) : (setSwath s i x).hbm = s.hbm := rfl
@[simp] theorem setSwath_hbmBad (s : State) (i : Nat) (x : Swath) : (setSwath s i x).hbmBad = s.hbmBad := rfl
@[simp] theorem setSwath_ring (s : State) (i : Nat) (x : Swath) : (setSwath s i x).ring = s.ring := rfl
@[simp] theorem setSwath_ringArb (s : State) (i : Nat) (x : Swath) : (setSwath s i x).ringArb = s.ringArb := rfl
@[simp] theorem setSwath_reports (s : State) (i : Nat) (x : Swath) : (setSwath s i x).reports = s.reports := rfl
@[simp] theorem setSwath_links (s : State) (i : Nat) (x : Swath) : (setSwath s i x).links = s.links := rfl
@[simp] theorem setSwath_spurs (s : State) (i : Nat) (x : Swath) : (setSwath s i x).spurs = s.spurs := rfl
@[simp] theorem setSwath_engine (s : State) (i : Nat) (x : Swath) : (setSwath s i x).engine = s.engine := rfl
@[simp] theorem setSwath_eth (s : State) (i : Nat) (x : Swath) : (setSwath s i x).eth = s.eth := rfl
@[simp] theorem setSwath_ctxs (s : State) (i : Nat) (x : Swath) : (setSwath s i x).ctxs = s.ctxs := rfl
@[simp] theorem setSwath_sheaves (s : State) (i : Nat) (x : Swath) : (setSwath s i x).sheaves = s.sheaves := rfl
@[simp] theorem setSwath_epochs (s : State) (i : Nat) (x : Swath) : (setSwath s i x).epochs = s.epochs := rfl
@[simp] theorem setSwath_spaced (s : State) (i : Nat) (x : Swath) : (setSwath s i x).spaced = s.spaced := rfl
@[simp] theorem setSwath_bslots (s : State) (i : Nat) (x : Swath) : (setSwath s i x).bslots = s.bslots := rfl
@[simp] theorem setSwath_upd (s : State) (i : Nat) (x : Swath) : (setSwath s i x).upd = s.upd := rfl
@[simp] theorem setSwath_chans (s : State) (i : Nat) (x : Swath) : (setSwath s i x).chans = s.chans := rfl
@[simp] theorem setSwath_agree (s : State) (i : Nat) (x : Swath) : (setSwath s i x).agree = s.agree := rfl
@[simp] theorem setSwath_takeNo (s : State) (i : Nat) (x : Swath) : (setSwath s i x).takeNo = s.takeNo := rfl
@[simp] theorem setSwath_pcie (s : State) (i : Nat) (x : Swath) : (setSwath s i x).pcie = s.pcie := rfl
@[simp] theorem setSwath_cairn (s : State) (i : Nat) (x : Swath) : (setSwath s i x).cairn = s.cairn := rfl
@[simp] theorem setSwath_fuses (s : State) (i : Nat) (x : Swath) : (setSwath s i x).fuses = s.fuses := rfl
@[simp] theorem setSwath_shadow (s : State) (i : Nat) (x : Swath) : (setSwath s i x).shadow = s.shadow := rfl
@[simp] theorem setSwath_flash0 (s : State) (i : Nat) (x : Swath) : (setSwath s i x).flash0 = s.flash0 := rfl
@[simp] theorem setSwath_flash1 (s : State) (i : Nat) (x : Swath) : (setSwath s i x).flash1 = s.flash1 := rfl
@[simp] theorem setSwath_straps (s : State) (i : Nat) (x : Swath) : (setSwath s i x).straps = s.straps := rfl
@[simp] theorem setSwath_faultLog (s : State) (i : Nat) (x : Swath) : (setSwath s i x).faultLog = s.faultLog := rfl
@[simp] theorem setSwath_eventLog (s : State) (i : Nat) (x : Swath) : (setSwath s i x).eventLog = s.eventLog := rfl
@[simp] theorem setSwath_notices (s : State) (i : Nat) (x : Swath) : (setSwath s i x).notices = s.notices := rfl
@[simp] theorem setSwath_module (s : State) (i : Nat) (x : Swath) : (setSwath s i x).module = s.module := rfl
@[simp] theorem setSwath_tlm (s : State) (i : Nat) (x : Swath) : (setSwath s i x).tlm = s.tlm := rfl
@[simp] theorem setSwath_msiOut (s : State) (i : Nat) (x : Swath) : (setSwath s i x).msiOut = s.msiOut := rfl
@[simp] theorem setSwath_mgmtOut (s : State) (i : Nat) (x : Swath) : (setSwath s i x).mgmtOut = s.mgmtOut := rfl
@[simp] theorem setSwath_cfgOut (s : State) (i : Nat) (x : Swath) : (setSwath s i x).cfgOut = s.cfgOut := rfl
@[simp] theorem setSwath_mgmtTags (s : State) (i : Nat) (x : Swath) : (setSwath s i x).mgmtTags = s.mgmtTags := rfl
@[simp] theorem setSwath_mgmtAddr (s : State) (i : Nat) (x : Swath) : (setSwath s i x).mgmtAddr = s.mgmtAddr := rfl

/-! ### setSaddle -/

@[simp] theorem setSaddle_pending (s : State) (i : Nat) (x : Saddle) : (setSaddle s i x).pending = s.pending := rfl
@[simp] theorem setSaddle_free (s : State) (i : Nat) (x : Saddle) : (setSaddle s i x).free = s.free := rfl
@[simp] theorem setSaddle_dev (s : State) (i : Nat) (x : Saddle) : (setSaddle s i x).dev = s.dev := rfl
@[simp] theorem setSaddle_ticks (s : State) (i : Nat) (x : Saddle) : (setSaddle s i x).ticks = s.ticks := rfl
@[simp] theorem setSaddle_periods (s : State) (i : Nat) (x : Saddle) : (setSaddle s i x).periods = s.periods := rfl
@[simp] theorem setSaddle_hotPeriods (s : State) (i : Nat) (x : Saddle) : (setSaddle s i x).hotPeriods = s.hotPeriods := rfl
@[simp] theorem setSaddle_mapPeriods (s : State) (i : Nat) (x : Saddle) : (setSaddle s i x).mapPeriods = s.mapPeriods := rfl
@[simp] theorem setSaddle_tiles (s : State) (i : Nat) (x : Saddle) : (setSaddle s i x).tiles = s.tiles := rfl
@[simp] theorem setSaddle_swaths (s : State) (i : Nat) (x : Saddle) : (setSaddle s i x).swaths = s.swaths := rfl
@[simp] theorem setSaddle_leases (s : State) (i : Nat) (x : Saddle) : (setSaddle s i x).leases = s.leases := rfl
@[simp] theorem setSaddle_saddles (s : State) (i : Nat) (x : Saddle) : (setSaddle s i x).saddles = tabSet s.saddles i x := rfl
@[simp] theorem setSaddle_hbm (s : State) (i : Nat) (x : Saddle) : (setSaddle s i x).hbm = s.hbm := rfl
@[simp] theorem setSaddle_hbmBad (s : State) (i : Nat) (x : Saddle) : (setSaddle s i x).hbmBad = s.hbmBad := rfl
@[simp] theorem setSaddle_ring (s : State) (i : Nat) (x : Saddle) : (setSaddle s i x).ring = s.ring := rfl
@[simp] theorem setSaddle_ringArb (s : State) (i : Nat) (x : Saddle) : (setSaddle s i x).ringArb = s.ringArb := rfl
@[simp] theorem setSaddle_reports (s : State) (i : Nat) (x : Saddle) : (setSaddle s i x).reports = s.reports := rfl
@[simp] theorem setSaddle_links (s : State) (i : Nat) (x : Saddle) : (setSaddle s i x).links = s.links := rfl
@[simp] theorem setSaddle_spurs (s : State) (i : Nat) (x : Saddle) : (setSaddle s i x).spurs = s.spurs := rfl
@[simp] theorem setSaddle_engine (s : State) (i : Nat) (x : Saddle) : (setSaddle s i x).engine = s.engine := rfl
@[simp] theorem setSaddle_eth (s : State) (i : Nat) (x : Saddle) : (setSaddle s i x).eth = s.eth := rfl
@[simp] theorem setSaddle_ctxs (s : State) (i : Nat) (x : Saddle) : (setSaddle s i x).ctxs = s.ctxs := rfl
@[simp] theorem setSaddle_sheaves (s : State) (i : Nat) (x : Saddle) : (setSaddle s i x).sheaves = s.sheaves := rfl
@[simp] theorem setSaddle_epochs (s : State) (i : Nat) (x : Saddle) : (setSaddle s i x).epochs = s.epochs := rfl
@[simp] theorem setSaddle_spaced (s : State) (i : Nat) (x : Saddle) : (setSaddle s i x).spaced = s.spaced := rfl
@[simp] theorem setSaddle_bslots (s : State) (i : Nat) (x : Saddle) : (setSaddle s i x).bslots = s.bslots := rfl
@[simp] theorem setSaddle_upd (s : State) (i : Nat) (x : Saddle) : (setSaddle s i x).upd = s.upd := rfl
@[simp] theorem setSaddle_chans (s : State) (i : Nat) (x : Saddle) : (setSaddle s i x).chans = s.chans := rfl
@[simp] theorem setSaddle_agree (s : State) (i : Nat) (x : Saddle) : (setSaddle s i x).agree = s.agree := rfl
@[simp] theorem setSaddle_takeNo (s : State) (i : Nat) (x : Saddle) : (setSaddle s i x).takeNo = s.takeNo := rfl
@[simp] theorem setSaddle_pcie (s : State) (i : Nat) (x : Saddle) : (setSaddle s i x).pcie = s.pcie := rfl
@[simp] theorem setSaddle_cairn (s : State) (i : Nat) (x : Saddle) : (setSaddle s i x).cairn = s.cairn := rfl
@[simp] theorem setSaddle_fuses (s : State) (i : Nat) (x : Saddle) : (setSaddle s i x).fuses = s.fuses := rfl
@[simp] theorem setSaddle_shadow (s : State) (i : Nat) (x : Saddle) : (setSaddle s i x).shadow = s.shadow := rfl
@[simp] theorem setSaddle_flash0 (s : State) (i : Nat) (x : Saddle) : (setSaddle s i x).flash0 = s.flash0 := rfl
@[simp] theorem setSaddle_flash1 (s : State) (i : Nat) (x : Saddle) : (setSaddle s i x).flash1 = s.flash1 := rfl
@[simp] theorem setSaddle_straps (s : State) (i : Nat) (x : Saddle) : (setSaddle s i x).straps = s.straps := rfl
@[simp] theorem setSaddle_faultLog (s : State) (i : Nat) (x : Saddle) : (setSaddle s i x).faultLog = s.faultLog := rfl
@[simp] theorem setSaddle_eventLog (s : State) (i : Nat) (x : Saddle) : (setSaddle s i x).eventLog = s.eventLog := rfl
@[simp] theorem setSaddle_notices (s : State) (i : Nat) (x : Saddle) : (setSaddle s i x).notices = s.notices := rfl
@[simp] theorem setSaddle_module (s : State) (i : Nat) (x : Saddle) : (setSaddle s i x).module = s.module := rfl
@[simp] theorem setSaddle_tlm (s : State) (i : Nat) (x : Saddle) : (setSaddle s i x).tlm = s.tlm := rfl
@[simp] theorem setSaddle_msiOut (s : State) (i : Nat) (x : Saddle) : (setSaddle s i x).msiOut = s.msiOut := rfl
@[simp] theorem setSaddle_mgmtOut (s : State) (i : Nat) (x : Saddle) : (setSaddle s i x).mgmtOut = s.mgmtOut := rfl
@[simp] theorem setSaddle_cfgOut (s : State) (i : Nat) (x : Saddle) : (setSaddle s i x).cfgOut = s.cfgOut := rfl
@[simp] theorem setSaddle_mgmtTags (s : State) (i : Nat) (x : Saddle) : (setSaddle s i x).mgmtTags = s.mgmtTags := rfl
@[simp] theorem setSaddle_mgmtAddr (s : State) (i : Nat) (x : Saddle) : (setSaddle s i x).mgmtAddr = s.mgmtAddr := rfl

/-! ### setLink -/

@[simp] theorem setLink_pending (s : State) (i : Nat) (x : PortLink) : (setLink s i x).pending = s.pending := rfl
@[simp] theorem setLink_free (s : State) (i : Nat) (x : PortLink) : (setLink s i x).free = s.free := rfl
@[simp] theorem setLink_dev (s : State) (i : Nat) (x : PortLink) : (setLink s i x).dev = s.dev := rfl
@[simp] theorem setLink_ticks (s : State) (i : Nat) (x : PortLink) : (setLink s i x).ticks = s.ticks := rfl
@[simp] theorem setLink_periods (s : State) (i : Nat) (x : PortLink) : (setLink s i x).periods = s.periods := rfl
@[simp] theorem setLink_hotPeriods (s : State) (i : Nat) (x : PortLink) : (setLink s i x).hotPeriods = s.hotPeriods := rfl
@[simp] theorem setLink_mapPeriods (s : State) (i : Nat) (x : PortLink) : (setLink s i x).mapPeriods = s.mapPeriods := rfl
@[simp] theorem setLink_tiles (s : State) (i : Nat) (x : PortLink) : (setLink s i x).tiles = s.tiles := rfl
@[simp] theorem setLink_swaths (s : State) (i : Nat) (x : PortLink) : (setLink s i x).swaths = s.swaths := rfl
@[simp] theorem setLink_leases (s : State) (i : Nat) (x : PortLink) : (setLink s i x).leases = s.leases := rfl
@[simp] theorem setLink_saddles (s : State) (i : Nat) (x : PortLink) : (setLink s i x).saddles = s.saddles := rfl
@[simp] theorem setLink_hbm (s : State) (i : Nat) (x : PortLink) : (setLink s i x).hbm = s.hbm := rfl
@[simp] theorem setLink_hbmBad (s : State) (i : Nat) (x : PortLink) : (setLink s i x).hbmBad = s.hbmBad := rfl
@[simp] theorem setLink_ring (s : State) (i : Nat) (x : PortLink) : (setLink s i x).ring = s.ring := rfl
@[simp] theorem setLink_ringArb (s : State) (i : Nat) (x : PortLink) : (setLink s i x).ringArb = s.ringArb := rfl
@[simp] theorem setLink_reports (s : State) (i : Nat) (x : PortLink) : (setLink s i x).reports = s.reports := rfl
@[simp] theorem setLink_links (s : State) (i : Nat) (x : PortLink) : (setLink s i x).links = tabSet s.links i x := rfl
@[simp] theorem setLink_spurs (s : State) (i : Nat) (x : PortLink) : (setLink s i x).spurs = s.spurs := rfl
@[simp] theorem setLink_engine (s : State) (i : Nat) (x : PortLink) : (setLink s i x).engine = s.engine := rfl
@[simp] theorem setLink_eth (s : State) (i : Nat) (x : PortLink) : (setLink s i x).eth = s.eth := rfl
@[simp] theorem setLink_ctxs (s : State) (i : Nat) (x : PortLink) : (setLink s i x).ctxs = s.ctxs := rfl
@[simp] theorem setLink_sheaves (s : State) (i : Nat) (x : PortLink) : (setLink s i x).sheaves = s.sheaves := rfl
@[simp] theorem setLink_epochs (s : State) (i : Nat) (x : PortLink) : (setLink s i x).epochs = s.epochs := rfl
@[simp] theorem setLink_spaced (s : State) (i : Nat) (x : PortLink) : (setLink s i x).spaced = s.spaced := rfl
@[simp] theorem setLink_bslots (s : State) (i : Nat) (x : PortLink) : (setLink s i x).bslots = s.bslots := rfl
@[simp] theorem setLink_upd (s : State) (i : Nat) (x : PortLink) : (setLink s i x).upd = s.upd := rfl
@[simp] theorem setLink_chans (s : State) (i : Nat) (x : PortLink) : (setLink s i x).chans = s.chans := rfl
@[simp] theorem setLink_agree (s : State) (i : Nat) (x : PortLink) : (setLink s i x).agree = s.agree := rfl
@[simp] theorem setLink_takeNo (s : State) (i : Nat) (x : PortLink) : (setLink s i x).takeNo = s.takeNo := rfl
@[simp] theorem setLink_pcie (s : State) (i : Nat) (x : PortLink) : (setLink s i x).pcie = s.pcie := rfl
@[simp] theorem setLink_cairn (s : State) (i : Nat) (x : PortLink) : (setLink s i x).cairn = s.cairn := rfl
@[simp] theorem setLink_fuses (s : State) (i : Nat) (x : PortLink) : (setLink s i x).fuses = s.fuses := rfl
@[simp] theorem setLink_shadow (s : State) (i : Nat) (x : PortLink) : (setLink s i x).shadow = s.shadow := rfl
@[simp] theorem setLink_flash0 (s : State) (i : Nat) (x : PortLink) : (setLink s i x).flash0 = s.flash0 := rfl
@[simp] theorem setLink_flash1 (s : State) (i : Nat) (x : PortLink) : (setLink s i x).flash1 = s.flash1 := rfl
@[simp] theorem setLink_straps (s : State) (i : Nat) (x : PortLink) : (setLink s i x).straps = s.straps := rfl
@[simp] theorem setLink_faultLog (s : State) (i : Nat) (x : PortLink) : (setLink s i x).faultLog = s.faultLog := rfl
@[simp] theorem setLink_eventLog (s : State) (i : Nat) (x : PortLink) : (setLink s i x).eventLog = s.eventLog := rfl
@[simp] theorem setLink_notices (s : State) (i : Nat) (x : PortLink) : (setLink s i x).notices = s.notices := rfl
@[simp] theorem setLink_module (s : State) (i : Nat) (x : PortLink) : (setLink s i x).module = s.module := rfl
@[simp] theorem setLink_tlm (s : State) (i : Nat) (x : PortLink) : (setLink s i x).tlm = s.tlm := rfl
@[simp] theorem setLink_msiOut (s : State) (i : Nat) (x : PortLink) : (setLink s i x).msiOut = s.msiOut := rfl
@[simp] theorem setLink_mgmtOut (s : State) (i : Nat) (x : PortLink) : (setLink s i x).mgmtOut = s.mgmtOut := rfl
@[simp] theorem setLink_cfgOut (s : State) (i : Nat) (x : PortLink) : (setLink s i x).cfgOut = s.cfgOut := rfl
@[simp] theorem setLink_mgmtTags (s : State) (i : Nat) (x : PortLink) : (setLink s i x).mgmtTags = s.mgmtTags := rfl
@[simp] theorem setLink_mgmtAddr (s : State) (i : Nat) (x : PortLink) : (setLink s i x).mgmtAddr = s.mgmtAddr := rfl

/-! ### setChan -/

@[simp] theorem setChan_pending (s : State) (i : Nat) (x : Chan) : (setChan s i x).pending = s.pending := rfl
@[simp] theorem setChan_free (s : State) (i : Nat) (x : Chan) : (setChan s i x).free = s.free := rfl
@[simp] theorem setChan_dev (s : State) (i : Nat) (x : Chan) : (setChan s i x).dev = s.dev := rfl
@[simp] theorem setChan_ticks (s : State) (i : Nat) (x : Chan) : (setChan s i x).ticks = s.ticks := rfl
@[simp] theorem setChan_periods (s : State) (i : Nat) (x : Chan) : (setChan s i x).periods = s.periods := rfl
@[simp] theorem setChan_hotPeriods (s : State) (i : Nat) (x : Chan) : (setChan s i x).hotPeriods = s.hotPeriods := rfl
@[simp] theorem setChan_mapPeriods (s : State) (i : Nat) (x : Chan) : (setChan s i x).mapPeriods = s.mapPeriods := rfl
@[simp] theorem setChan_tiles (s : State) (i : Nat) (x : Chan) : (setChan s i x).tiles = s.tiles := rfl
@[simp] theorem setChan_swaths (s : State) (i : Nat) (x : Chan) : (setChan s i x).swaths = s.swaths := rfl
@[simp] theorem setChan_leases (s : State) (i : Nat) (x : Chan) : (setChan s i x).leases = s.leases := rfl
@[simp] theorem setChan_saddles (s : State) (i : Nat) (x : Chan) : (setChan s i x).saddles = s.saddles := rfl
@[simp] theorem setChan_hbm (s : State) (i : Nat) (x : Chan) : (setChan s i x).hbm = s.hbm := rfl
@[simp] theorem setChan_hbmBad (s : State) (i : Nat) (x : Chan) : (setChan s i x).hbmBad = s.hbmBad := rfl
@[simp] theorem setChan_ring (s : State) (i : Nat) (x : Chan) : (setChan s i x).ring = s.ring := rfl
@[simp] theorem setChan_ringArb (s : State) (i : Nat) (x : Chan) : (setChan s i x).ringArb = s.ringArb := rfl
@[simp] theorem setChan_reports (s : State) (i : Nat) (x : Chan) : (setChan s i x).reports = s.reports := rfl
@[simp] theorem setChan_links (s : State) (i : Nat) (x : Chan) : (setChan s i x).links = s.links := rfl
@[simp] theorem setChan_spurs (s : State) (i : Nat) (x : Chan) : (setChan s i x).spurs = s.spurs := rfl
@[simp] theorem setChan_engine (s : State) (i : Nat) (x : Chan) : (setChan s i x).engine = s.engine := rfl
@[simp] theorem setChan_eth (s : State) (i : Nat) (x : Chan) : (setChan s i x).eth = s.eth := rfl
@[simp] theorem setChan_ctxs (s : State) (i : Nat) (x : Chan) : (setChan s i x).ctxs = s.ctxs := rfl
@[simp] theorem setChan_sheaves (s : State) (i : Nat) (x : Chan) : (setChan s i x).sheaves = s.sheaves := rfl
@[simp] theorem setChan_epochs (s : State) (i : Nat) (x : Chan) : (setChan s i x).epochs = s.epochs := rfl
@[simp] theorem setChan_spaced (s : State) (i : Nat) (x : Chan) : (setChan s i x).spaced = s.spaced := rfl
@[simp] theorem setChan_bslots (s : State) (i : Nat) (x : Chan) : (setChan s i x).bslots = s.bslots := rfl
@[simp] theorem setChan_upd (s : State) (i : Nat) (x : Chan) : (setChan s i x).upd = s.upd := rfl
@[simp] theorem setChan_chans (s : State) (i : Nat) (x : Chan) : (setChan s i x).chans = tabSet s.chans i x := rfl
@[simp] theorem setChan_agree (s : State) (i : Nat) (x : Chan) : (setChan s i x).agree = s.agree := rfl
@[simp] theorem setChan_takeNo (s : State) (i : Nat) (x : Chan) : (setChan s i x).takeNo = s.takeNo := rfl
@[simp] theorem setChan_pcie (s : State) (i : Nat) (x : Chan) : (setChan s i x).pcie = s.pcie := rfl
@[simp] theorem setChan_cairn (s : State) (i : Nat) (x : Chan) : (setChan s i x).cairn = s.cairn := rfl
@[simp] theorem setChan_fuses (s : State) (i : Nat) (x : Chan) : (setChan s i x).fuses = s.fuses := rfl
@[simp] theorem setChan_shadow (s : State) (i : Nat) (x : Chan) : (setChan s i x).shadow = s.shadow := rfl
@[simp] theorem setChan_flash0 (s : State) (i : Nat) (x : Chan) : (setChan s i x).flash0 = s.flash0 := rfl
@[simp] theorem setChan_flash1 (s : State) (i : Nat) (x : Chan) : (setChan s i x).flash1 = s.flash1 := rfl
@[simp] theorem setChan_straps (s : State) (i : Nat) (x : Chan) : (setChan s i x).straps = s.straps := rfl
@[simp] theorem setChan_faultLog (s : State) (i : Nat) (x : Chan) : (setChan s i x).faultLog = s.faultLog := rfl
@[simp] theorem setChan_eventLog (s : State) (i : Nat) (x : Chan) : (setChan s i x).eventLog = s.eventLog := rfl
@[simp] theorem setChan_notices (s : State) (i : Nat) (x : Chan) : (setChan s i x).notices = s.notices := rfl
@[simp] theorem setChan_module (s : State) (i : Nat) (x : Chan) : (setChan s i x).module = s.module := rfl
@[simp] theorem setChan_tlm (s : State) (i : Nat) (x : Chan) : (setChan s i x).tlm = s.tlm := rfl
@[simp] theorem setChan_msiOut (s : State) (i : Nat) (x : Chan) : (setChan s i x).msiOut = s.msiOut := rfl
@[simp] theorem setChan_mgmtOut (s : State) (i : Nat) (x : Chan) : (setChan s i x).mgmtOut = s.mgmtOut := rfl
@[simp] theorem setChan_cfgOut (s : State) (i : Nat) (x : Chan) : (setChan s i x).cfgOut = s.cfgOut := rfl
@[simp] theorem setChan_mgmtTags (s : State) (i : Nat) (x : Chan) : (setChan s i x).mgmtTags = s.mgmtTags := rfl
@[simp] theorem setChan_mgmtAddr (s : State) (i : Nat) (x : Chan) : (setChan s i x).mgmtAddr = s.mgmtAddr := rfl

/-! ### setCtx -/

@[simp] theorem setCtx_pending (s : State) (c : BitVec 8) (x : Ctx) : (setCtx s c x).pending = s.pending := rfl
@[simp] theorem setCtx_free (s : State) (c : BitVec 8) (x : Ctx) : (setCtx s c x).free = s.free := rfl
@[simp] theorem setCtx_dev (s : State) (c : BitVec 8) (x : Ctx) : (setCtx s c x).dev = s.dev := rfl
@[simp] theorem setCtx_ticks (s : State) (c : BitVec 8) (x : Ctx) : (setCtx s c x).ticks = s.ticks := rfl
@[simp] theorem setCtx_periods (s : State) (c : BitVec 8) (x : Ctx) : (setCtx s c x).periods = s.periods := rfl
@[simp] theorem setCtx_hotPeriods (s : State) (c : BitVec 8) (x : Ctx) : (setCtx s c x).hotPeriods = s.hotPeriods := rfl
@[simp] theorem setCtx_mapPeriods (s : State) (c : BitVec 8) (x : Ctx) : (setCtx s c x).mapPeriods = s.mapPeriods := rfl
@[simp] theorem setCtx_tiles (s : State) (c : BitVec 8) (x : Ctx) : (setCtx s c x).tiles = s.tiles := rfl
@[simp] theorem setCtx_swaths (s : State) (c : BitVec 8) (x : Ctx) : (setCtx s c x).swaths = s.swaths := rfl
@[simp] theorem setCtx_leases (s : State) (c : BitVec 8) (x : Ctx) : (setCtx s c x).leases = s.leases := rfl
@[simp] theorem setCtx_saddles (s : State) (c : BitVec 8) (x : Ctx) : (setCtx s c x).saddles = s.saddles := rfl
@[simp] theorem setCtx_hbm (s : State) (c : BitVec 8) (x : Ctx) : (setCtx s c x).hbm = s.hbm := rfl
@[simp] theorem setCtx_hbmBad (s : State) (c : BitVec 8) (x : Ctx) : (setCtx s c x).hbmBad = s.hbmBad := rfl
@[simp] theorem setCtx_ring (s : State) (c : BitVec 8) (x : Ctx) : (setCtx s c x).ring = s.ring := rfl
@[simp] theorem setCtx_ringArb (s : State) (c : BitVec 8) (x : Ctx) : (setCtx s c x).ringArb = s.ringArb := rfl
@[simp] theorem setCtx_reports (s : State) (c : BitVec 8) (x : Ctx) : (setCtx s c x).reports = s.reports := rfl
@[simp] theorem setCtx_links (s : State) (c : BitVec 8) (x : Ctx) : (setCtx s c x).links = s.links := rfl
@[simp] theorem setCtx_spurs (s : State) (c : BitVec 8) (x : Ctx) : (setCtx s c x).spurs = s.spurs := rfl
@[simp] theorem setCtx_engine (s : State) (c : BitVec 8) (x : Ctx) : (setCtx s c x).engine = s.engine := rfl
@[simp] theorem setCtx_eth (s : State) (c : BitVec 8) (x : Ctx) : (setCtx s c x).eth = s.eth := rfl
@[simp] theorem setCtx_ctxs (s : State) (c : BitVec 8) (x : Ctx) : (setCtx s c x).ctxs = tabSet s.ctxs c.toNat x := rfl
@[simp] theorem setCtx_sheaves (s : State) (c : BitVec 8) (x : Ctx) : (setCtx s c x).sheaves = s.sheaves := rfl
@[simp] theorem setCtx_epochs (s : State) (c : BitVec 8) (x : Ctx) : (setCtx s c x).epochs = s.epochs := rfl
@[simp] theorem setCtx_spaced (s : State) (c : BitVec 8) (x : Ctx) : (setCtx s c x).spaced = s.spaced := rfl
@[simp] theorem setCtx_bslots (s : State) (c : BitVec 8) (x : Ctx) : (setCtx s c x).bslots = s.bslots := rfl
@[simp] theorem setCtx_upd (s : State) (c : BitVec 8) (x : Ctx) : (setCtx s c x).upd = s.upd := rfl
@[simp] theorem setCtx_chans (s : State) (c : BitVec 8) (x : Ctx) : (setCtx s c x).chans = s.chans := rfl
@[simp] theorem setCtx_agree (s : State) (c : BitVec 8) (x : Ctx) : (setCtx s c x).agree = s.agree := rfl
@[simp] theorem setCtx_takeNo (s : State) (c : BitVec 8) (x : Ctx) : (setCtx s c x).takeNo = s.takeNo := rfl
@[simp] theorem setCtx_pcie (s : State) (c : BitVec 8) (x : Ctx) : (setCtx s c x).pcie = s.pcie := rfl
@[simp] theorem setCtx_cairn (s : State) (c : BitVec 8) (x : Ctx) : (setCtx s c x).cairn = s.cairn := rfl
@[simp] theorem setCtx_fuses (s : State) (c : BitVec 8) (x : Ctx) : (setCtx s c x).fuses = s.fuses := rfl
@[simp] theorem setCtx_shadow (s : State) (c : BitVec 8) (x : Ctx) : (setCtx s c x).shadow = s.shadow := rfl
@[simp] theorem setCtx_flash0 (s : State) (c : BitVec 8) (x : Ctx) : (setCtx s c x).flash0 = s.flash0 := rfl
@[simp] theorem setCtx_flash1 (s : State) (c : BitVec 8) (x : Ctx) : (setCtx s c x).flash1 = s.flash1 := rfl
@[simp] theorem setCtx_straps (s : State) (c : BitVec 8) (x : Ctx) : (setCtx s c x).straps = s.straps := rfl
@[simp] theorem setCtx_faultLog (s : State) (c : BitVec 8) (x : Ctx) : (setCtx s c x).faultLog = s.faultLog := rfl
@[simp] theorem setCtx_eventLog (s : State) (c : BitVec 8) (x : Ctx) : (setCtx s c x).eventLog = s.eventLog := rfl
@[simp] theorem setCtx_notices (s : State) (c : BitVec 8) (x : Ctx) : (setCtx s c x).notices = s.notices := rfl
@[simp] theorem setCtx_module (s : State) (c : BitVec 8) (x : Ctx) : (setCtx s c x).module = s.module := rfl
@[simp] theorem setCtx_tlm (s : State) (c : BitVec 8) (x : Ctx) : (setCtx s c x).tlm = s.tlm := rfl
@[simp] theorem setCtx_msiOut (s : State) (c : BitVec 8) (x : Ctx) : (setCtx s c x).msiOut = s.msiOut := rfl
@[simp] theorem setCtx_mgmtOut (s : State) (c : BitVec 8) (x : Ctx) : (setCtx s c x).mgmtOut = s.mgmtOut := rfl
@[simp] theorem setCtx_cfgOut (s : State) (c : BitVec 8) (x : Ctx) : (setCtx s c x).cfgOut = s.cfgOut := rfl
@[simp] theorem setCtx_mgmtTags (s : State) (c : BitVec 8) (x : Ctx) : (setCtx s c x).mgmtTags = s.mgmtTags := rfl
@[simp] theorem setCtx_mgmtAddr (s : State) (c : BitVec 8) (x : Ctx) : (setCtx s c x).mgmtAddr = s.mgmtAddr := rfl

/-! ### Read after write -/

@[simp] theorem tileOf_setTile_self (s : State) (i : Nat) (x : Tile) : tileOf (setTile s i x) i = x := by simp [tileOf]
theorem tileOf_setTile_ne (s : State) (i j : Nat) (x : Tile) (h : i ≠ j) : tileOf (setTile s i x) j = tileOf s j := by
  simp [tileOf, tabGet_tabSet_ne _ _ _ _ _ h]
@[simp] theorem tileOf_setSwath (s : State) (i : Nat) (x : Swath) (j : Nat) : tileOf (setSwath s i x) j = tileOf s j := rfl
@[simp] theorem tileOf_setSaddle (s : State) (i : Nat) (x : Saddle) (j : Nat) : tileOf (setSaddle s i x) j = tileOf s j := rfl
@[simp] theorem tileOf_setLink (s : State) (i : Nat) (x : PortLink) (j : Nat) : tileOf (setLink s i x) j = tileOf s j := rfl
@[simp] theorem tileOf_setChan (s : State) (i : Nat) (x : Chan) (j : Nat) : tileOf (setChan s i x) j = tileOf s j := rfl
@[simp] theorem tileOf_setCtx (s : State) (c : BitVec 8) (x : Ctx) (j : Nat) : tileOf (setCtx s c x) j = tileOf s j := rfl
@[simp] theorem swathOf_setSwath_self (s : State) (i : Nat) (x : Swath) : swathOf (setSwath s i x) i = x := by simp [swathOf]
theorem swathOf_setSwath_ne (s : State) (i j : Nat) (x : Swath) (h : i ≠ j) : swathOf (setSwath s i x) j = swathOf s j := by
  simp [swathOf, tabGet_tabSet_ne _ _ _ _ _ h]
@[simp] theorem swathOf_setTile (s : State) (i : Nat) (x : Tile) (j : Nat) : swathOf (setTile s i x) j = swathOf s j := rfl
@[simp] theorem swathOf_setSaddle (s : State) (i : Nat) (x : Saddle) (j : Nat) : swathOf (setSaddle s i x) j = swathOf s j := rfl
@[simp] theorem swathOf_setLink (s : State) (i : Nat) (x : PortLink) (j : Nat) : swathOf (setLink s i x) j = swathOf s j := rfl
@[simp] theorem swathOf_setChan (s : State) (i : Nat) (x : Chan) (j : Nat) : swathOf (setChan s i x) j = swathOf s j := rfl
@[simp] theorem swathOf_setCtx (s : State) (c : BitVec 8) (x : Ctx) (j : Nat) : swathOf (setCtx s c x) j = swathOf s j := rfl
@[simp] theorem saddleOf_setSaddle_self (s : State) (i : Nat) (x : Saddle) : saddleOf (setSaddle s i x) i = x := by simp [saddleOf]
theorem saddleOf_setSaddle_ne (s : State) (i j : Nat) (x : Saddle) (h : i ≠ j) : saddleOf (setSaddle s i x) j = saddleOf s j := by
  simp [saddleOf, tabGet_tabSet_ne _ _ _ _ _ h]
@[simp] theorem saddleOf_setTile (s : State) (i : Nat) (x : Tile) (j : Nat) : saddleOf (setTile s i x) j = saddleOf s j := rfl
@[simp] theorem saddleOf_setSwath (s : State) (i : Nat) (x : Swath) (j : Nat) : saddleOf (setSwath s i x) j = saddleOf s j := rfl
@[simp] theorem saddleOf_setLink (s : State) (i : Nat) (x : PortLink) (j : Nat) : saddleOf (setLink s i x) j = saddleOf s j := rfl
@[simp] theorem saddleOf_setChan (s : State) (i : Nat) (x : Chan) (j : Nat) : saddleOf (setChan s i x) j = saddleOf s j := rfl
@[simp] theorem saddleOf_setCtx (s : State) (c : BitVec 8) (x : Ctx) (j : Nat) : saddleOf (setCtx s c x) j = saddleOf s j := rfl
@[simp] theorem linkOf_setLink_self (s : State) (i : Nat) (x : PortLink) : linkOf (setLink s i x) i = x := by simp [linkOf]
theorem linkOf_setLink_ne (s : State) (i j : Nat) (x : PortLink) (h : i ≠ j) : linkOf (setLink s i x) j = linkOf s j := by
  simp [linkOf, tabGet_tabSet_ne _ _ _ _ _ h]
@[simp] theorem linkOf_setTile (s : State) (i : Nat) (x : Tile) (j : Nat) : linkOf (setTile s i x) j = linkOf s j := rfl
@[simp] theorem linkOf_setSwath (s : State) (i : Nat) (x : Swath) (j : Nat) : linkOf (setSwath s i x) j = linkOf s j := rfl
@[simp] theorem linkOf_setSaddle (s : State) (i : Nat) (x : Saddle) (j : Nat) : linkOf (setSaddle s i x) j = linkOf s j := rfl
@[simp] theorem linkOf_setChan (s : State) (i : Nat) (x : Chan) (j : Nat) : linkOf (setChan s i x) j = linkOf s j := rfl
@[simp] theorem linkOf_setCtx (s : State) (c : BitVec 8) (x : Ctx) (j : Nat) : linkOf (setCtx s c x) j = linkOf s j := rfl
@[simp] theorem chanOf_setChan_self (s : State) (i : Nat) (x : Chan) : chanOf (setChan s i x) i = x := by simp [chanOf]
theorem chanOf_setChan_ne (s : State) (i j : Nat) (x : Chan) (h : i ≠ j) : chanOf (setChan s i x) j = chanOf s j := by
  simp [chanOf, tabGet_tabSet_ne _ _ _ _ _ h]
@[simp] theorem chanOf_setTile (s : State) (i : Nat) (x : Tile) (j : Nat) : chanOf (setTile s i x) j = chanOf s j := rfl
@[simp] theorem chanOf_setSwath (s : State) (i : Nat) (x : Swath) (j : Nat) : chanOf (setSwath s i x) j = chanOf s j := rfl
@[simp] theorem chanOf_setSaddle (s : State) (i : Nat) (x : Saddle) (j : Nat) : chanOf (setSaddle s i x) j = chanOf s j := rfl
@[simp] theorem chanOf_setLink (s : State) (i : Nat) (x : PortLink) (j : Nat) : chanOf (setLink s i x) j = chanOf s j := rfl
@[simp] theorem chanOf_setCtx (s : State) (c : BitVec 8) (x : Ctx) (j : Nat) : chanOf (setCtx s c x) j = chanOf s j := rfl
@[simp] theorem ctxOf_setCtx_self (s : State) (c : BitVec 8) (x : Ctx) : ctxOf (setCtx s c x) c = some x := by
  simp [ctxOf, tabFind_tabSet_self]
theorem ctxOf_setCtx_ne (s : State) (c d : BitVec 8) (x : Ctx) (h : c ≠ d) : ctxOf (setCtx s c x) d = ctxOf s d := by
  have : c.toNat ≠ d.toNat := fun e => h (BitVec.eq_of_toNat_eq e)
  simp [ctxOf, tabFind_tabSet_ne _ _ _ _ this]
@[simp] theorem ctxOf_setTile (s : State) (i : Nat) (x : Tile) (c : BitVec 8) : ctxOf (setTile s i x) c = ctxOf s c := rfl
@[simp] theorem ctxOf_setSwath (s : State) (i : Nat) (x : Swath) (c : BitVec 8) : ctxOf (setSwath s i x) c = ctxOf s c := rfl
@[simp] theorem ctxOf_setSaddle (s : State) (i : Nat) (x : Saddle) (c : BitVec 8) : ctxOf (setSaddle s i x) c = ctxOf s c := rfl
@[simp] theorem ctxOf_setLink (s : State) (i : Nat) (x : PortLink) (c : BitVec 8) : ctxOf (setLink s i x) c = ctxOf s c := rfl
@[simp] theorem ctxOf_setChan (s : State) (i : Nat) (x : Chan) (c : BitVec 8) : ctxOf (setChan s i x) c = ctxOf s c := rfl

end Sys2Proof.Machine
end

