-- ==== Sys2Proof/Laws/Tile.lean ====
section
/-! SUPPORT. What the shared operations of the tile instructions can do: issue, the effect of one tile, and the registers. -/
namespace Sys2Proof.Machine

/-- Issue where nothing hinders it: the instruction's own effect. -/
theorem issueWith_ok {unit : Nat} {sregs : Nat → Slot → Tile → List Nat} {bad : Slot → Tile → Option Nat}
    {eff : Nat → Slot → Tile → Tile} {t : Tile} {k : Nat} {sl : Slot} (h : issuer t = some (k, sl))
    (hf : fetchTrap t sl t.pc.toNat = none) (hr : regsFree t (sregs k sl t) = true) (hb : bad sl t = none) :
    issueWith unit sregs bad eff t = eff k sl t := by
  simp [issueWith, h, hf, hr, hb]

/-- Issue of an instruction whose checks fail: its first failing check's trap (R92, R93). -/
theorem issueWith_trap {unit : Nat} {sregs : Nat → Slot → Tile → List Nat} {bad : Slot → Tile → Option Nat}
    {eff : Nat → Slot → Tile → Tile} {t : Tile} {k c : Nat} {sl : Slot} (h : issuer t = some (k, sl))
    (hf : fetchTrap t sl t.pc.toNat = none) (hr : regsFree t (sregs k sl t) = true) (hb : bad sl t = some c) :
    issueWith unit sregs bad eff t = trapRun k c unit t := by
  simp [issueWith, h, hf, hr, hb]

/-- A tile that cannot issue is unchanged. -/
theorem issueWith_idle {unit : Nat} {sregs : Nat → Slot → Tile → List Nat} {bad : Slot → Tile → Option Nat}
    {eff : Nat → Slot → Tile → Tile} {t : Tile} (h : issuer t = none) : issueWith unit sregs bad eff t = t := by
  simp [issueWith, h]

theorem regsFree_iff {t : Tile} {l : List Nat} : regsFree t l = true ↔ ∀ r ∈ l, r ∉ pendingS t := by
  simp [regsFree, List.all_eq_true]

theorem onTile_up {s : State} {i : Nat} {f : Env → Tile → Tile} (h : tileUp s i = true) :
    onTile s i f = putTile s i (f (envOf s i) (tileOf s i)) := by simp [onTile, h]

theorem onTile_down {s : State} {i : Nat} {f : Env → Tile → Tile} (h : tileUp s i = false) : onTile s i f = s := by
  simp [onTile, h]

theorem putTile_quiet {s : State} {i : Nat} {t : Tile} (h : t.evq = []) : putTile s i t = setTile s i t := by
  simp only [putTile, h, List.foldl_nil]
  congr 1
  cases t; simp_all

/-- A scalar register write, as a word. -/
theorem sSet_eq (t : Tile) (i : Nat) (v : W32) : sSet t i v.toNat = { t with s := tabPut t.s i 0 v } := by
  simp [sSet]

theorem aSet_eq (t : Tile) (i : Nat) (v : Addr) : aSet t i v.toNat = { t with a := tabPut t.a i 0 v } := by
  simp [aSet]

theorem regNo_s {k : BitVec 6} (h : k.toNat < 32) : regNo k = k.toNat := by simp [regNo, h]
theorem regNo_a {k : BitVec 6} (h : 32 ≤ k.toNat) : regNo k = k.toNat % 16 := by
  have : ¬ k.toNat < 32 := by omega
  simp [regNo, this]
theorem isS_of {k : BitVec 6} (h : k.toNat < 32) : isS k = true := by simp [isS, h]
theorem isA_of {k : BitVec 6} (h : 32 ≤ k.toNat) (h' : k.toNat < 48) : isA k = true := by simp [isA, h, h']

theorem bitOf_toNat {w : Nat} (v : BitVec w) (i : Nat) : bitOf v.toNat i = v.getLsbD i := by
  simp only [bitOf, BitVec.getLsbD, Nat.testBit, Nat.shiftRight_eq_div_pow, Nat.one_and_eq_mod_two]
  rcases Nat.mod_two_eq_zero_or_one (v.toNat / 2 ^ i) with h | h <;> simp [h]

end Sys2Proof.Machine
end

