-- ==== Sys2Proof/Tests/Slice0.lean ====
section
/-! SUPPORT. The model's own tests: small states, the refusals of WellFormed, and for each statement with hypotheses a state and
operands that meet them. -/
namespace Sys2Proof.Tests
open Sys2Proof.Machine Sys2Proof.Claim

set_option Elab.async false

/-- The module with main power up. -/
def upModule : Module := { Module.init with pgMain := true, rst := false, phase := .up, mainEn := true }
def upState : State := { State.reset with module := upModule }

/-- A task of context 1 whose window covers the first eight banks. -/
def task1 : TaskDesc :=
  { graph := 0, task := 0, subNo := 0, step := 0, ctx := 1, sec := false, queue := 0, tid := 5, entry := 0, args := [], bases := []
    wins := [⟨0, 0x20000, true, true, true⟩], tokens := 0, wdog := 24, prom := 0, ordered := false, edges := [], silent := false, repass := false }
def slot1 : Slot :=
  { st := .running, task := task1, counter := 0, save := none, loadNo := 0, owed := 0, hbmOwed := 0, seqs := [], promo := none
    recorded := [], trap := none, cancelled := false, ord := 0 }
/-- A tile of a sheaf of 8 by 8 tiles at the origin, running that task. -/
def tile1 : Tile :=
  { tileInit 0 with
    running := some 0, slots := [(0, slot1)], prevCtx := some 1, pri := some ⟨1, 0, 7⟩, inSheaf := true, dimW := 8, dimH := 8
    sramOwn := (List.range 8).map (fun b => (b, 1)), pc := 64, loads := 1
    s := [(1, 7), (2, 0xFFFFFFFE), (3, 2)], a := [(1, 0x1000), (2, 0x100000002000), (3, 0x300000000000), (4, 0x4000)]
    sram := [(0x1004, 1), (0x1007, 0x80)] }
def runState : State := setTile upState 0 tile1

/-- Context 1: eight slabs of stack 0, opened by the PF, with nothing loaded. -/
def ctx1 : Ctx := Ctx.fresh .pf 0 65 1 8 7 [(0, List.range 8)]
def saddle0 : Saddle := { Saddle.init with owner := (List.range 8).map (fun n => (n, 1)) }
/-- The module with context 1 open. -/
def ctxState : State := setSaddle (setCtx upState 1 ctx1) 0 saddle0
/-- A packet of context 1 from tile (7, 2). -/
def pkt1 : Pkt :=
  { rk := 0, add := false, tok := false, hop := 0, epoch := 0, psn := false, cls := 9, seq := 0, fmt := 0, tid := 9, ctx := 1, span := 0
    slot := 5, rsv := 0, line := 64, dstY := 0, dstX := 3, srcY := 2, srcX := 7, data := 0x1234, body := .line }

/-- A plan of one rank with one bucket of one block, whose range names layer 4, tensor 9 and optimiser group 0. -/
def plan1 : Plan :=
  { rsg := 1, dlexp := 12, wfmt0 := 0xA, sched := 0, tx := 0, bsize := 4, window := 2, nlayv := 0, myRank := 0, firstStep := 10
    expOff := 0x20000000, ranks := [⟨5, 0⟩], buckets := [⟨0, 1, 0, false, 0, 0, 1, 0, 1, 0, 0, 0, 0, 0⟩], covs := []
    ranges := [⟨0, 9, 0, 4, 2, 0, 0x20001000, 0x20002000, 0x20003000, 0x20004000, 0x20005000⟩], convs := [], digest := 0, kernel := [], stores := [] }
/-- Context 1 with that plan, one graph of one task and one submission of two instances from step 10. -/
def task2 : GTask :=
  { tile := 0, queue := 0, stepArg := false, tid := 5, tokens := 0, entry := 0, args := [], bases := [], wins := [], edges := [], anchors := []
    producers := [], reads := [] }
def graph1 : Graph :=
  { handle := 3, sheaf := 0, ordq := 0, prom := 0, wdog := 0, hwin := 0, tasks := [task2], code := [], codeAt := 0, dataAt := 0, data := []
    hbmAt := 0, hbmLen := 0, relocs := [], entries := [], granules := [], stream := [], layers := [] }
def sub1 : Submission :=
  { no := 1, sheaf := 0, graph := 3, first := 10, count := 2, notify := false, onTiles := true, done := 0, retired := [], cancelling := false
    finished := false, cancelled := false }
def ctx2 : Ctx :=
  { ctx1 with graphs := [graph1], subs := [sub1], layers := [4], win := { WinnowCtx.init with plan := some plan1, versions := [(0, 9)] } }


/-! ### Well-formedness: one command outside each check's range, and one at its edge. -/

theorem test_wf_tile : Instr.wf (.taskSelect 65535) = true ∧ Instr.wf (.taskSelect 65536) = false := by decide
theorem test_wf_register : Instr.wf (.cycleLoRead 0 31) = true ∧ Instr.wf (.cycleLoRead 0 32) = false := by decide
theorem test_wf_slot : Instr.wf (.ackSend 0 63) = true ∧ Instr.wf (.ackSend 0 64) = false := by decide
theorem test_wf_priority : Instr.wf (.token 0 2) = true ∧ Instr.wf (.token 0 3) = false := by decide
theorem test_wf_frequency : Instr.wf (.frequencyChange 65535 40) = true ∧ Instr.wf (.frequencyChange 65536 10) = false := by decide
theorem test_wf_mesh_port : Instr.wf (.meshFlitHop 0 8 [19]) = true ∧ Instr.wf (.meshFlitHop 0 9 []) = false ∧ Instr.wf (.meshFlitHop 0 0 [20]) = false := by decide
theorem test_wf_port : Instr.wf (.linkTrained 63) = true ∧ Instr.wf (.linkTrained 64) = false := by decide
theorem test_wf_saddle : Instr.wf (.bucketLanding 23) = true ∧ Instr.wf (.bucketLanding 24) = false ∧ Instr.wf (.saddleReadRequest 0 8) = false := by decide
theorem test_wf_spur : Instr.wf (.spurAttach 7) = true ∧ Instr.wf (.spurAttach 8) = false := by decide
theorem test_wf_channel : Instr.wf (.hello 327) = true ∧ Instr.wf (.hello 328) = false := by decide
theorem test_wf_steward : Instr.wf (.stewardWake 3) = true ∧ Instr.wf (.stewardWake 4) = false := by decide
theorem test_wf_function : Instr.wf (.configurationRequest ⟨62, .revision⟩) = true ∧ Instr.wf (.configurationRequest ⟨63, .revision⟩) = false ∧ Instr.wf (.vfFlr 0) = false := by decide
theorem test_wf_vector : Instr.wf (.msixUnmask 0 ⟨127, false⟩) = true ∧ Instr.wf (.msixUnmask 0 ⟨128, false⟩) = false ∧ Instr.wf (.msixUnmask 1 ⟨8, false⟩) = false := by decide
theorem test_wf_cage : Instr.wf (.osfpRemove 7) = true ∧ Instr.wf (.osfpRemove 8) = false := by decide
theorem test_wf_window : Instr.wf (.bar2Write (2 ^ 28 - 1) [0] false) = true ∧ Instr.wf (.bar2Write (2 ^ 28) [0] false) = false ∧ Instr.wf (.bar2Write 0 [] false) = false := by decide
theorem test_wf_sheaf : Instr.wf (.fieldTestStart 255) = true ∧ Instr.wf (.fieldTestStart 256) = false := by decide
theorem test_wf_core : Instr.wf (.cairnSramUe 4) = true ∧ Instr.wf (.cairnSramUe 5) = false := by decide
theorem test_wf_die : Instr.wf (.dieHot 95 0) = true ∧ Instr.wf (.dieHot 96 0) = false := by decide
theorem test_wf_trip : Instr.wf (.thermalTrip 5 0 0) = true ∧ Instr.wf (.thermalTrip 6 0 0) = false := by decide
theorem test_wf_loop : Instr.wf (.loopPeriod ⟨0, [63], []⟩) = true ∧ Instr.wf (.loopPeriod ⟨0, [], [64]⟩) = false := by decide
theorem test_wf_management : Instr.wf (.mgmtUdpRequest 1 0xFFFF 0 0) = true ∧ Instr.wf (.mgmtUdpRequest 1 0x10000 0 0) = false := by decide
theorem test_wf_lost : Instr.wf (.waferMappingComplete [191, 0]) = true ∧ Instr.wf (.waferMappingComplete [0, 192]) = false := by decide

/-- A tile instruction of tile 0 from plain numbers. -/
def ins (rd rs1 rs2 imm : Nat) : TInsn := ⟨0, BitVec.ofNat 6 rd, BitVec.ofNat 6 rs1, BitVec.ofNat 6 rs2, BitVec.ofNat 34 imm⟩
/-- The state after a command, for tests. -/
def nx (a : Host.Outcome State Fault Refusal) : State := match a with
  | .next s => s
  | _ => State.reset
/-- Main power up, with one tile. -/
def tileAt0 (t : Tile) : State := setTile upState 0 t

/-! ### Tile instructions -/

theorem witness_issues : Issues runState 0 0 slot1 :=
  ⟨by decide +kernel, by decide +kernel, by decide +kernel, by decide +kernel, by decide +kernel⟩

/-- One word of each group, its fields written out from R82 and R83: ADD s1, s2, s3; BR s4 back by one; STS; AINC a15; ACCRD to a2; VCVT
v3, v5; MCAST; FENCE; and a word of no group and one past the end of a group. -/
theorem test_words :
    decodeWord 7 0x0000420C00000000 = some (.add ⟨7, 1, 2, 3, 0⟩) ∧
    decodeWord 7 0x04000400000FFFFF = some (.br ⟨7, 0, 4, 0, 0xFFFFF⟩) ∧
    decodeWord 7 0x0810210800000040 = some (.sts ⟨7, 0, 33, 2, 0x40⟩) ∧
    decodeWord 7 0x0C1BC00000000008 = some (.ainc ⟨7, 47, 0, 0, 8⟩) ∧
    decodeWord 7 0x2028800020000000 = some (.accrd ⟨7, 34, 0, 0, 0x20000000⟩) ∧
    decodeWord 7 0x24ACF50002000000 = some (.vcvt ⟨7, 51, 53, 0, 0x2000000⟩) ∧
    decodeWord 7 0x4038A10C00000000 = some (.mcast ⟨7, 34, 33, 3, 0⟩) ∧ decodeWord 7 0x6020000000000002 = some (.fence ⟨7, 0, 0, 0, 2⟩) ∧
    decodeWord 7 0x00C0000000000000 = none ∧ assigned 0x00C0000000000000 = false ∧ assigned 0xFC00000000000000 = false := by decide +kernel

/-- The state with the word of an instruction at the PC of its tile. -/
def holding (s : State) (c : TInsn → Instr) (o : TInsn) : State :=
  setTile s o.tile { tileOf s o.tile with sram := memWrite (tileOf s o.tile).sram (tileOf s o.tile).pc.toNat 8 ((encodeInsn (c o)).getD 0).toNat }

/-- What `Issues` and `Spells` ask, to be decided. -/
abbrev ReadyFor (s : State) (c : TInsn → Instr) (o : TInsn) : Prop :=
  (tileUp s o.tile = true ∧ issuer (tileOf s o.tile) = some (0, slot1) ∧ fetchTrap (tileOf s o.tile) slot1 (tileOf s o.tile).pc.toNat = none ∧
    (tileOf s o.tile).pc.toNat / 8 ∉ (tileOf s o.tile).soft ∧ (tileOf s o.tile).pc.toNat / 8 ∉ (tileOf s o.tile).poison) ∧
  encodeInsn (c o) = some (wordAtPc (tileOf s o.tile))
theorem ready_meets {s : State} {c : TInsn → Instr} {o : TInsn} (h : ReadyFor s c o) : Issues s o.tile 0 slot1 ∧ Spells s o c :=
  ⟨⟨h.1.1, h.1.2.1, h.1.2.2.1, h.1.2.2.2.1, h.1.2.2.2.2⟩, h.2⟩
/-- Beside the bytes of SRAM, the tile is what it was: the other witnesses of an instruction hold there as they stand for `runState`. -/
theorem holding_tile (s : State) (c : TInsn → Instr) (o : TInsn) :
    ∃ m, tileOf (holding s c o) o.tile = { tileOf s o.tile with sram := m } := ⟨_, tileOf_setTile_self _ _ _⟩

/-- Every instruction that a tile issues, with its word at the PC. -/
theorem witness_words : ∀ p ∈ ([(.add, ins 0 31 31 0), (.sub, ins 31 0 0 (2 ^ 33 + 2 ^ 32 - 1)), (.and, ins 0 31 31 0), (.or, ins 0 31 31 0),
      (.xor, ins 0 31 31 0), (.shl, ins 0 31 31 0), (.shr, ins 0 31 31 0), (.sra, ins 0 31 31 0), (.mul, ins 0 31 31 0), (.cmp, ins 31 0 1 5),
      (.li, ins 47 0 0 (2 ^ 32 - 1)), (.lui, ins 47 0 0 (2 ^ 16 - 1)), (.br, ins 0 1 0 (2 ^ 33 + 2 ^ 20 - 8)), (.j, ins 0 31 0 (2 ^ 32)),
      (.call, ins 0 0 0 0x3FF7), (.ret, ins 0 0 0 0), (.lds, ins 5 33 0 (2 ^ 18 - 0x1000)), (.sts, ins 0 33 2 0x1EFFC), (.csrr, ins 31 0 0 0x021),
      (.csrw, ins 0 1 0 0x020), (.agen, ins 47 32 31 0), (.ainc, ins 47 0 0 (44 * 2 ^ 28))] : List ((TInsn → Instr) × TInsn)),
    ReadyFor (holding runState p.1 p.2) p.1 p.2 := by decide +kernel
theorem witness_unit_words : ∀ p ∈ ([(.mma, ins 0 33 36 (3 * 2 ^ 27 + 3 * 2 ^ 23)), (.accz, ins 0 0 0 0), (.accrd, ins 33 0 0 0), (.accwr, ins 0 33 0 (2 * 2 ^ 27)),
      (.accsw, ins 0 0 0 0), (.vld, ins 49 33 0 64), (.vst, ins 0 33 49 (2 ^ 33 + 0x1EFC0)), (.vaddF32, ins 48 63 63 0), (.vmulF32, ins 48 63 63 1),
      (.vfmaF32, ins 48 63 63 3), (.vmax, ins 48 63 63 1), (.vexp, ins 48 63 0 0), (.vrcp, ins 48 63 0 0), (.vrsq, ins 48 63 0 0), (.vderiv, ins 48 63 63 3),
      (.vcvt, ins 48 63 0 (2 * 2 ^ 30)), (.vred, ins 31 63 0 2), (.viaddW, ins 48 63 63 (2 ^ 8 - 2)), (.vstat, ins 48 63 0 (2 ^ 9 - 28)), (.cpy, ins 36 33 3 (4 * 2 ^ 30 + 9)),
      (.send, ins 34 33 3 (9 * 2 ^ 30)), (.mcast, ins 34 33 3 (9 * 2 ^ 30)), (.recv, ins 33 0 3 9), (.swread, ins 33 35 3 (5 * 2 ^ 30 + 9)), (.waitt, ins 0 1 0 9),
      (.post, ins 34 0 0 (2 ^ 28 + 7)), (.fence, ins 0 0 0 2), (.tend, ins 0 0 0 0), (.yield, ins 0 0 0 0)] : List ((TInsn → Instr) × TInsn)),
    ReadyFor (holding runState p.1 p.2) p.1 p.2 := by decide +kernel

/-- A PC off a multiple of 8, one past the window, one in a bank of no owner; and a word of no group. -/
theorem witness_fetch_checks : (Instr.add ∈ majorOps 0 ∧ Instr.vstat ∈ majorOps 9 ∧ (majorOps 9)[13]? = some .vstat) ∧
    (∀ t ∈ [{ tile1 with pc := 68 }, { tile1 with pc := 0x20000 }, { tile1 with sramOwn := [] }, { tile1 with sram := [(71, 0xFC)] }],
      tileUp (tileAt0 t) 0 = true ∧ issuer t = some (0, slot1) ∧
        (t.pc.toNat % 8 ≠ 0 ∨ inWindow slot1.task.wins .x t.pc.toNat 8 = false ∨ banksOwned t false [⟨t.pc.toNat, 8⟩] = false ∨
          (fetchTrap t slot1 t.pc.toNat = none ∧ assigned (wordAtPc t) = false))) := by
  refine ⟨⟨by simp [majorOps], by simp [majorOps], rfl⟩, by decide +kernel⟩

theorem witness_scalar_arithmetic : (AluForm (ins 0 31 31 0) ∧ Landed runState 0 [0, 31] ∧ Landed runState 0 [31]) ∧
    AluForm (ins 31 0 0 (2 ^ 33 + 2 ^ 32 - 1)) := by
  unfold AluForm Landed; decide +kernel

theorem witness_compare_load_immediate : Landed runState 0 [31, 0, 1] ∧ Landed runState 0 [31] ∧
    (ins 31 0 0 (2 ^ 32 - 1)).imm.toNat < 2 ^ 32 ∧ (ins 47 0 0 (2 ^ 16 - 1)).imm.toNat < 2 ^ 16 ∧ 32 ≤ (ins 32 0 0 0).rd.toNat ∧
    (ins 47 0 0 0).rd.toNat < 48 := by
  unfold Landed; decide +kernel

/-- BR taken and not taken, J both ways, CALL and RET: targets 0 and the last word of the window. -/
theorem witness_branches :
    (let o := ins 0 1 0 (2 ^ 33 + 2 ^ 20 - 8); bits o.imm.toNat 32 20 = 0 ∧ Landed runState 0 [1] ∧ LegalTarget slot1 (relative o tile1) ∧
      ((tabGet tile1.s 1 0 != 0) == o.imm.getLsbD 33) = true) ∧
    ((tabGet tile1.s 0 0 != 0) == (ins 0 0 0 (2 ^ 33)).imm.getLsbD 33) = false ∧ LegalTarget slot1 0x1FFF8 ∧
    LegalTarget slot1 (relative (ins 0 0 0 (0x3FF7)) tile1) ∧ LegalTarget slot1 ((tabGet tile1.s 31 0).setWidth 18) ∧ Landed runState 0 [31] := by
  unfold LegalTarget Landed; decide +kernel

theorem witness_branch_traps : ¬ LegalTarget slot1 (relative (ins 0 0 0 0x3FF8) tile1) ∧ tabGet tile1.s 0 0 = 0 ∧ Landed runState 0 [0] ∧
    ¬ LegalTarget slot1 ((tabGet ([(31, 4)] : Tab W32) 31 0).setWidth 18) := by
  unfold LegalTarget Landed; decide +kernel

/-- The lowest and the highest word of the window, for a load and for a store. -/
theorem witness_load_store_word :
    (WordOk tile1 slot1 (ins 5 33 0 (2 ^ 18 - 0x1000)) .r ∧ wordOffset (ins 5 33 0 (2 ^ 18 - 0x1000)) tile1 = 0 ∧
      CleanWord tile1 0 ∧ ∀ p ∈ pendingOps tile1, conflicts [⟨0, 4⟩] [] p = false) ∧
    (WordOk tile1 slot1 (ins 0 33 2 0x1EFFC) .w ∧ wordOffset (ins 0 33 2 0x1EFFC) tile1 = 0x1FFFC ∧ CleanWord tile1 0x1FFFC ∧
      ∀ p ∈ pendingOps tile1, conflicts [] [⟨0x1FFFC, 4⟩] p = false) := by
  unfold WordOk CleanWord; decide +kernel

theorem witness_csr_reads : Landed runState 0 [31] ∧ arrayIdle (tileOf runState 0) = true ∧ (ins 31 0 0 0x021).rd.toNat < 32 := by
  unfold Landed; decide +kernel

/-- CSRW with the array idle and with an MMA queued, and ACCSTAT_ACCESS of a waiting read and write. -/
theorem witness_csr_writes : Landed runState 0 [1] ∧ arrayIdle tile1 = true ∧
    (let t := { tile1 with arrQ := [⟨0, 48, 0, 0, false, 1, 0, .accsw, [], [], 0, [], 0⟩] };
      arrayIdle t = false ∧ issuer t = some (0, slot1) ∧ fetchTrap t slot1 t.pc.toNat = none) ∧
    (∀ x ∈ [Stall.accRead 5, Stall.accWrite 0xF0], let t := { tile1 with stall := some x };
      tileUp (tileAt0 t) 0 = true ∧ arrayIdle (tileOf (tileAt0 t) 0) = true ∧ (tileOf (tileAt0 t) 0).stall = some x) := by
  unfold Landed; decide +kernel

/-- AINC without wrap, and with the widest ring. -/
theorem witness_address_arithmetic : Landed runState 0 [31] ∧ 32 ≤ (ins 47 32 31 0).rd.toNat ∧
    (∀ w ∈ [0, 44], let o := ins 47 0 0 (w * 2 ^ 28); (o.imm.extractLsb' 28 6).toNat ≤ 44 ∧ o.imm.extractLsb' 24 4 = 0) := by
  unfold Landed; decide +kernel

/-- MMA without and with row order, ACCRD and ACCWR of an FP32 bank. -/
theorem witness_array_issue : tile1.arrQ.length < 4 ∧ Entries tile1 2 ∧
    (∀ im ∈ [3 * 2 ^ 27 + 3 * 2 ^ 23, 2 ^ 32 + 4 * 2 ^ 27 + 7 * 2 ^ 23 + 2 ^ 16], let o := ins 0 33 36 im
      bits im 14 0 = 0 ∧ bits im 15 15 = 0 ∧ 1 ≤ bits im 30 27 ∧ 1 ≤ bits im 26 23 ∧ (bits im 32 32 = 1 → bits im 30 27 ≤ 4) ∧
      chkLocal slot1.task.wins .r (aReg tile1 o.rs1) (if bits im 32 32 = 1 then 4096 else 64)
        (operandLines (bits im 32 32 == 1) (bits im 30 27) (32 * (bits im 22 16 + 1))) = none ∧
      chkLocal slot1.task.wins .r (aReg tile1 o.rs2) 64 (operandLines false (bits im 26 23) (32 * (bits im 22 16 + 1))) = none) ∧
    chkLocal slot1.task.wins .w (aReg tile1 33) 64 (accLines 0) = none ∧ chkLocal slot1.task.wins .r (aReg tile1 33) 64 (accLines 2) = none := by
  unfold Entries; decide +kernel

theorem witness_vector_issue : tile1.vecQ.length < 8 ∧ Entries tile1 0 ∧ IsV 48 ∧ IsV 63 ∧ Landed runState 0 [31] ∧
    Landed runState 0 [bits (2 ^ 8 - 2) 7 3] ∧ bits (2 ^ 8 - 2) 1 0 ≠ 3 ∧ bits (2 ^ 9 - 28) 3 0 ≤ 4 ∧
    bits (2 * 2 ^ 30 + 3 * 2 ^ 24 + 2 ^ 21) 25 24 ≠ 2 ∧ bits (2 * 2 ^ 30 + 3 * 2 ^ 24 + 2 ^ 21) 23 21 ≤ 1 := by
  unfold Entries IsV Landed; decide +kernel

theorem witness_vector_load_store_issue : Entries tile1 1 ∧ IsA 32 ∧ IsA 47 ∧
    chkLocal slot1.task.wins .r (effAddr (ins 49 33 0 64) tile1) 64 1 = none ∧
    chkLocal slot1.task.wins .w (effAddr (ins 0 33 49 (2 ^ 33 + 0x1EFC0)) tile1) 64 1 = none := by
  unfold Entries IsA; decide +kernel

/-- CPY, SEND and MCAST of two lines, RECV, and SWREAD of two lines of a view leased to the context. -/
theorem witness_copy_issue : tile1.cpyQ.length < 16 ∧ Entries tile1 1 ∧ IsA 36 ∧ Landed runState 0 [3] ∧ bits (4 * 2 ^ 30 + 9) 33 30 = 4 ∧
    cpyAddr (envOf runState 0) slot1 (aReg tile1 33) (aReg tile1 36) 2 = none ∧
    (∀ q ∈ [(0, false), (7, true)], sendAddr slot1 tile1 (aReg tile1 33) (aReg tile1 34) 2 q.1 q.2 = none) ∧
    chkLocal slot1.task.wins .w (aReg tile1 33) 64 2 = none := by
  unfold Entries IsA Landed; decide +kernel
theorem witness_swread_issue : let s := setTile { ctxState with leases := [(0, 1)] } 0 tile1; let o := ins 33 35 3 (5 * 2 ^ 30 + 9);
    ReadyFor (holding s .swread o) .swread o ∧ spaceOf (aReg tile1 35) = 3 ∧ chkStream (envOf (holding s .swread o) 0) 1 9 (aReg tile1 35) 2 = none ∧
      (∀ r ∈ swFootprint 2 5 false 0 0, chkLocal slot1.task.wins .w (aReg tile1 33 + r.1) 64 r.2 = none) ∧ 2 % (0 + 1) = 0 ∧ 0 + 2 / (0 + 1) ≤ 64 ∧
      ((32 * 2) % (1 + 1) = 0 ∧ 32 * 2 / (1 + 1) = 32) := by decide +kernel

/-- A view leased to the context: one block of the first line of a granule, whose scale line is the granule's 33rd, and the last segment of 64 blocks. -/
theorem witness_swread_view : ∀ p ∈ [(0, 1), (2 ^ 20 - 2112, 64)],
    chkStream (envOf (setTile { ctxState with leases := [(0, 1)] } 0 tile1) 0) 1 9 (3 * 2 ^ 44 + p.1) p.2 = none := by decide +kernel

/-! ### Waits, fences, posts; tasks and units -/

/-- A tile with a receive counter of 7 for TID 9. -/
def rxTile : Tile := { tile1 with rx := [⟨1, 9, 7, true, true, false⟩, ⟨2, 3, 0, false, false, false⟩] }

/-- A WAITT whose count is just there (7 of 7), one that wants 8, one of 0 and one of 7 on a TID with no counter, one on an overflowed
counter. -/
theorem witness_waitt : Landed (tileAt0 rxTile) 0 [1] ∧ rxTile.recvs = [] ∧
    rxFind rxTile 1 (stepTid 9 0) = some ⟨1, 9, 7, true, true, false⟩ ∧ (tabGet rxTile.s 1 0).toNat % 65536 = 7 ∧
    (let t := { rxTile with s := [(1, 8)] }; issuer t = some (0, slot1) ∧ (tabGet t.s 1 0).toNat % 65536 = 8) ∧
    rxFind rxTile 1 (stepTid 10 0) = none ∧ rxTile.rx.length < 8 ∧ (tabGet rxTile.s 0 0).toNat % 65536 = 0 ∧
    (let t := { tile1 with rx := [⟨1, 9, 65535, false, false, true⟩] }; rxFind t 1 (stepTid 9 0) = some ⟨1, 9, 65535, false, false, true⟩) := by
  unfold Landed; decide +kernel

theorem witness_wait_events : ∀ n ∈ [7, 8],
    (let t := { rxTile with stall := some (.waitt 9 n true 64) }; tileUp (tileAt0 t) 0 = true ∧ t.running = some 0 ∧
      tabFind t.slots 0 = some slot1 ∧ (rxFind t 1 9).map (·.count) = some 7) ∧
    (let t := { rxTile with recvs := [⟨⟨0, 48, 0, 0, false, 1, 0, .recv 0 n 9, [], [⟨0, 64 * n⟩], 1, [], 0⟩, n, 9, true⟩] };
      tileUp (tileAt0 t) 0 = true ∧ t.stall = none ∧ (rxFind t 1 9).map (·.count) = some 7) := by decide +kernel

/-- A FENCE of mode 2 with nothing open and with one line to HBM open, and the end of its stall. -/
theorem witness_fence : (∀ p ∈ inUnits tile1, ¬ (p.slot = 0 ∧ p.load = slot1.loadNo)) ∧ slot1.owed = 0 ∧ slot1.hbmOwed = 0 ∧
    (let t := { tile1 with slots := [(0, { slot1 with hbmOwed := 1 })] }; issuer t = some (0, { slot1 with hbmOwed := 1 })) ∧
    (let t := { tile1 with stall := some (.fence 2 64) }; tileUp (tileAt0 t) 0 = true ∧ t.running = some 0 ∧
      tabFind t.slots 0 = some slot1 ∧ ∀ p ∈ inUnits t, ¬ (p.slot = 0 ∧ p.load = slot1.loadNo)) := by decide +kernel

theorem witness_post : IsA 34 ∧ chkSheaf tile1 (aReg tile1 34) 0 false = none ∧
    (∀ im ∈ [2 ^ 33 + 2 ^ 28 + 7, 2 ^ 20 - 1], bits im 33 32 ≠ 3 ∧ bits im 31 29 = 0 ∧ bits im 27 20 = 0) := by
  unfold IsA; decide +kernel

/-- A Ready slot of a fresh task of the context that ran before. -/
def freshSlot : Slot := { slot1 with st := .ready, task := { task1 with args := [1, 2, 3, 0, 5, 6, 7, 8], bases := [1, 2, 3, 4], entry := 0x40 } }

theorem witness_end_yield_select : Landed runState 0 (List.range 8) ∧ slot1.cancelled = false ∧
    (let t := { tile1 with running := none, slots := [(63, freshSlot)] }; tileUp (tileAt0 t) 0 = true ∧ t.power = .run ∧
      pickSlot t = some (63, freshSlot) ∧ pendingS t = [] ∧ t.prevCtx = some freshSlot.task.ctx ∧ freshSlot.task.args.length = 8 ∧
      freshSlot.task.bases.length = 4) := by
  unfold Landed; decide +kernel

/-- Slots of both roles and every queue, with the selected one. -/
theorem witness_selection_order :
    let sl (q : Nat) (sec : Bool) (n : Nat) : Slot := { freshSlot with loadNo := n, task := { task1 with queue := q, sec := sec } }
    let t := { tile1 with slots := [(0, sl 2 false 0), (1, sl 1 true 1), (2, sl 3 false 2), (3, sl 0 false 5), (4, sl 0 false 4)] }
    (∀ p ∈ t.slots, p.2.promo = none ∧ p.2.task.queue < 4) ∧ pickSlot t = some (4, sl 0 false 4) := by decide +kernel

theorem witness_trap : tabFind tile1.slots 0 = some slot1 ∧ (∀ p ∈ tile1.slots, p.1 = 0 → p.2 = slot1) ∧ slot1.st ≠ .faulted := by decide +kernel

/-- A unit instruction of slot 0. -/
def opOf (k : UKind) (rds wrs : List Rng) : UOp := ⟨0, 48, 0, 0, false, 1, 0, k, rds, wrs, rds.length + wrs.length, [], 0⟩

/-- A VLD of the last owned bank's last line and one of the next bank; ACCZ; an MMA on a bank owned and not owned. -/
theorem witness_unit_starts :
    (∀ a ∈ [0x1FFC0, 0x20000], let op := opOf (.vld 1 false 1 1 a) [⟨a, 64⟩] [];
      let t := { tile1 with vecQ := [op] };
      tileUp (tileAt0 t) 0 = true ∧ t.vec = none ∧ rangesClear t op = true ∧ banksOwned t op.sec (op.rds ++ op.wrs) = decide (a < 0x20000)) ∧
    (let op := opOf (.accz false false) [] []; let t := { tile1 with arrQ := [op] };
      t.prod = none ∧ t.port = none ∧ rangesClear t op = true ∧ t.accA.own = 0) ∧
    (let op := opOf (.mma false false false 3 3 32 false 63 0 0x4000) [⟨0, 64⟩, ⟨0x4000, 64⟩] [];
      let t := { tile1 with arrQ := [op], accA := { tile1.accA with own := roleTag false } };
      rangesClear t op = true ∧ t.accA.own = roleTag op.sec ∧ banksOwned t op.sec (op.rds ++ op.wrs) = true ∧
        ({ t with accA := tile1.accA }).accA.own ≠ roleTag op.sec) := by decide +kernel

theorem witness_unit_completions : ∀ k ∈ [UKind.vadd 3 1 2 1, .vmul 15 0 2 0, .vfma 3 3 3 3, .vred 31 15 2, .vld 3 false 1 1 0x1000, .vst 1 false 0],
    let t := { tile1 with vec := some (opOf k [] []) };
    tileUp (tileAt0 t) 0 = true ∧ t.pendLoad = none ∧ t.soft = [] ∧ t.poison = [] ∧ (tileOf (tileAt0 t) 0).vec = some (opOf k [] []) := by
  decide +kernel

theorem witness_bank_completions :
    (let t := { tile1 with port := some (opOf (.accz false false) [] []) }; (tileOf (tileAt0 t) 0).port.isSome = true ∧ t.pendLoad = none) ∧
    (let t := { tile1 with prod := some (opOf .accsw [] []) }; (tileOf (tileAt0 t) 0).prod.isSome = true ∧ t.pendLoad = none) := by decide +kernel

/-- Sheaf 0 of context 1: the 8 by 8 tiles at the origin. -/
def sheaf0 : Sheaf := ⟨1, 0, 0, 8, 8, false, [], none, 0, none, none, none, []⟩
/-- The tile in that sheaf, whose context has a graph of one Q1 task and a submission of two instances from step 10. -/
def loadState (early : List (BitVec 8 × BitVec 20)) : State :=
  setTile { setCtx ctxState 1 { ctx2 with graphs := [{ graph1 with tasks := [{ task2 with queue := 1 }] }] } with sheaves := [(0, sheaf0)] } 0
    { tile1 with running := none, slots := [], early := early }

/-- DISPATCHER_LOAD's clause, beside an early token of another TID. -/
theorem witness_dispatcher_load : let s := loadState [(1, 77)]; let t := tileOf s 0;
    tileUp s 0 = true ∧ t.power = .run ∧ (2#8).getLsbD 1 = true ∧ slotAvail t 1 false = true ∧ roleOf t false = some ⟨1, 0, 7⟩ ∧
      (match queueHead s 0 1 false with
       | some (.head h) => t.early.all (fun p => !(p.1 == 1 && p.2 == stepTid h.task.tid (instStep h.sub h.inst)))
       | _ => false) = true := by decide +kernel

/-- The other clauses: a drained slot, a Ready primary Q2 slot, a running secondary task whose run limit is counted, and the lowest and a
high DVFS point. -/
theorem witness_dispatcher_events :
    (let t := { tile1 with running := none, slots := [(63, { slot1 with st := .draining })] }; tileUp (tileAt0 t) 0 = true ∧
      (tabFind t.slots 63).map (fun x => (x.st, x.task.silent, x.task.edges.length, x.trap)) = some (.draining, false, 0, none) ∧
      (∀ p ∈ inUnits t, ¬ (p.slot = 63 ∧ p.load = slot1.loadNo)) ∧ (∀ w ∈ t.recvs, w.op.slot ≠ 63)) ∧
    (let sl := { freshSlot with task := { task1 with queue := 2, prom := 10 } }; let t := { tile1 with slots := [(0, slot1), (1, sl)] };
      tileUp (tileAt0 t) 0 = true ∧ tabFind t.slots 1 = some sl ∧ sl.st = .ready ∧ sl.task.prom ≠ 0 ∧ sl.promo = none) ∧
    (let sl := { slot1 with task := { task1 with sec := true } }; let t := { tile1 with slots := [(0, sl)], runLim := true };
      tileUp (tileAt0 t) 0 = true ∧ t.running = some 0 ∧ t.pendLoad = none ∧ tabFind t.slots 0 = some sl ∧ sl.task.sec = true ∧ t.runLim = true) ∧
    (tile1.power = .run ∧ (10 : Nat) ≤ 10 ∧ (10 : Nat) ≤ 40) := by decide +kernel

/-! ### Fabric, memory path, swath -/

/-- A table with one entry holds the default elsewhere. -/
theorem tabGet_one {α : Type} (k i : Nat) (v d : α) (h : i ≠ k) : tabGet [(k, v)] i d = d := by
  simp [tabGet, tabFind, Ne.symm h]

/-- A packet at the local input of tile 0 on VC 2, and a message at its east input, for tiles to the east: both leave by port 1. -/
def hopTile : Tile :=
  { tile1 with mesh := { tile1.mesh with inq := [(4 * 4 + 2, [pkt1])] }
               awn := { tile1.awn with inq := [(3 * 3 + 1, [⟨3, 0, 0, 1, 5, 1, 7, false, .token⟩])] } }

theorem witness_network_hops : routerUp (tileAt0 hopTile) 0 = true ∧ neighbour (gridW (tileAt0 hopTile)) 0 1 = some 1 ∧
    pkt1.cls < 16 ∧ pkt1.rk = 0 ∧ unicastPort 0 0 pkt1.dstX pkt1.dstY 4 = 1 ∧ meshRoom (tileAt0 hopTile) 0 1 2 = true ∧
    awnRoom (tileAt0 hopTile) 0 1 1 = true ∧ tabGet hopTile.meshSrc (16 + 2) [] = [] ∧ awnReserved .token = false := by decide +kernel
theorem witness_network_queues (k : Nat) (h : k ≠ 4 * 4 + 2) : tabGet hopTile.mesh.inq k [] = [] := tabGet_one _ _ _ _ h

/-- A packet that arrives at tile 0 from (3, 0), after three hops. -/
def pktIn : Pkt := { pkt1 with dstX := 0, dstY := 0, srcX := 3, srcY := 0, hop := 3, line := 65 }
def inTile (p : Pkt) : Tile := { rxTile with mesh := { rxTile.mesh with eject := [p] } }

/-- A counted packet into the lowest and the highest line of the owned banks; one of another EPOCH; one for a bank not owned. -/
theorem witness_packet_arrival :
    (∀ l ∈ [0, 8 * 256 - 1], let t := inTile { pktIn with line := l }; let p := { pktIn with line := l };
      routerUp (tileAt0 t) 0 = true ∧ malformedPkt p = false ∧ p.psn = false ∧ p.hop = pathHops p 0 0 % 16 ∧ t.pri = some ⟨1, 0, 7⟩ ∧ p.epoch = 0 ∧
        tabGet t.sramOwn (bankOf (64 * l)) 0 = 1 ∧ hazard t (64 * l) = false ∧ t.soft = [] ∧ t.poison = [] ∧
        (rxFind t p.ctx p.tid).map (·.count) = some 7 ∧ ∀ x ∈ { t with rx := [⟨1, 9, 7, true, false, false⟩] }.rx, x.lateWatch = false) ∧
    (∀ p ∈ [{ pktIn with epoch := 1 }, { pktIn with line := 8 * 256 }], let t := inTile p; malformedPkt p = false ∧ t.power = .run ∧
      (p.epoch ≠ 0 ∨ tabGet t.sramOwn (bankOf (64 * p.line)) 0 ≠ 1)) ∧
    (let t := { tile1 with acks := [⟨3, false, 5, 1, 0, 2⟩, ⟨258, true, 6, 1, 0, 1⟩] }; routerUp (tileAt0 t) 0 = true ∧ t.acks[1]? = some ⟨258, true, 6, 1, 0, 1⟩) := by
  decide +kernel

/-- A message of context 1 that has reached tile 0. -/
def msgTile (b : AwnBody) (slots : Tab Slot) : Tile :=
  { tile1 with slots := slots, rx := [⟨1, 9, 65535, true, false, false⟩], awn := { tile1.awn with eject := [⟨0, 0, 0, 1, 9, 1, 7, false, b⟩] } }
def waitingSlot : Slot := { slot1 with st := .waiting, counter := 1, task := { task1 with tid := 9 } }

/-- A TOKEN for a Waiting slot at counter 1 and at 2, one with no slot, a COUNT at the counter's ceiling, and both kinds of ACK. -/
theorem witness_awn_messages :
    (∀ n ∈ [1, 2], let t := msgTile .token [(0, slot1), (3, { waitingSlot with counter := n })];
      routerUp (tileAt0 t) 0 = true ∧ (t.awn.eject.find? (fun x => x.pri == 1)).map (·.body) = some .token ∧ (t.awn.eject.all (awnFresh t)) = true ∧
      (tabFind t.slots 3).map (·.counter) = some n ∧
      ∀ p ∈ t.slots, (p.2.task.ctx = 1 ∧ p.2.task.tid = 9) → p = (3, { waitingSlot with counter := n })) ∧
    (let t := msgTile .token []; t.early.length < 32 ∧ (t.awn.eject.all (awnFresh t)) = true) ∧
    (let t := msgTile .count []; (rxFind t 1 9).map (·.count) = some 65535 ∧ ∀ x ∈ t.rx, x.lateWatch = false) ∧
    (∀ b ∈ [false, true], let t := msgTile (.ack 0 2 b) [(0, slot1)]; (tabFind t.slots 0).map (·.task.ctx) = some 1 ∧
      (t.awn.eject.all (awnFresh t)) = true) := by decide +kernel

/-- A probe to send; one that has reached its tile, running, fallow and silent; a router's answer due; and the answers at the retire unit. -/
theorem witness_probes : (tileUp (tileAt0 tile1) 0 = true ∧ awnHead (tileAt0 tile1) 0 0 = none ∧ 0 ∉ (tileAt0 tile1).cairn.probing) ∧
    (∀ w ∈ [TilePower.run, .fallow], let t := { tile1 with power := w, awn := { tile1.awn with eject := [⟨0, 0, 0, 0, 0, 0, 7, false, .probe 0 9⟩] } };
      routerUp (tileAt0 t) 0 = true ∧ t.failed = false ∧ (t.awn.eject.find? (fun x => x.pri == 0)).map (·.body) = some (.probe 0 9)) ∧
    (let t := { tile1 with probes := [4, 5] }; routerUp (tileAt0 t) 0 = true ∧ t.probes = 4 :: [5]) ∧
    (∀ b ∈ [AwnBody.answer 3 8, .routerAnswer 3 8], let s := setSaddle upState 5 { Saddle.init with inbox := [⟨1, 1, 0, 0, 0, 0, 0, true, b⟩] };
      (saddleOf s 5).inbox = ⟨1, 1, 0, 0, 0, 0, 0, true, b⟩ :: []) := by decide +kernel

/-- A wire group with two errors and one, or two, wires steered before, of a link of the tile and of the die behind its Edge input. -/
theorem witness_spare_wires : ∀ w ∈ [[7], [7, 8]], ∀ port ∈ [1, 8], let l : LinkSt := ⟨[], false, [(4, ⟨2, w⟩)]⟩;
    let t := setLinks tile1 false port [(linkIx port, l)];
    routerUp (tileAt0 t) 0 = true ∧ port < 9 ∧ port ≠ 4 ∧ (31 : Nat) < 32 ∧ tabGet (linksOf t false port) (linkIx port) .init = l ∧ l.failed = false ∧
      (tabGet l.groups 4 ⟨0, []⟩).errs = 2 ∧ 31 ∉ w ∧ tabFind (linksOf (tileOf (tileAt0 t) 0) false port) (linkIx port) = some l := by decide +kernel

/-- Context 1's Saddle die 0 with a packet at its edge link 2. -/
def linkState (b : PBody) (e : Nat) : State := setSaddle ctxState 0 { saddle0 with links := [(2, [{ pkt1 with body := b, epoch := e }])] }

/-- The checks of R260 pass for the first and the last line of the first megabyte of the view, and for the two ports. -/
theorem witness_slab_open : ∀ off ∈ [2 ^ 29, 2 ^ 29 + 2 ^ 20 - 64, atEsc, atCombine], ∃ a,
    SlabOpen (linkState (.write 2 off) 0) 0 { pkt1 with body := .write 2 off } off ctx1 a := by
  intro off h
  simp only [List.mem_cons, List.not_mem_nil, or_false] at h
  rcases h with rfl | rfl | rfl | rfl <;> exact ⟨_, by decide +kernel, by decide +kernel, rfl, by decide +kernel, by decide +kernel⟩

/-- A stale EPOCH; a slab of another context; and an outstanding read. -/
theorem witness_saddle_memory : (1 : Nat) ≠ tabGet (saddleOf (linkState (.write 2 (2 ^ 29)) 1) 0).epochs 1 0 ∧
    (let s := setSaddle (linkState (.write 2 (2 ^ 29)) 0) 0 { saddleOf (linkState (.write 2 (2 ^ 29)) 0) 0 with owner := [] };
      ctxOf s 1 = some ctx1 ∧ (viewPhys ctx1 (2 ^ 29)).map (· / 2 ^ 36) = some 0 ∧ tabFind (saddleOf s 0).owner 4 ≠ some 1 ∧ (saddleOf s 0).scrubs = []) ∧
    (let s := setSaddle ctxState 0 { saddle0 with reads := [⟨2, 519, 5, 4, 0, 1, 2 ^ 29, 2 ^ 29, 9, 0, 9, 0, 0x77⟩] }; (saddleOf s 0).reads.length = 1) := by
  decide +kernel

/-- The append ring with no slot filled, with one free, and full; a scrub of two slabs. -/
theorem witness_append_and_scrub :
    (∀ wr ∈ [0, 1022, 1023], let s := viewPut (linkState (.write 2 atEsc) 0) ctx1 cbEsWr 4 wr; memWf s.hbm = true ∧
      (viewPhys ctx1 (atEsc + 64 * (1 + wr % 1023))).isSome = true ∧ viewRead s ctx1 cbEsWr 4 = wr ∧ viewRead s ctx1 cbEsRd 4 = 0) ∧
    (let s := setSaddle ctxState 0 { saddle0 with scrubs := [⟨[0, 511], some 7⟩] }; (saddleOf s 0).scrubs = ⟨[0, 511], some 7⟩ :: []) := by
  decide +kernel

/-- The health directory with TID 77 as its one entry. -/
def healthState : State := viewPut (viewPut ctxState ctx1 cbHwNt 2 1) ctx1 atTids 4 77

theorem witness_health_combine : ctxOf healthState 1 = some ctx1 ∧ tidIndex healthState ctx1 78 = none ∧ tidIndex healthState ctx1 77 = some 0 ∧
    viewRead healthState ctx1 atWindow 32 = 0 ∧ HRec.of 0 = .empty ∧
    (∀ n ∈ [1, 2 ^ 31], bits (viewRead (viewPut healthState ctx1 atWindow 32 ((9 + n) * 2 ^ 224 + 1)) ctx1 atWindow 32) 255 224 = 9 + n) := by
  decide +kernel

/-- A block in the buffer of port die 3, READY for two readers, and a request of it. -/
def blk0 : BlkEntry := ⟨2, 3, 1, 0, 4, 0, 9, 1, .ready, [0, 1, 2, 3], 0⟩
def swReq0 : SwReq := ⟨517, 5, 4, 1, 9, 0, 2, 1, false, 0, 0, 0⟩
def swath0 : Swath := { Swath.init with table := [(6, blk0)], buf := [(3, 9)], reqs := [swReq0] }

theorem witness_swath_merging : findBlk swath0 swReq0 = some (6, blk0) ∧ 0 < blk0.merge ∧ swath0.waiting = [] ∧ swath0.merges = [] ∧
    sameKey swReq0 swReq0 = true ∧ [swReq0].length + 1 < { blk0 with merge := 2 }.merge + 1 ∧ findBlk { swath0 with table := [] } swReq0 = none ∧
    (swLines swath0.buf blk0.sfmt swReq0 ≠ [] ∧ ∀ i ∈ List.range (swLines swath0.buf blk0.sfmt swReq0).length, answerReady blk0 swReq0 i = true) ∧
    blk0.src ≠ 0x80 ∧ answerReady { blk0 with valid := [3] } swReq0 0 = false ∧
    findBlk { swath0 with merges := [⟨[swReq0], false, []⟩] } swReq0 = some (6, blk0) := by decide +kernel

/-- The last missing line of a block, at the port from both sides; and the sequencer with its item's entry EMPTY and READY. -/
def fill0 : FillLine := ⟨6, 3, 0x99, false, false, 10, false⟩
def seqCtx : Ctx := { ctx1 with graphs := [{ graph1 with stream := [(2 ^ 29, 3, 6)] }], subs := [{ sub1 with notify := false }] }

theorem witness_swath_fills :
    (let w : Swath := { Swath.init with table := [(6, { blk0 with st := .filling, valid := [0, 1, 2] })], fromMesh := [fill0], fromSpur := [{ fill0 with lent := true }] };
      let s := setSwath ctxState 3 w;
      fill0.lent = false ∧ w.merges = [] ∧ (tabFind w.table 6).map (fun b => decide (3 < b.len)) = some true ∧
        (tabFind w.table 6).map (fun b => decide (bindPeer s 3 6 b = none)) = some true) ∧
    (∀ st ∈ [BlkSt.empty, .ready], let s := setSwath (setCtx ctxState 1 seqCtx) 3 { Swath.init with table := [(6, { blk0 with st := st, valid := [] })] };
      ctxOf s 1 = some seqCtx ∧ seqCtx.reset = none ∧
      (let w := walkNow seqCtx 0 (tabFind (saddleOf s 0).walks 1);
        (planItems seqCtx 0 w.step)[w.pos]? = some (2 ^ 29, 3, 6) ∧ fillsMoving s 3 6 = false ∧ versionAllows seqCtx blk0.sfmt (2 ^ 29) blk0.len w.step = true ∧ w.line = 0 ∧
          0 < blk0.len ∧ blk0.len ≤ streamLinesMax - streamStaged s 0)) := by
  decide +kernel

/-! ### Ring, retirement, update, Winnow -/

/-- A flit one segment before its destination and two before it, on its first and on its last try, with turns left and without; without
where another class that waits there has some left. -/
theorem witness_ring_moves : (∀ tr ∈ [0, 3], ∀ at_ ∈ [26, 25],
      let f : Flit := ⟨at_, 27, at_, true, .h, tr, false, .report ⟨0x0101, 8, 0, none, none, none, 0, 0⟩⟩;
      let s := { upState with ring := [f] }; s.ring[0]? = some f ∧ (∀ g ∈ s.ring.take 0, sameFlow g f = false) ∧ f.at_ < 28 ∧ f.dst < 28 ∧ f.at_ ≠ f.dst ∧
        f.cw = true ∧ ((f.at_ + 1) % 28 = f.dst ↔ at_ = 26) ∧ shareOf (roundNow s (segKey f)) .h ≠ 0) ∧
    (let f : Flit := ⟨5, 27, 5, true, .h, 0, false, .report ⟨0x0101, 8, 0, none, none, none, 0, 0⟩⟩; let g : Flit := { f with cls := .s };
      let s := { upState with ring := [f, g], ringArb := [(segKey f, (0, 0, 2))] }; s.ring[0]? = some f ∧ shareOf (roundNow s (segKey f)) .h = 0) := by
  decide +kernel

/-- A completion of the submission's first task at the Saddle die of tile 517, fresh and again; an instance to report, the first of two
and the last. -/
def complMsg : AwnMsg := ⟨1, 1, 0, 1, 0, 1, 517, true, .complTask 3 0 false 10 1 false⟩
def retireState (x : Ctx) : State := setSaddle (setCtx ctxState 1 x) 7 { Saddle.init with inbox := [complMsg] }

theorem witness_retirement :
    (∀ l ∈ [[], [(0, [0])]], let b := { sub1 with retired := l }; let s := retireState { ctx2 with subs := [b] }; let x := { ctx2 with subs := [b] };
      (saddleOf s 7).inbox = [complMsg] ∧ ctxOf s 1 = some x ∧ complMsg.epoch = epochNow s 1 ∧ gleanFull x (recsOf x 3 0) = false ∧ findSub x 1 = some b ∧
        findGraph x 3 = some graph1 ∧ graph1.tasks[0]? = some task2 ∧ task2.anchors = [] ∧ x.reset = none ∧ (10#32 - b.first).toNat = 0 ∧
        b.done ≤ 0 ∧ (0 ∈ retiredIn b 0 ↔ l ≠ [])) ∧
    (∀ d ∈ [0, 1], let b := { sub1 with done := d, retired := [(d, [0])] }; let x := { ctx2 with subs := [b] }; let s := setCtx ctxState 1 x;
      ctxOf s 1 = some x ∧ doneSub x = some b ∧ (∀ y ∈ x.subs, y.no = b.no → y = b) ∧ x.heldRecs = [] ∧
        (2 ^ 32 + viewRead s x cbCrWr 4 - viewRead s x cbCrRd 4) % 2 ^ 32 < 4096 ∧ (d + 1 < b.count ↔ d = 0) ∧ b.cancelling = false) := by decide +kernel

/-- A chunk sum of two lines for the one chunk of bucket 0, committed. -/
def landPkt (d : Nat) (last : Bool) : Pkt := { pkt1 with fmt := 0xA, data := BitVec.ofNat 512 d, body := .landing 10 0 0 last }
def bslot0 : BSlot := ⟨1, 0, 10, 0, 0, true, .committed, [], []⟩
def landState : State :=
  { setSaddle (setCtx ctxState 1 ctx2) 0 { saddle0 with links := [(3, [landPkt 5 false, landPkt 0x90007 true])] } with bslots := [bslot0] }

theorem witness_bucket_lands : let q := [landPkt 5 false, landPkt 0x90007 true]; let s := landState;
    (saddleOf s 0).links = [(3, q)] ∧ (∀ p ∈ q, landingOf p = some (1, 10, 0, 0) ∧ p.psn = false ∧ p.fmt = attFmt plan1 0 ∧ p.epoch = 0) ∧
      q.any landingLast = true ∧ ctxOf s 1 = some ctx2 ∧ ctx2.win.plan = some plan1 ∧ plan1.buckets[0]?.isSome = true ∧
      findSlot s 1 10 0 = some bslot0 ∧ bslot0.st = .committed ∧ 0 ∉ bslot0.landed ∧ findItem s 0 1 10 0 = none ∧ landingUsed s 0 + 64 * 2 ≤ landingSize := by decide +kernel

/-- A landed, a released and a waiting bucket 0 of step 10. -/
def item0 (st : UpdSt) : UpdItem := ⟨0, 1, 10, 0, 0, 0xA, st, [(0, (0, [7, 9]))], []⟩
def updState (st : UpdSt) (x : Ctx) : State := { viewPut (setCtx ctxState 1 x) x cbClipC 4 0x3F800000 with upd := [item0 st] }
def clipCtx : Ctx := { ctx2 with clip := [⟨10, 0x3F800000, some (0x3F000000, true), [0]⟩] }

theorem witness_bucket_updates :
    (let s := updState .landed ctx2; findItem s 0 1 10 0 = some (item0 .landed) ∧ olderDone ctx2 plan1 (item0 .landed) = true ∧ clipLatch ctx2 10 = none ∧
      viewRead s ctx2 cbClipC 4 ≠ 0 ∧ ctx2.stook = none ∧ ctx2.cad = none ∧ ctx2.reset = none) ∧
    (let x := { clipCtx with sched := [⟨0, 10, some 0x3F800000⟩] }; let s := updState .released x; olderDone x plan1 (item0 .released) = true ∧
      findItem s 0 1 10 0 = some (item0 .released) ∧ factorAt x 0 10 = some (0x3F000000, true) ∧ schedOf x 0 10 = some ⟨0, 10, some 0x3F800000⟩) ∧
    (let s := updState .released clipCtx; factorAt clipCtx 0 10 = some (0x3F000000, true) ∧ schedOf clipCtx 0 10 = none ∧ schedNow s clipCtx 10 = none) ∧
    olderDone ctx2 { plan1 with firstStep := 7 } { item0 .landed with step := 11 } = false := by
  decide +kernel

/-- A unit that waits for the schedule entry of step 10, with and without the entry; a clip factor that has come. -/
theorem witness_update_releases : let x := { clipCtx with sched := [⟨0, 10, none⟩], clip := [⟨10, 0x3F800000, some (0x3F000000, true), []⟩] };
    let s := viewPut (updState .sched x) x (atSched + 80) 8 (10 * 2 ^ 32 + 5);
    (tabFind s.ctxs 1 = some x ∧ ⟨0, 10, none⟩ ∈ x.sched ∧ schedNow s x 10 = some 5) ∧
    ((∀ p ∈ (updState .sched x).ctxs, ∀ l ∈ p.2.sched, l.saddle = 0 → l.rho = none → schedNow (updState .sched x) p.2 l.step = none) ∧
      ∀ p ∈ (updState .sched x).ctxs, p.1 < 256 ∧ tabFind (updState .sched x).ctxs p.1 = some p.2) ∧
    (ctxOf s 1 = some x ∧ (clipLatch x 10).bind (·.factor) = some (0x3F000000, true) ∧ (clipLatch x 10).map (·.units) = some []) := by decide +kernel

/-- Layer 4 with AUTO set: s_l in the middle and at both ends, the verdicts at their bounds. -/
theorem witness_scale_policy :
    (∀ n ∈ [-64, -63, 62, 63], let s := viewPut (setCtx ctxState 1 ctx2) ctx2 (atLayers + 32) 4 (0x108 + 2 ^ 16 * (n % 256).toNat);
      fmtSexp (layerFmt s ctx2 4) = n ∧ fmtAuto (layerFmt s ctx2 4) = true ∧ (polOf ctx2 4).hostSexp = none ∧ 16 ≤ (polOf ctx2 4).sinceScale) ∧
    (polOf { ctx2 with layerPol := [(4, { polOf ctx2 4 with hostSexp := some 0xC0 })] } 4).hostSexp = some 0xC0 ∧
    (2 : Nat) ≤ (⟨false, true, 2⟩ : VRec).head := by decide +kernel

/-- A context of one layer whose check task of step 10 is done, before and after its boundary. -/
def boundCtx : Ctx := { ctx2 with win := { ctx2.win with plan := none } }
theorem witness_step_boundary : let s := { setCtx ctxState 1 boundCtx with cairn := { ctxState.cairn with ready := true } };
    ctxOf s 1 = some boundCtx ∧ boundCtx.reset = none ∧ boundCtx.win.pubs = [] ∧ boundCtx.layers = [4] ∧ boundCtx.stook = none ∧ boundCtx.cad = none ∧
      bitOf (layerFmt s boundCtx 4) 10 = false ∧ stewardServes s (homeSteward 1) = true ∧ viewRead s boundCtx cbHwNt 2 = 0 ∧
      stepEnded s 1 boundCtx 10 = false ∧ stepEnded (setCtx s 1 { boundCtx with subs := [] }) 1 { boundCtx with subs := [] } 10 = true ∧ boundaryPassed boundCtx 10 = false ∧ boundaryPassed { boundCtx with boundaryDone := some 10 } 10 = true := by
  decide +kernel

/-- An escalation request in the layer's format, in an earlier one, and at the top of the ladder. -/
def escReq0 (fmt : Nat) (acc : Bool) : EscReq := ⟨4, 1, 0, 10, 1, fmt, acc, 517, []⟩
def escState (reg cf : Nat) : State :=
  let s := viewPut (setCtx ctxState 1 ctx2) ctx2 cbEsWr 4 1
  let s := viewPut s ctx2 (atLayers + 32) 4 reg
  viewPut { s with cairn := { s.cairn with ready := true } } ctx2 (atLayers + 36) 4 cf

theorem witness_escalations : ∀ q ∈ [(0x10108, 3, escReq0 3 true), (0x8, 3, escReq0 7 false), (0x108, 0, escReq0 0 true)],
    let s := escState q.1 q.2.1; ctxOf s 1 = some ctx2 ∧ stewardAwake s (homeSteward 1) = true ∧ q.2.2.layer ∈ ctx2.layers ∧
      viewRead s ctx2 cbEsRd 4 ≠ viewRead s ctx2 cbEsWr 4 ∧
      (let s1 := viewPut s ctx2 cbEsRd 4 ((viewRead s ctx2 cbEsRd 4 + 1) % 2 ^ 32);
        layerCfmt s1 ctx2 4 = q.2.1 ∧ fmtAcc (layerFmt s1 ctx2 4) = bitOf q.1 8) := by decide +kernel

/-- Two ranks with one bucket of two chunks, this rank its owner or its sender. -/
def bucketW : PlanBucket := ⟨0, 2, 0, false, 0, 0, 40, 0, 1, 0, 0, 0, 0, 0x77⟩
def planW (me : Nat) : Plan :=
  { plan1 with ranks := [⟨5, 0⟩, ⟨6, 0⟩], buckets := [if me = 0 then bucketW else { bucketW with nconv := 1 }], sched := 0, nlayv := 0, convs := [⟨3, 0⟩]
               myRank := me }
def winCtx (me : Nat) : Ctx := { ctx2 with win := { ctx2.win with plan := some (planW me) } }
def slotW : BSlot := ⟨1, 0, 10, 0, 1, true, .opened, [], []⟩
/-- A frame of the bucket, its trailer left 0: no poison, the verdict good. -/
def frameW (tid chunk : Nat) (pl : List Line) (cls : Nat) : RawFrame :=
  let h := mkHdr ⟨0, 6, 1, cls, tid, 0xB, 0, false, true, false, false, pl.length, 0, chunk, 10, 0⟩
  ⟨0, h, pl, 0⟩
def dataW (n : Nat) : RawFrame := frameW winnowTid (2 ^ 18 * n) (List.replicate (wireCount 0xB 32) 5) 9
def winState : State := { setCtx ctxState 1 (winCtx 0) with bslots := [slotW] }

/-- Chunk 0 of the owner's bucket, while chunk 1 is incomplete: its own piece, a partial of rank 1, one of the attempt before, the verdict
line of one that came, good and bad, and a pair with its first copy. -/
theorem witness_winnow_inputs : let s := winState; let x := winCtx 0;
    ctxOf s 1 = some x ∧ bucketW.owner = (planW 0).myRank ∧ findSlot s 1 10 0 = some slotW ∧
      committed x.win (orderIx (planW 0) 10 0) = false ∧ chunkCount bucketW = 2 ∧ chunkFull (planW 0) bucketW 0 1 (chunkOf slotW 1) = false ∧
      (List.replicate 1024 (3 : Int)).length = 32 * chunkBlocks bucketW 0 ∧ contrib (planW 0) bucketW 0 0 = .plain ∧
      findInput (chunkOf slotW 0) 0 false = none ∧ versionReached x 10 0 = false := by decide +kernel

theorem witness_winnow_frames : ∀ a ∈ [0, 1], let f := dataW a; tagOf f = ⟨1, 10, 0, 0, a, false, 6⟩ ∧ engineRank (planW 0) 6 = some 1 ∧
    a ≤ slotW.att ∧ 1 ∈ partialSources (planW 0) bucketW 0 0 ∧ (hFmt f.hdr = attFmt (planW 0) a ↔ a = 1) ∧
    f.payload.length = wireCount (attFmt (planW 0) 1) (chunkBlocks bucketW 0) ∧ findInput (chunkOf slotW 0) 1 false = none := by decide +kernel

theorem witness_winnow_verdicts : (frameGood (dataW 1) = true ∧ frameGood { dataW 1 with trailer := 2 ^ 24 } = false) ∧
    (let i : ChunkIn := ⟨1, false, 0xB, 5, wireMant 0xB 32 ((dataW 1).payload.drop 1), 0, none, false, 0⟩;
      let u := setChunk slotW 0 (chunkAdd 24 (chunkOf slotW 0) i); (findInput (chunkOf u 0) 1 false).map (·.verdict) = some none) ∧
    (let r : PairRec := ⟨1, 2, .first, 1, 0, false⟩; let u := setChunk slotW 0 { chunkOf slotW 0 with pairs := [r] };
      r ∈ (chunkOf u 0).pairs ∧ r.st = .first) := by decide +kernel

/-- A control frame of the bucket: its kind, and its lines. -/
def ctrlW (k att body : Nat) (more : List Line) : RawFrame := frameW winnowTid 0 (ctrlLine k att 1 body :: more) 0
def ctrlState (f : RawFrame) (x : Ctx) : State := updLink (setCtx ctxState 1 x) 2 (fun l => { l with urg := [f] })

/-- ATTEMPT 1 and COMMIT at the sending rank, CHUNK_ACK at the owner, RESEND of the one frame held. -/
theorem witness_winnow_control :
    (∀ k ∈ [1, 2, 3, 4], let f := ctrlW k 1 0 []; (linkOf (ctrlState f (winCtx 1)) 2).urg = f :: [] ∧ ctlKind ((f.payload[0]?).getD 0) = k ∧
      ctlAtt ((f.payload[0]?).getD 0) = 1) ∧
    (let f := ctrlW 1 1 0 []; let s := ctrlState f (winCtx 1); let e := { bucketW with nconv := 1 };
      frameBucket s f = some (winCtx 1, planW 1, e) ∧ committed (winCtx 1).win (orderIx (planW 1) 10 0) = false ∧ e.owner ≠ (planW 1).myRank ∧
      sendsAny (planW 1) e 1 = true ∧ findSlot s 1 10 0 = none ∧ ∀ u ∈ s.bslots, u.ctx = 1 → u.step = 10 ∧ u.bucket = 0) ∧
    (let f := ctrlW 4 0 0 []; let h : HeldFrame := ⟨1, 10, 0, 0, 0, { dataW 0 with hdr := mkHdr ⟨6, 0, 1, 9, winnowTid, 0xB, 0, false, true, false, false, 0, 0, 0, 10, 0⟩ }⟩; heldIs f ((f.payload[0]?).getD 0) h = true) := by
  decide +kernel

/-! ### Norms, spurs, Ethernet, stook parts -/

/-- Two sums of 16-bit mantissas at the ends of the range that no addition saturates. -/
theorem witness_exact_reduction : (∀ x ∈ ([32767, -32767, 0] : List Int), x.natAbs ≤ 2 ^ (16 - 1) - 1) ∧ (mantAdd 16 false [32767, -32767, 0] [-1, 0, 5]).2 = 0 ∧
    (mantAdd 16 false [32767, -32767, 0] [-2, 1, 7]).2 = 0 ∧
    (mantAdd 16 false (mantAdd 16 false [32767, -32767, 0] [-1, 0, 5]).1 [-2, 1, 7]).2 = 0 := by decide +kernel

/-- Three ranks, no buckets: rank 0 ready to start, rank 1 with a total to come, rank 2 with the clip factor to come. -/
def normPlan (me : Nat) : Plan := { planW me with ranks := [⟨5, 0⟩, ⟨6, 0⟩, ⟨7, 0⟩], nlayv := 2, buckets := [] }
def normCtx (me : Nat) (ns : List NormSt) : Ctx :=
  { winCtx me with clip := [⟨10, 0x3F800000, none, []⟩], win := { (winCtx me).win with norms := ns, plan := some (normPlan me) } }

theorem witness_norm_pass :
    (let x := normCtx 0 []; let s := setCtx ctxState 1 x; ctxOf s 1 = some x ∧ x.reset = none ∧ x.win.pubs = [] ∧
      clipLatch x 10 = some ⟨10, 0x3F800000, none, []⟩ ∧ normOf x 10 = none ∧ normReady s 1 x (normPlan 0) 10 = true) ∧
    (∀ q ∈ [(5, 1), (6, 2)], let n : NormSt := ⟨10, [(0, 5)], none, true, false, none⟩; let x := normCtx q.2 [n];
      let f := ctrlW q.1 0 (2 + 7 * 2 ^ 64) [3]; let s := ctrlState f x;
      (linkOf s 2).urg = [f] ∧ ctlKind ((f.payload[0]?).getD 0) = q.1 ∧ hCtx f.hdr = 1 ∧ hStep f.hdr = 10 ∧ normOf x 10 = some n ∧
        (normPlan q.2).myRank = q.2 ∧ (clipLatch x 10).map (·.factor) = some none) := by decide +kernel

/-- A PAR frame of bucket 0, not the last and the last; and the one answer a publication waits for. -/
def parFrame (last : Bool) : RawFrame :=
  ⟨0, mkHdr ⟨0, 6, 1, 0xC, winnowTid, 0xB, 0, false, last, false, false, 1, 0, 0, 10, 0⟩, [0x7F], 0⟩

theorem witness_exponent_tables :
    (∀ last ∈ [false, true], let f := parFrame last; let s := updLink (setCtx ctxState 1 (winCtx 1)) 2 (fun l => { l with par := [f] });
      frameBucket s f = some (winCtx 1, planW 1, { bucketW with nconv := 1 }) ∧ (linkOf s 2).par = [f] ∧ (winCtx 1).win.expRx = [] ∧ hLast f.hdr = last) ∧
    (let x := { winCtx 0 with win := { (winCtx 0).win with pubs := [⟨0, 10, true, []⟩] } }; let f := ctrlW 7 0 0 []; let s := ctrlState f x;
      frameBucket s f = some (x, planW 0, bucketW) ∧ (linkOf s 2).urg = [f] ∧ ctlKind ((f.payload[0]?).getD 0) = 7 ∧
        ctlSrc ((f.payload[0]?).getD 0) + (planW 0).myRank = 1 ∧ x.stook = none) := by decide +kernel

/-- The engine 0x10 with spur 0 to engine 0x20, owned by context 1 whose sheaf holds a port tile of it, in a state `st`, links trained. -/
def engTab : EngineTable := ⟨0x10, (List.range 8).map (fun j => ⟨BitVec.ofNat 24 (0x20 + 16 * j), j, true⟩), 7240, [], [⟨0x20, 0, false, 0, 0⟩],
  List.replicate 64 ⟨true, true, true, 3, 0, 0, 0, 0x0A000001, 0⟩⟩
def peerTab : PeerTable := { xcount := 4, xring := 0x20000000, spurMask := 1, peers := [⟨0x20, 3, 2⟩], binds := [⟨1, 5, 0⟩], kernel := [.on (tileIx 8 8)] }
def spurState0 (st : Nat) (x : Ctx) (tr : LinkTrain) : State :=
  { setCtx ctxState 1 x with
    straps := { ctxState.straps with spur := true }, engine := some engTab
    cairn := { ctxState.cairn with engIdHi := 1, engState := 5, maelec := some ⟨0, 5, 0, 2, 0, []⟩ }
    sheaves := [(0, { sheaf0 with x0 := 8, y0 := 8, w := 16, h := 16 })], spurs := [(0, ⟨st, some 1, 0x20, 0, 0, 4⟩)]
    links := (List.range 8).map (fun p => (p, { PortLink.init with train := if p = 7 then tr else .trained })) }
def peerCtx : Ctx := { ctx1 with peers := some peerTab }

theorem witness_spur_training :
    (∀ q ∈ [(2, LinkTrain.down), (2, .training), (3, .trained), (5, .trained)], let s := spurState0 q.1 ctx1 q.2;
      linksOn s = true ∧ (linkOf s 7).train = q.2 ∧ (spurOf s 0).st = q.1 ∧ ∀ p ∈ spurPorts 0, p ≠ 7 → (linkOf s p).train = .trained) := by
  decide +kernel

/-- Frames of engine 0x20 for context 1. -/
def frameHdr0 (cls ctx ep seq nl tid : Nat) : FrameHdr := ⟨0x10, 0x20, BitVec.ofNat 8 ctx, cls, tid, 0, ep, false, false, false, false, nl, 0, 0, 0, seq⟩
def spurFrame (kind : Nat) (sq : Bool) (lseq : Nat) (h : FrameHdr) : RawFrame := ⟨mkLw kind sq 0 lseq, mkHdr h, [], mkTrailer (mkHdr h) [] false⟩
def recordW (nak : Nat) : Line :=
  let v := nak * 2 ^ 40 + 2 ^ 48 * 5 + 2 ^ 384 * 3 + 2 ^ 464 * 9
  BitVec.ofNat 512 (v + 2 ^ 480 * crc32c (toBytes 60 v))

theorem witness_link_control : (let s := spurState0 4 peerCtx .trained; (linkOf s 7).train = .trained ∧ spurState s 0 = 4 ∧ (linkOf s 7).rxLast < 2 ^ 16) ∧
    (∀ n ∈ [0, 1], let r := recordW n; lwOk (mkLw 1 false 0 0) = true ∧ lwKind (mkLw 1 false 0 0) = 1 ∧
      byteField r.toNat 63 60 = crc32c (toBytes 60 r.toNat) ∧ byteField (r.toNat + 1) 63 60 ≠ crc32c (toBytes 60 (r.toNat + 1))) ∧ 7 % 8 ≠ 0 := by
  decide +kernel

/-- The next frame in sequence, an old one, one found bad, one of a stale EPOCH, one ahead of its link's sequence, and a Winnow data frame. -/
theorem witness_frame_reception : let s := spurState0 4 peerCtx .trained; spurState s 0 = 4 ∧ (linkOf s 0).rxLast = 65535 ∧
    (let f := spurFrame 0 true 0 (frameHdr0 0xD 1 0 0 0 5); lwOk f.lw = true ∧ hdrMalformed f = false ∧ hDst f.hdr = engineId s ∧ lwSq f.lw = true ∧
      lwLseq f.lw = 0 ∧ hcrcOk f.hdr = true ∧ isWinnowData f.lw f.hdr = false ∧ frameFault f false = false ∧ frameFault f true = true ∧
      hopBad f = false ∧ endCheck s 0 f = none ∧ seqAt s 0 f = .next ∧ hCls f.hdr = 0xD) ∧
    seqAt s 0 (spurFrame 0 true 0 (frameHdr0 0xD 1 0 (2 ^ 32 - 1) 0 5)) = .old ∧
    hEpoch (spurFrame 0 true 0 (frameHdr0 0xD 1 5 0 0 5)).hdr ≠ epochNow s 1 ∧
    (∀ n ∈ [1, 2 ^ 15 - 1], lwLseq (spurFrame 0 true n (frameHdr0 0xD 1 0 0 0 5)).lw = n) ∧
    (let f := spurFrame 0 false 0 (frameHdr0 9 1 0 0 0 winnowTid); lwSq f.lw = false ∧ isWinnowData f.lw f.hdr = true ∧ endCheck s 0 f = none) := by
  decide +kernel

/-- Spur 0 Up beside its neighbour and beside another; no context waits for it. -/
theorem witness_spur_attachment : let s := spurState0 3 { ctx1 with peers := some { peerTab with binds := [] } } .trained;
    (spurEntry s 0).map (fun e => (e.id, e.spur, e.enable)) = some (0x20, 0, true) ∧ spurState s 0 = 3 ∧ s.cairn.engIdHi ≠ 0 ∧
      (spurOf s 0).nbr.toNat / 16 ≠ 0 ∧ (spurOf s 0).nbr = 0x20 ∧ (spurOf s 0).nbrSpur = 0 ∧ bindsOf s 1 = [] ∧
      (s.ctxs.all fun p => p.2.quiesced.isEmpty && p.2.waiting.isEmpty && p.2.reset.isNone) = true ∧ (0x30 : BitVec 24) ≠ 0x20 ∧
      (spurOf (spurState0 5 peerCtx .trained) 0).st = 5 := by decide +kernel

/-- A notice of engine 0x20 about its context 3, of each kind, and a stream credit. -/
def noticeFrame (kind : Nat) : RawFrame := ⟨mkLw 2 true 0 0, mkHdr (frameHdr0 0 3 0 0 1 0), [noticeLine 0x30 9 3 6 20 kind], 0⟩
def noticeState (kind : Nat) (x : Ctx) : State := setLink (spurState0 4 x .trained) 0 { PortLink.init with eng := [noticeFrame kind] }

theorem witness_engine_notices :
    (∀ k ∈ [1, 2, 3, 4], let x := if k = 4 then { ctx2 with peers := some peerTab, quiesced := [.peer 0x30] } else peerCtx; let s := noticeState k x;
      let f := noticeFrame k; let n := noticeOf f ((f.payload[0]?).getD 0).toNat;
      (linkOf s 0).eng = [f] ∧ (if hNline f.hdr = 0 then 0 else byteField ((f.payload[0]?).getD 0).toNat 12 12) = k ∧ n.origin = 0x30 ∧
        ctxsNaming s n.sender n.ctx = [1] ∧ ctxOf s 1 = some x ∧ x.resetsSeen = [] ∧ n.origin ≠ engineId s ∧ x.reset = none ∧ (1 : Nat) ∉ s.spaced ∧
        (k = 4 → x.quiesced = [.peer n.origin] ∧ x.waiting = [] ∧ unfinished x ≠ [])) ∧
    unfinished { peerCtx with quiesced := [.peer 0x30] } = [] ∧
    (let f := spurFrame 2 true 0 (frameHdr0 0 1 0 0 0 77);
      let s := setLink { spurState0 4 peerCtx .trained with swaths := [(1, { Swath.init with table := [(5, ⟨1, 1, 0, 0x80, 4, 0, 77, 1, .empty, [], 0⟩)] })] } 1
        { PortLink.init with eng := [f] };
      (linkOf s 1).eng = [f] ∧ hNline f.hdr = 0 ∧ bindsOf s (hCtx f.hdr) = [⟨1, 5, 0⟩] ∧
        (tabFind (swathOf s 1).table 5).map (fun e => (e.ctx, e.tid.toNat)) = some (hCtx f.hdr, hTid f.hdr)) := by decide +kernel

/-! ### Ethernet and stook parts -/

/-- Engine 0x10 with context 1, its peer on engine 0x20 at Ethernet port 0. -/
def ethState (x : Ctx) : State :=
  { setCtx ctxState 1 x with
    engine := some engTab, cairn := { ctxState.cairn with engIdHi := 1, engState := 5, maelec := some ⟨0, 5, 0, 2, 0, []⟩ }
    eth := { Eth.init with ports := [(0, ⟨true, []⟩)], cages := [(0, ⟨true, true⟩)] } }
def ethCtx : Ctx := { ctx1 with peers := some { peerTab with binds := [] } }
def dgramHdr (seq nline ctx : Nat) : FrameHdr := ⟨0x10, 0x20, BitVec.ofNat 8 ctx, 13, 0, 0, 0, false, true, false, false, nline, 0, 0, 0, seq⟩
def dgram0 (kind xid arg seq : Nat) (l : List Line) : Dgram :=
  { stampSeq (mkDgram kind xid arg (dgramHdr seq l.length 1) l) seq with net := { NetHdr.none with dst := 7240 } }

/-- DATA of one line to the first free byte and to the last line of the view, one outside it, and one out of sequence. -/
theorem witness_eth_data : let s := ethState ethCtx;
    (∀ a ∈ [2 ^ 29, viewSz ethCtx - 64], let d := dgram0 0 0 0 0 [BitVec.ofNat 512 a, 5];
      netOk s d = true ∧ dgKind d = 0 ∧ hDst d.hdr = engineId s ∧ ethRuns s 0 = true ∧ hSeq d.hdr = (ethStream s (hdrKey d.hdr 0)).expect ∧
        ctxOf s (hCtx d.hdr) = some ethCtx ∧ ethCheck s d.hdr a 64 = none) ∧
    (let d := dgram0 0 7 0 0 [BitVec.ofNat 512 0x1000, 5]; (ethCheck s d.hdr 0x1000 64).isSome = true) ∧
    (let d := dgram0 0 7 0 5 [BitVec.ofNat 512 (2 ^ 29), 5]; hSeq d.hdr ≠ (ethStream s (hdrKey d.hdr 0)).expect) ∧
    (∀ n ∈ [{ NetHdr.none with dst := 7241 }, { NetHdr.none with dst := 7240, frag := true }, { NetHdr.none with dst := 7240, opts := true }],
      netOk s { dgram0 0 0 0 0 [] with net := n } = false) ∧
    14 ≤ hFmt (mkDgram 0 0 0 { dgramHdr 0 0 1 with fmt := 14 } []).hdr := by decide +kernel

set_option maxRecDepth 20000 in
theorem witness_eth_data_intact : dgOk (dgram0 0 0 0 0 [BitVec.ofNat 512 (2 ^ 29), 5]) = true := by decide +kernel

theorem witness_eth_getreq : let s := ethState ethCtx; let d := dgram0 2 9 0 0 [BitVec.ofNat 512 (2 ^ 29 + 2 ^ 64 * 0x40000000 + 2 ^ 128 * 128)];
    netOk s d = true ∧ dgOk d = true ∧ dgKind d = 2 ∧ hDst d.hdr = engineId s ∧ hSeq d.hdr = (ethStream s (hdrKey d.hdr 0)).expect ∧
    ctxOf s (hCtx d.hdr) = some ethCtx ∧ ethCheck s d.hdr (2 ^ 29) 128 = none ∧ peerOf ethCtx (hSrc d.hdr) = some ⟨0x20, 3, 2⟩ := by decide +kernel

/-- A stream toward the peer with one frame of a descriptor held, resent `r` times, and an answer owed. -/
def xferState (r : Nat) : State :=
  let s := ethState ethCtx
  let k := ethKey (engineId s) 0x20 3 0xD 2 0
  { s with eth := { s.eth with
      streams := [{ ethStream s k with held := [{ seq := 0, d := dgram0 0 0 0 0 [5], resends := r, own := .xfer 1 4 }], unacked := 1 }]
      xfers := [⟨1, 4, false, false, 0x20, 0x777000, 2 ^ 29, 64, 1, false, some k⟩] } }

theorem witness_eth_streams : ∀ r ∈ [0, 7, 8], let s := xferState r;
    (s.eth.streams[0]?.map (fun x => (ethRuns s (streamPort x.key), x.unacked, x.held.length, decide (x.key = ethKey (engineId s) 0x20 3 0xD 2 0)))) =
      some (true, 1, 1, true) ∧
    (let d := dgram0 1 0 0 0 []; let s := { s with eth := { s.eth with streams := s.eth.streams.map (fun x => { x with key := backKey d.hdr 0 }) } };
      netOk s d = true ∧ dgOk d = true ∧ dgKind d = 1 ∧ hDst d.hdr = engineId s ∧ ethRuns s 0 = true ∧
        (ethStream s (backKey d.hdr 0)).held.map (fun f => (f.own, seqCovered (dgArg d) f.seq)) = [(.xfer 1 4, true)] ∧
        (s.eth.xfers.find? (fun t => t.ctx == 1 && t.idx == 4 && !t.ended)).map (·.left) = some 1 ∧ ctxOf s 1 = some ethCtx) ∧
    (let d := dgram0 3 (4 % 4) 5 0 []; let t : Transfer := ⟨1, 4, false, false, 0x20, 0x777000, 2 ^ 29, 64, 1, false, some (backKey d.hdr 0)⟩;
      let s := { s with eth := { s.eth with xfers := [t] } };
      netOk s d = true ∧ dgOk d = true ∧ dgKind d = 3 ∧ hDst d.hdr = engineId s ∧ ethRuns s 0 = true ∧ ctxOf s t.ctx = some ethCtx ∧
        ringOf ethCtx = some (0x20000000, 4) ∧ t.stook = false ∧ t.idx % 4 = dgXid d) := by decide +kernel

/-- Pieces of a PUT at Crest die N: the last one of an own descriptor, poisoned and not, the first of two, and one for a peer's request. -/
def pieceJob (own : XOwner) (len : Nat) : PutJob := ⟨6, own, 0x20, 3, 2, 0, 0, 0x777000, len, [], []⟩
theorem witness_pieces : ∀ own ∈ [XOwner.xfer 1 4, .peer], ∀ len ∈ [256, 512], ∀ psn ∈ [true, false], let j := pieceJob own len;
    let f : Flit := ⟨0, 3, 3, true, .s, 0, psn, .put 6 0 (List.replicate 256 7)⟩;
    let s := { xferState 0 with ring := [f], eth := { (xferState 0).eth with jobs := [j] } };
    s.ring[0]? = some f ∧ (∀ g ∈ s.ring.take 0, sameFlow g f = false) ∧ s.eth.jobs.find? (fun q => q.no == j.no) = some j ∧
      ((withPiece j 0 (List.replicate 256 7) psn).got.length = ceilDiv len 256 ↔ len = 256) ∧
      ((withPiece j 0 (List.replicate 256 7) psn).bad = [] ↔ psn = false) ∧ (∃ t ∈ s.eth.xfers, t.ctx = 1 ∧ t.idx = 4 ∧ t.ended = false) ∧
      ctxOf s 1 = some ethCtx := by decide +kernel

/-- A ring with nothing new, and with one new PUT of 16 KB. -/
def ringState : State :=
  viewPut (viewPut (ethState ethCtx) ethCtx 0x20000000 4 1) ethCtx (descAt (0x20000000, 4) 0) 64
    (2 ^ 448 * 0x777000 + 2 ^ 384 * 0x20001000 + 2 ^ 352 * 16384 + 2 ^ 320 * (0x20 + 3 * 2 ^ 24) + 2 ^ 280)

theorem witness_xring : (viewRead (ethState ethCtx) ethCtx 0x20000000 4 = ethCtx.xrd ∧ ringOf ethCtx = some (0x20000000, 4)) ∧
    (let v := viewRead ringState ethCtx (descAt (0x20000000, 4) 0) 64;
      viewRead ringState ethCtx 0x20000000 4 = (ethCtx.xrd + 1) % 2 ^ 32 ∧ ethCtx.xrd < 2 ^ 32 ∧
        (byteField v 35 35 = 1 ∧ byteField v 34 34 = 0 ∧ byteField v 33 0 = 0 ∧ byteField v 47 44 = 16384 ∧ byteField v 55 48 = 0x20001000 ∧
          0x20001000 % 64 = 0 ∧ 0x20001000 + 16384 ≤ viewSz ethCtx) ∧
        BitVec.ofNat 24 (byteField v 43 40) = 0x20#24 ∧ BitVec.ofNat 8 (byteField v 43 40 / 2 ^ 24) = 3#8 ∧
        (endpointOf ringState 0x20 (fun _ => true)).map (·.port) = some 0 ∧ peerOf ethCtx 0x20 = some ⟨0x20, 3, 2⟩ ∧
        (ethStream ringState (ethKey (engineId ringState) 0x20 3 0xD 2 0)).broken = false) := by decide +kernel

/-- A TLV of each kind kept, and one of a kind that is not. -/
theorem witness_lldp : ∀ t ∈ [(1, [4#8, 7]), (5, List.replicate 511 0x41), (127, [0, 1, 2, 3])], 0 < t.1 ∧ t.1 < 128 ∧ t.2.length < 512 := by decide +kernel

theorem witness_eth_ports : let s := ethState ethCtx;
    ethRuns s 0 = true ∧ (ethPort s 0).up = true ∧ (ethCfg s 0).map (fun e => (e.v4, e.ip4.toNat)) = some (true, 0x0A000001) ∧ (ethPort s 7).up = false ∧
      ethExists s 7 = true ∧ cageOf s 0 = ⟨true, true⟩ ∧ s.module.pgMain = true := by decide +kernel

/-- A stook of context 1 at step 10, its parts and sections done, before its manifest, and before its seal line. -/
def stook0 (st : StookSt) : Stook :=
  { step := 10, base := 0x100000000000, ep := 0x20, st := st, emitted := [0], parts := true, boundary := true, hwW := 1, hwNt := 0, body := []
    unacked := 0, manifestSent := false, sealSent := false, seed := 7, dataPos := 0, nhs := 0 }
def stookCtx (st : StookSt) : Ctx := { ctx2 with peers := ethCtx.peers, stook := some (stook0 st), parts := [⟨true, 10, toBytes 64 55, false⟩] }

theorem witness_stook_puts : ∀ st ∈ [StookSt.opened, .complete], let x := stookCtx st; let s := ethState x;
    ctxOf s 1 = some x ∧ stookSide s 0x20 (homeSaddle x / 6) = some 0 ∧ (endpointOf s 0x20 (fun p => decide (p / 16 = 0))).map (·.port) = some 0 ∧
      (peerOf x 0x20).map (·.epoch) = some 2 ∧ (ethStream s (ethKey (engineId s) 0x20 1 0xD 2 0)).broken = false ∧
      (∀ p ∈ ownedBuckets plan1, p.1 ∈ (stook0 st).emitted) ∧ (sealOf x 10).isSome = true := by decide +kernel

/-- A valid seal part, and one of a bad length. -/
theorem witness_stook_part : ∀ len ∈ [64, 128], let t : Transfer := ⟨1, 4, false, true, 0x20, 10 + 2 * 2 ^ 32, 0x20001000, len, 0, false, none⟩;
    let x := { stookCtx .opened with parts := [] }; let s := { ethState x with eth := { (ethState x).eth with xfers := [t] } };
    ctxOf s 1 = some x ∧ s.eth.xfers.find? (fun t => t.ctx == 1 && t.stook && !t.ended) = some t ∧ (∀ u ∈ s.eth.xfers, u.ctx = 1 → u = t) ∧
      partOk t (viewBytes s x t.loff t.len) = decide (len = 64) ∧ x.parts = [] ∧ s.chans = [] := by decide +kernel

/-! ### The host, and the first commands -/

/-- A message with a code and arguments, as a core holds it. -/
def msg0 (code : Nat) (args : List Nat) : Msg :=
  { takeNo := 1, seq := 3, code := code, flags := 0, len := 14, cseq := 9, args := args.map (BitVec.ofNat 32), inHdr := List.replicate 32 0, inData := [] }
/-- The engine ready, with an agreement for the PF and the management port, and a host link. -/
def hostUp (s : State) : State :=
  { s with cairn := { s.cairn with engState := 5, nuarn := some ⟨7, 1, 3, 1⟩, ready := true, maelec := some ⟨0, 5, 0, 2, 0, []⟩ }
           agree := [(0, ⟨3, 0x3F⟩), (63, ⟨3, 0x3F⟩)], straps := { s.straps with sec := true }, pcie := { s.pcie with linkUp := true } }
/-- The same with a message at the front of a channel. -/
def withMsg (s : State) (n : Nat) (m : Msg) : State := setChan (hostUp s) n { Chan.init with queue := [m] }
def sheafA : Sheaf := ⟨1, 16, 8, 8, 8, false, [], none, 0, none, none, none, []⟩
def sheafState : State := { ctxState with sheaves := [(5, sheafA)] }

/-- A free and a busy channel, a message to take, to refuse and to answer from the journal. -/
theorem witness_mailbox :
    (∀ b ∈ [false, true], let c := { Chan.init with busy := b, data := [(0, 0x0E000102), (1, 7)], tmoLatched := 20000 }; let s := setChan (hostUp ctxState) 0 c;
      chanReach s 0 = true ∧ (chanOf s 0).busy = b ∧ c.timedOut = false ∧ c.tmoLatched ≠ 0 ∧ served s 0 = true ∧ c.await = none ∧ c.queue = [] ∧ c.irq = 0 ∧
        (∀ k ∈ chanSteward 0, (stewardOf s k).awake = true)) ∧
    (let c := { Chan.init with data := [(0, 0x0E000102), (1, 7)] }; knownCode (hostUp ctxState) (msgOf c 0).code = true ∧
      c.journal.find? (fun j => j.cseq == (msgOf c 0).cseq) = none) ∧
    (let c := { Chan.init with data := [(0, 0x00007777), (1, 8)] }; knownCode (hostUp ctxState) (msgOf c 0).code = false) ∧
    (let m := msg0 0x0102 [1]; let c := { Chan.init with queue := List.replicate 8 m }; 8 ≤ c.queue.length + c.replies.length) := by decide +kernel

/-- What `Head`, `Cmd` and `CtxReady` ask, to be decided. -/
abbrev HeadIs (s : State) (n : Nat) (m : Msg) : Prop :=
  headMsg s n = some m ∧ (chanOf s n).queue = [m] ∧ (chanOf s n).replyValid = false ∧ (chanOf s n).replies = [] ∧ (chanOf s n).irq = 0
abbrev CmdIs (s : State) (n : Nat) (m : Msg) (code : Nat) : Prop :=
  HeadIs s n m ∧ m.code = code ∧ preCheck s n m = none ∧ (chanOf s n).asm = none ∧ more m = false
abbrev ReadyIs (s : State) (n : Nat) (c : BitVec 8) (x : Ctx) : Prop :=
  ctxOf s c = some x ∧ fromOwner n x = true ∧ beingScrubbed s c = false ∧ x.closing = false ∧ ctxStatus x = none
theorem mk_head {s : State} {n : Nat} {m : Msg} (h : HeadIs s n m) : Head s n m := ⟨h.1, h.2.1, ⟨h.2.2.1, h.2.2.2.1⟩, h.2.2.2.2⟩
theorem mk_cmd {s : State} {n : Nat} {m : Msg} {code : Nat} (h : CmdIs s n m code) : Cmd s n m code := ⟨mk_head h.1, h.2.1, h.2.2.1, h.2.2.2.1, h.2.2.2.2⟩
theorem mk_ready {s : State} {n : Nat} {c : BitVec 8} {x : Ctx} (h : ReadyIs s n c x) : CtxReady s n c x := ⟨h.1, h.2.1, h.2.2.1, h.2.2.2.1, h.2.2.2.2⟩

/-- A staged part of a long message: the first, and one that does not fit. -/
def stagedMsg (off : Nat) : Msg :=
  { msg0 0x0401 [] with flags := 3, inHdr := toBytes 32 (128 * 2 ^ 64 + off * 2 ^ 96 + 64 * 2 ^ 128), inData := List.replicate 64 1 }
theorem witness_staged_part : ∀ q ∈ [0, 64], let s := withMsg ctxState 0 (stagedMsg q); let m := stagedMsg q; HeadIs s 0 m ∧ staged m = true ∧ more m = true ∧
    preCheck s 0 m = none ∧ (chanOf s 0).asm = none ∧ asmHeld s 0 + inPartLen m ≤ stewardAsmMax ∧
    addPart (chanOf s 0) m = (if q = 0 then some ⟨0x0401, 128, 0, List.replicate 64 1⟩ else none) := by decide +kernel

theorem witness_host_registers : let s := hostUp ctxState;
    chanReach s (312 + 0xF03C / 2 ^ 12) = true ∧ 0xF03C % 2 ^ 12 < 0x40 ∧ 0xF03C % 4 = 0 ∧ (chanOf s 327).busy = false ∧ s.pcie.linkUp = true ∧
      (0x3F03C / 2 ^ 12 = 63 ∧ 0x3F03C % 2 ^ 12 < 0x40) ∧ ctxOf s 1 = some ctx1 ∧ ctx1.window = true ∧ s.pcie.fifo.length < 1024 ∧
      (∀ v ∈ [2 ^ 28, 4 * 2 ^ 28 - 1], 1 ≤ v / 2 ^ 28 ∧ v / 2 ^ 28 ≤ 3) ∧ (tabGet s.pcie.vecs 64 MsixVec.init).masked = true ∧ 127 < vecCount 0 ∧ 7 < vecCount 62 := by
  decide +kernel

/-- Doorbells of context 1: EXTEND by the most the count allows and by one more, NOTIFY, SCHED_KICK. -/
def bellState (v : Nat) (x : Ctx) : State := let s := hostUp (setCtx ctxState 1 x); { s with pcie := { s.pcie with fifo := [⟨1, BitVec.ofNat 32 v⟩] } }
theorem witness_doorbells :
    (∀ m ∈ [1, 2 ^ 28 - 1], let x := { ctx2 with nextSub := 2 }; let s := bellState (2 ^ 28 + m) x; ctxOf s 1 = some x ∧ stewardServes s 1 = true ∧
      (stewardOf s 1).awake = true ∧ x.subs.getLast? = some sub1 ∧ sub1.no + 1 = x.nextSub ∧ sub1.finished = false ∧ sub1.cancelling = false ∧
      sub1.count + m < 2 ^ 32 ∧ ∀ u ∈ x.subs, u.no = sub1.no → u = sub1) ∧
    ({ sub1 with count := 2 ^ 32 - 1 }.count + 1 = 2 ^ 32) ∧ (ctx2.opener = .pf) ∧
    (let x := { ctx2 with sched := [⟨0, 10, none⟩] }; let s := viewPut (bellState (3 * 2 ^ 28) x) x (atSched + 80) 8 (10 * 2 ^ 32 + 5);
      (schedNow s x 10).isSome = true ∧ x.sched = [⟨0, 10, none⟩]) := by decide +kernel

/-- BAR2: the last byte of the page of context 255, the read index of the completion ring, the schedule ring's last line, and a byte before. -/
theorem witness_bar2 : let s := hostUp (setCtx (setCtx ctxState 1 ctx1) 255 ctx1); ctxOf s (BitVec.ofNat 8 ((2 ^ 28 - 1) / 2 ^ 20)) = some ctx1 ∧
    2 ^ 28 - 1 + 1 ≤ 2 ^ 28 ∧ ctxOf s (BitVec.ofNat 8 ((2 ^ 20 + cbCrRd) / 2 ^ 20)) = some ctx1 ∧ (2 ^ 20 + cbCrRd) % 2 ^ 20 = cbCrRd ∧
    (let o := atSched + 0x2000 - 64; atSched ≤ o ∧ o / 64 = (o + 64 - 1) / 64 ∧ o + 64 ≤ atSched + 0x2000) ∧ cbCrRd - 1 < cbCrRd ∧
    (cbCrRd + 8 < (cbCrRd + 8) + 1 ∧ cbCrRd + 8 < cbClipC) := by decide +kernel

theorem witness_function_resets : (hostUp ctxState).pcie.linkUp = true ∧ (hostUp ctxState).module.pgMain = true ∧ (1 : Nat) ≤ 62 := by decide +kernel

theorem witness_negotiation :
    (∀ q ∈ [(0x00030003, true), (0x00090004, false), (0x00010001, true)], let m := msg0 0x0101 [q.1, 0xFF, 0];
      (max 1 (argN m 2 % 2 ^ 16) ≤ min 3 (argN m 2 / 2 ^ 16) ↔ q.2 = true) ∧ argsOk m [(2, m32), (3, m32), (4, m32)] = true ∧
        fnHasCtx (withMsg { ctxState with ctxs := [] } 0 m) 0 = false) ∧
    fnHasCtx (withMsg ctxState 0 (msg0 0x0101 [0x00020001, 0xFF, 0])) 0 = true := by decide +kernel
theorem witness_hello : Cmd (withMsg ctxState 0 (msg0 0x0101 [0x00030003, 0xFF, 0])) 0 (msg0 0x0101 [0x00030003, 0xFF, 0]) 0x0101 := mk_cmd (by decide +kernel)
theorem witness_caps : Cmd (withMsg ctxState 327 (msg0 0x0102 [])) 327 (msg0 0x0102 []) 0x0102 := mk_cmd (by decide +kernel)

/-- CTX_OPEN of the lowest number, of a wanted one, with the fewest and too few slabs, of an open number. -/
theorem witness_ctx_open : ∀ l ∈ [[3, 0x410008, 5, 6, 0], [2 ^ 24 - 1, 0x4101DC, 5, 6, 0x1FF], [3, 0x410007, 5, 6, 0], [3, 0x410008, 5, 6, 0x101]], let m := msg0 0x0201 l;
    argsOk m [(2, 0xFFFFFF), (3, 0x7F01FF), (4, m32), (5, m32), (6, 0x1FF)] = true ∧ vectorOk 0 (argBits m 3 22 16) = true := by decide +kernel
theorem witness_ctx_open_cmd : Cmd (withMsg ctxState 0 (msg0 0x0201 [3, 0x410008, 5, 6, 0])) 0 (msg0 0x0201 [3, 0x410008, 5, 6, 0]) 0x0201 :=
  mk_cmd (by decide +kernel)
theorem witness_ctx_numbers : tabFind ctxState.ctxs 0 = none ∧ tabFind ctxState.ctxs 255 = none ∧ tabFind ctxState.ctxs 1 ≠ none ∧ 8 ≤ (freeSlabs ctxState 0).length ∧
    (476 ≤ (freeSlabs ctxState 23).length) ∧ (freeSlabs ctxState 0).length < 476 ∧ ctxState.spaced = [] := by decide +kernel
theorem witness_ctx_close : Cmd (withMsg ctxState 0 (msg0 0x0202 [1])) 0 (msg0 0x0202 [1]) 0x0202 := mk_cmd (by decide +kernel)
theorem witness_ctx_ready : CtxReady (withMsg sheafState 0 (msg0 0x0301 [1, 0x1010, 0x80010])) 0 1 ctx1 ∧ unfinished ctx1 = [] ∧ sheavesOf ctxState 1 = [] :=
  ⟨⟨by decide +kernel, by decide +kernel, by decide +kernel, rfl, by decide +kernel⟩, by decide +kernel⟩

/-- SHEAF_BIND of a rectangle that fits, at the far corner, of one that overlaps, and of one off the grid of 8. -/
theorem witness_sheaf_bind : ∀ q ∈ [(0x1010, 0x80010, true, false), (0xF8F8, 0x80008, true, false), (0x0808, 0x100010, true, true), (0x0804, 0x100010, false, true)],
    let m := msg0 0x0301 [1, q.1, q.2.1]; let x0 := argBits m 3 7 0; let y0 := argBits m 3 15 8; let w := argBits m 4 8 0; let h := argBits m 4 24 16;
    argsOk m [(2, 0x1FF), (3, 0xFFFF), (4, 0x1FF01FF)] = true ∧
      decide (x0 % 8 = 0 ∧ y0 % 8 = 0 ∧ w % 8 = 0 ∧ h % 8 = 0 ∧ 8 ≤ w ∧ 8 ≤ h ∧ x0 + w ≤ gridW sheafState ∧ y0 + h ≤ 256) = q.2.2.1 ∧
      sheafOverlap sheafState x0 y0 w h = q.2.2.2 ∧ (deepTiles sheafState).any (onRoute (gridW sheafState) x0 y0 w h) = false ∧ argBit m 2 8 = false := by
  decide +kernel
theorem witness_sheaf_bind_cmd : Cmd (withMsg sheafState 0 (msg0 0x0301 [1, 0x1010, 0x80010])) 0 (msg0 0x0301 [1, 0x1010, 0x80010]) 0x0301 := mk_cmd (by decide +kernel)
theorem witness_cotenant : Cmd (withMsg sheafState 0 (msg0 0x0303 [0x205, 0x800])) 0 (msg0 0x0303 [0x205, 0x800]) 0x0303 := mk_cmd (by decide +kernel)
/-- A second context, and every clause's mask. -/
theorem witness_cotenant_clauses : (∀ k ∈ [0, 1, 0xFFE, 0xFFF], argsOk (msg0 0x0303 [0x205, k]) [(2, 0xFFFF), (3, 0xFFF)] = true) ∧
    (let s := withMsg (setCtx sheafState 2 { ctx1 with slabMap := [] }) 0 (msg0 0x0303 [0x205, 0x800]); tabFind s.sheaves 5 = some sheafA ∧ hasFeature s 0 0 = true ∧
      (ctxOf s 2).isSome = true ∧ ctxStatus { ctx1 with slabMap := [] } = none ∧ beingScrubbed s 2 = false ∧ ctx1.graphs = [] ∧ ctx1.win.plan = none ∧
      sheafA.second = none) := by decide +kernel
theorem witness_release : Cmd (withMsg sheafState 0 (msg0 0x0302 [5])) 0 (msg0 0x0302 [5]) 0x0302 := mk_cmd (by decide +kernel)
theorem witness_release_clauses : (∀ c ∈ releaseCtxs sheafA false, workOn sheafState c 5 = false) ∧ argBit (msg0 0x0302 [0x105]) 2 8 = true ∧
    argsOk (msg0 0x0302 [0x105]) [(2, 0x1FF)] = true ∧ workOn (setCtx sheafState 2 ctx1) 2 5 = false := by decide +kernel

/-- A message of FW_UPDATE in parts, from the PF and from the management port, with its first part accepted there. -/
theorem witness_staged_firmware : ∀ n ∈ [0, 327], let m := { stagedMsg 0 with code := 0x0902 }; let s := withMsg ctxState n m;
    HeadIs s n m ∧ staged m = true ∧ more m = true ∧ preCheck s n m = none ∧ (chanOf s n).asm = none ∧ isSecure n = decide (n = 327) ∧
      bitOf (argN m 2) 31 = false ∧ inDest m = 0 ∧ (addPart (chanOf s n) m).isSome = true := by decide +kernel

/-- A window that is closed, a FIFO that is full, and a message repeated with its number. -/
theorem witness_doorbell_limits : (let x := { ctx1 with window := false }; let s := hostUp (setCtx ctxState 1 x); ctxOf s 1 = some x ∧ s.pcie.linkUp = true) ∧
    (let s := hostUp ctxState; let s := { s with pcie := { s.pcie with fifo := List.replicate 1024 ⟨1, 5⟩ } }; 1024 ≤ s.pcie.fifo.length ∧ ctxOf s 1 = some ctx1) ∧
    (let c := { Chan.init with data := [(0, 0x0E000102), (1, 7)], journal := [⟨7, 1, 2, [3], []⟩] };
      (c.journal.find? (fun j => j.cseq == (msgOf c 1).cseq)).map (·.status) = some 1) := by decide +kernel
/-- Doorbells with other operations, of a closed context, of a finished submission; NOTIFY with the vector open. -/
theorem witness_doorbells_refused : (∀ v ∈ [0, 4 * 2 ^ 28, 2 ^ 32 - 1], let s := bellState v ctx1; s.pcie.fifo = ⟨1, BitVec.ofNat 32 v⟩ :: [] ∧
      stewardAwake s (homeSteward 1) = true ∧ (BitVec.ofNat 32 v).toNat / 2 ^ 28 ∉ [1, 2, 3]) ∧
    (let s := { bellState (2 ^ 28 + 1) ctx1 with ctxs := [] }; ctxOf s 1 = none ∧ stewardAwake s (homeSteward 1) = true) ∧
    (let b := { sub1 with finished := true }; let x := { ctx2 with nextSub := 2, subs := [b] }; let s := bellState (2 ^ 28 + 1) x;
      ctxOf s 1 = some x ∧ x.subs.getLast? = some b ∧ b.no + 1 = x.nextSub) ∧
    (let s := bellState (2 * 2 ^ 28) ctx1; let s := { s with pcie := { s.pcie with vecs := [(65, { MsixVec.init with masked := false })] } };
      ctxOf s 1 = some ctx1 ∧ ctx1.opener = .pf ∧ (tabGet s.pcie.vecs ctx1.vector MsixVec.init).masked = false) := by decide +kernel
/-- HELLO to the boot responder. -/
theorem witness_hello_boot : let m := msg0 0x0101 [0x00030003, 0xFF, 0]; let s := withMsg ctxState 0 m;
    let s := { s with cairn := { s.cairn with ready := false, engState := 4 } }; CmdIs s 0 m 0x0101 ∧ s.cairn.ready = false := by decide +kernel
/-- A close that waits: for its EPOCH, and for a frame of the context at spur 0. -/
theorem witness_close_waits : let m := msg0 0x0202 [1];
    (let s := { withMsg ctxState 0 m with spaced := [1] }; CmdIs s 0 m 0x0202 ∧ (1 : Nat) ∈ s.spaced ∧ ctxOf s 1 = some ctx1) ∧
    (let f := spurFrame 0 true 0 { frameHdr0 0xD 1 0 0 0 5 with src := 0x10 };
      let s := withMsg { ctxState with links := [(3, { PortLink.init with outq := [f] })], cairn := { ctxState.cairn with engIdHi := 1 } } 0 m;
      let s := { s with cairn := { s.cairn with engIdHi := 1 } };
      CmdIs s 0 m 0x0202 ∧ spurSends s 1 0 = true ∧ ctxOf s 1 = some ctx1 ∧ fromOwner 0 ctx1 = true ∧ beingScrubbed s 1 = false) := by decide +kernel
/-- A co-tenant that waits for a task of the primary. -/
theorem witness_cotenant_waits : let t := { tile1 with slots := [(0, slot1)] };
    let s := withMsg (setTile (setCtx sheafState 2 { ctx1 with slabMap := [] }) (tileIx 17 9) t) 0 (msg0 0x0303 [0x205, 0x800]);
    CmdIs s 0 (msg0 0x0303 [0x205, 0x800]) 0x0303 ∧ tagsQuiet s sheafA = false ∧ tagsQuiet (withMsg sheafState 0 (msg0 0x0303 [0x205, 0x800])) sheafA = true ∧
      tabFind s.sheaves 5 = some sheafA ∧ ctxOf s 1 = some ctx1 := by decide +kernel
/-- A resilient sheaf. -/
theorem witness_resilient : let m := msg0 0x0301 [0x101, 0x1010, 0x80010]; let s := withMsg sheafState 0 m;
    CmdIs s 0 m 0x0301 ∧ ReadyIs s 0 1 ctx1 ∧ argBit m 2 8 = true ∧ fromPf 0 = true ∧ hasFeature s 0 1 = true := by decide +kernel

/-- GRAPH_CANCEL of the one unfinished submission, of none, and of a number never accepted. -/
def cancelState : State := setCtx sheafState 1 { ctx2 with nextSub := 2 }
theorem witness_cancel : Cmd (withMsg cancelState 0 (msg0 0x0403 [1, 1])) 0 (msg0 0x0403 [1, 1]) 0x0403 := mk_cmd (by decide +kernel)
theorem witness_cancel_clauses : (∀ k ∈ [0, 1, 2], argsOk (msg0 0x0403 [1, k]) [(2, 0x1FF), (3, m32)] = true) ∧
    (unfinished { ctx2 with nextSub := 2 }).filter (fun b => b.no == 1) ≠ [] ∧ (unfinished { ctx2 with nextSub := 2 }).filter (fun b => b.no == 0) = [] ∧
    (let x := { ctx2 with subs := [{ sub1 with cancelling := true }] };
      let s := setChan (hostUp (setCtx ctxState 1 x)) 0 { Chan.init with queue := [msg0 0x0403 [1, 1]], await := some (.cancel 1) };
      cancelSettled s 1 x = true ∧ s.spaced = [] ∧ s.sheaves = [] ∧ (chanOf s 0).await = some (.cancel 1)) ∧
    (let x := { ctx2 with reset := some ⟨4, 1, 0, true, false, [], 0, none, false, none, none⟩ }; (x.reset.map (·.waitEpoch)) = some true) := by decide +kernel

/-! ### Graphs, plans and peers -/

/-- An object of one task with one variant and one window. -/
def objBytes : List Byte :=
  toBytes 2 1 ++ toBytes 1 24 ++ toBytes 5 0 ++ toBytes 4 1 ++ toBytes 4 0 ++ toBytes 4 1 ++ toBytes 4 0 ++ toBytes 8 64 ++ toBytes 8 64 ++ toBytes 8 192 ++
    toBytes 16 0 ++ (toBytes 3 0 ++ toBytes 3 1 ++ toBytes 2 1 ++ toBytes 4 77 ++ List.replicate 84 0 ++ toBytes 8 (0x1000 * 2 ^ 18 + 7 * 2 ^ 36) ++
    List.replicate 24 0) ++ toBytes 8 0
def objLay : ObjLayout := ⟨0, 200, 200, 0, 0, 200, 0, 0, 200, 0, 200, 0, 200, [], 200, 0, 200, 0, [], []⟩
def loadMsg : Msg := msg0 0x0401 [0x501, 0x20000000, 0, 200]
/-- That object in the view of context 1, and the same with a wrong version. -/
def objState (b : Nat) (x : Ctx) : State := withMsg (viewWrite (setCtx sheafState 1 x) x 0x20000000 (BitVec.ofNat 8 b :: objBytes.drop 1)) 0 loadMsg
theorem witness_graph_load_cmd : ∀ b ∈ [1, 2], CmdIs (objState b ctx1) 0 loadMsg 0x0401 ∧ ReadyIs (objState b ctx1) 0 1 ctx1 := by decide +kernel
theorem witness_graph_load : argsOk loadMsg [(2, 0xFFFF), (3, m32), (4, 0xFFF), (5, m32)] = true ∧ staged loadMsg = false ∧
    (∀ q ∈ [(1, none), (2, some (1, 0))], let s := objState q.1 ctx1; let d := viewBytes s ctx1 (argN2 loadMsg 3) (argN loadMsg 5);
      tabFind s.sheaves 5 = some sheafA ∧ argN2 loadMsg 3 + argN loadMsg 5 ≤ viewSz ctx1 ∧ sectionsIn d objLay = true ∧
      (segPlace ctx1 (segSize (sectOf d 0 200) objLay)).isSome = true ∧
      loadErr s sheafA 1 ctx1 d objLay ((segPlace ctx1 (segSize (sectOf d 0 200) objLay)).getD 0) = q.2 ∧ hasFeature s 0 5 = true ∧ ctx1.graphs.length < 64 ∧
      granulesOf d objLay 1 = [] ∧ viewRead s ctx1 cbHwNt 2 + (newTids s ctx1 d objLay).length ≤ 16384) ∧
    64 ≤ (List.replicate 64 graph1).length := by decide +kernel

/-- GRAPH_SUBMIT of a new run, of one that follows the newest, of a count of 0, of one too many, and of an unknown graph. -/
def subCtx (k : Nat) : Ctx := { ctx2 with graphs := [{ graph1 with sheaf := 5 }], newest := [(5, 1)], nextSub := 2, subs := List.replicate k { sub1 with sheaf := 5 } }
def subState (k : Nat) (m : Msg) : State := withMsg (setCtx sheafState 1 (subCtx k)) 0 m
theorem witness_submit_cmd : ∀ k ∈ [0, 1, 16], let m := msg0 0x0402 [0x301, 12, 4];
    CmdIs (subState k m) 0 m 0x0402 ∧ ReadyIs (subState k m) 0 1 (subCtx k) := by decide +kernel
theorem witness_submit : (∀ l ∈ [[0x301, 12, 4], [0x301, 12, 0], [0x301, 12, 2 ^ 32 - 1], [0x1000401, 12, 1]],
      argsOk (msg0 0x0402 l) [(2, 0x1FFFFFF), (3, m32), (4, m32)] = true) ∧
    findGraph (subCtx 1) (argBits (msg0 0x0402 [0x301, 12, 4]) 2 23 8) = some { graph1 with sheaf := 5 } ∧
    findGraph (subCtx 1) (argBits (msg0 0x0402 [0x1000401, 12, 1]) 2 23 8) = none ∧
    (tabFind (subCtx 1).newest 5 = some 1 ∧ findSub (subCtx 1) 1 = some { sub1 with sheaf := 5 } ∧ sub1.first + w32 sub1.count = 12 ∧
      sub1.count + 4 < 2 ^ 32 ∧ 2 ^ 32 ≤ sub1.count + (2 ^ 32 - 1)) ∧
    extends? (subCtx 0) { graph1 with sheaf := 5 } 12 = none ∧ ((unfinished (subCtx 0)).filter (fun b => b.sheaf == 5)).length < 16 ∧
    extends? (subCtx 16) { graph1 with sheaf := 5 } 13 = none ∧ 16 ≤ ((unfinished (subCtx 16)).filter (fun b => b.sheaf == 5)).length := by decide +kernel
theorem witness_submission_load : let x := { ctx2 with subs := [sub1, { sub1 with no := 2, onTiles := false }] }; let s := hostUp (setCtx ctxState 1 x);
    ctxOf s 1 = some x ∧ stewardServes s 1 = true ∧ x.subs = [sub1] ++ { sub1 with no := 2, onTiles := false } :: [] := by decide +kernel
theorem witness_unload : ∀ q ∈ [true, false], let m := msg0 0x0404 [0x301]; let x := if q then { subCtx 0 with win := .init } else subCtx 1;
    let s := withMsg (setCtx sheafState 1 x) 0 m; CmdIs s 0 m 0x0404 ∧ ReadyIs s 0 1 x ∧ argsOk m [(2, 0xFFFFFF)] = true ∧
      findGraph x 3 = some { graph1 with sheaf := 5 } ∧ (unfinished x).any (fun b => b.graph == 3) = !q ∧ (q = true → x.win.plan = none) := by decide +kernel

/-- A plan of one rank, which owns one bucket of one block; its tables follow the header. -/
def planBytes : List Byte :=
  toBytes 2 1 ++ toBytes 1 0 ++ toBytes 1 1 ++ toBytes 1 12 ++ toBytes 1 0xA ++ toBytes 2 0 ++ toBytes 2 4 ++ toBytes 2 2 ++ toBytes 8 0 ++ toBytes 4 10 ++
    toBytes 8 0x200000C0 ++ toBytes 8 0 ++ toBytes 8 0x20000100 ++ toBytes 8 0 ++ toBytes 8 0x20010000 ++ toBytes 8 0x20000080 ++ toBytes 56 0 ++
    toBytes 64 0x10 ++ (toBytes 2 0 ++ toBytes 2 1 ++ toBytes 3 0 ++ toBytes 3 1 ++ toBytes 2 1 ++ toBytes 16 0 ++ toBytes 4 7) ++ toBytes 32 0 ++
    (toBytes 4 0 ++ toBytes 4 9 ++ toBytes 2 0 ++ toBytes 2 4 ++ toBytes 4 32 ++ toBytes 8 0 ++ toBytes 8 0x20001000 ++ toBytes 8 0x20002000 ++
      toBytes 8 0x20003000 ++ toBytes 8 0x20004000 ++ toBytes 8 0x20005000)
def planMsg (a : Nat) : Msg := msg0 0x0501 [1, 0x20000000 + a, 0]
/-- That plan in the view of a context whose sheaf holds the port tiles of spur 0, which it owns, and whose group 0 has an optimiser; `v`: the version byte. -/
def planState (v : Nat) (x : Ctx) (a : Nat) : State :=
  let s := setCtx { ctxState with sheaves := (List.range 8).map (fun k => (k, { sheafA with x0 := 32 * k + 8, y0 := 8, w := 16, h := 16 })), engine := some engTab } 1 x
  let s := { s with cairn := { s.cairn with engIdHi := 1 }, spurs := [(0, ⟨4, some 1, 0x20, 0, 0, 4⟩)] }
  withMsg (viewWrite (viewWrite s x atGroups [1, 0]) x 0x20000000 (BitVec.ofNat 8 v :: planBytes.drop 1)) 0 (planMsg a)
theorem witness_plan_cmd : ∀ q ∈ [(1, 0), (2, 0), (1, 64)], let s := planState q.1 ctx1 q.2;
    CmdIs s 0 (planMsg q.2) 0x0501 ∧ ReadyIs s 0 1 ctx1 ∧ argsOk (planMsg q.2) [(2, 0xFF), (3, m32), (4, 0xFFF)] = true ∧ staged (planMsg q.2) = false := by
  decide +kernel
theorem witness_plan : let off := 0x20000000;
    off + 64 + 128 ≤ viewSz ctx1 ∧ off % 64 = 0 ∧ planBusy ctx1 = false ∧ (viewSz ctx1 - 128) % 64 = 0 ∧
    (let s := planState 1 ctx1 0; let h := viewBytes s ctx1 off 128; let r := readPlan s ctx1 h; fld h 0 2 = 1 ∧ planHdrOk ctx1 h = true ∧
      planErr s 1 ctx1 r (planOf r) = none ∧ hasFeature s 0 2 = true ∧ planNoRes s 1 ctx1 (planOf r) = false ∧ ownedBuckets (planOf r) ≠ []) ∧
    (let s := { planState 1 ctx1 0 with sheaves := [] }; let h := viewBytes s ctx1 off 128; let r := readPlan s ctx1 h;
      planErr s 1 ctx1 r (planOf r) = some (0x13, 0)) ∧
    fld (viewBytes (planState 2 ctx1 0) ctx1 off 128) 0 2 ≠ 1 ∧ (1 : Nat) % 64 ≠ 0 := by decide +kernel
theorem witness_plan_busy : ∀ x ∈ [ctx2, { stookCtx .opened with subs := [] }, { ctx2 with subs := [] }, ctx1], let m := msg0 0x0501 [0x101];
    let s := withMsg (setCtx sheafState 1 x) 0 m; CmdIs s 0 m 0x0501 ∧ ReadyIs s 0 1 x ∧ argsOk m [(2, 0x1FF)] = true ∧ argBit m 2 8 = true ∧ staged m = false ∧
      (planBusy x = (!(unfinished x).isEmpty || x.stook.isSome)) ∧ (x.win.plan = none ↔ x = ctx1) := by decide +kernel

/-- An engine table of no routes and no endpoints, its ports unused; `id`: the ID. -/
def engBytes (id : Nat) : List Byte := toBytes 4 1 ++ toBytes 4 id ++ toBytes 34 0 ++ toBytes 2 7240 ++ List.replicate (20 + 4096) 0
/-- The last part of that table, the rest of which a channel holds. -/
def engMsg (id : Nat) : Msg :=
  { msg0 0x0502 [0] with flags := 1, inHdr := toBytes 32 (4160 * 2 ^ 64 + 4096 * 2 ^ 96 + 64 * 2 ^ 128), inData := (engBytes id).drop 4096 }
def engState (s : State) (n id : Nat) : State :=
  let s := withMsg s n (engMsg id)
  updChan s n (fun c => { c with asm := some ⟨0x0502, 4160, 0, (engBytes id).take 4096⟩ })
theorem mk_staged {s : State} {n : Nat} {m : Msg} {y : Assembly} (h : Machine.staged m = true ∧ addPart (chanOf s n) m = some y ∧ y.data.length = y.total ∧
    asmHeld s n + inPartLen m ≤ stewardAsmMax ∧ y.dest = 0) : StagedWhole s n m y := ⟨h.1, h.2.1, h.2.2.1, h.2.2.2.1, h.2.2.2.2⟩
set_option maxRecDepth 20000 in
/-- From the PF with an ID that fits. -/
theorem witness_engine_table : let s := engState { ctxState with ctxs := [] } 0 0x10; let m := engMsg 0x10;
    HeadIs s 0 m ∧ m.code = 0x0502 ∧ more m = false ∧ (∀ a ∈ (chanOf s 0).asm, a.code = 0x0502) ∧ argsOk m [(2, 0xFF01)] = true ∧ argBit m 2 0 = false ∧
      preCheck s 0 m = none ∧ fromPf 0 = true ∧ Machine.staged m = true ∧
      (addPart (chanOf s 0) m).map (fun y => (decide (y.data.length = y.total), y.dest, engErr s y.data)) = some (true, 0, none) ∧
      asmHeld s 0 + inPartLen m ≤ stewardAsmMax ∧ s.ctxs = [] ∧ anyAttached s = false ∧ (engineId s).toNat / 16 = 0 := by
  decide +kernel
/-- Of another slot, of ID 0, and while a context is open. -/
theorem witness_engine_table_refused : let s := hostUp ctxState; (∀ id ∈ [0x11, 0], fld (engBytes id) 4 4 = id ∧ engErr s (engBytes id) = some (0x21, 0)) ∧
    s.ctxs ≠ [] ∧ (engineId s).toNat ≠ 0x10 := by decide +kernel
/-- From a virtual function. -/
theorem witness_engine_table_vf : let s := { engState ctxState 64 0x10 with agree := [(1, ⟨3, 0x3F⟩)] }; let m := engMsg 0x10;
    HeadIs s 64 m ∧ (∀ a ∈ (chanOf s 64).asm, a.code = 0x0502) ∧ preCheck s 64 m = none ∧ fromPf 64 = false ∧ (addPart (chanOf s 64) m).isSome = true := by
  decide +kernel

/-- A context's table of one peer and no bindings. -/
def ctxTabBytes (v : Nat) : List Byte := toBytes 2 v ++ toBytes 2 1 ++ toBytes 2 0 ++ toBytes 2 1 ++ toBytes 8 0x20000400 ++ toBytes 4 64 ++ toBytes 44 0 ++
  toBytes 8 (0x20 + 3 * 2 ^ 24)
theorem witness_context_table : ∀ v ∈ [1, 2], let m := msg0 0x0502 [0x101, 0x20000000, 0];
    let s := withMsg (viewWrite (setCtx sheafState 1 ctx1) ctx1 0x20000000 (ctxTabBytes v)) 0 m; let off := argN2 m 3;
    let d := viewBytes s ctx1 off (ctxTabLen (viewBytes s ctx1 off 64));
    CmdIs s 0 m 0x0502 ∧ ReadyIs s 0 1 ctx1 ∧ argsOk m [(2, 0xFF01), (3, m32), (4, 0xFFF)] = true ∧ argBit m 2 0 = true ∧ Machine.staged m = false ∧
      off + ctxTabLen (viewBytes s ctx1 off 64) ≤ viewSz ctx1 ∧ ctxTabErr s 1 ctx1 d = (if v = 1 then none else some (0x21, 0)) ∧
      streamsNamed s 1 + nPeer d ≤ 32768 := by decide +kernel
/-- Nine contexts whose tables name 4096 peers each leave no room. -/
theorem witness_context_table_full : let t := { peerTab with peers := List.replicate 4096 ⟨0x20, 3, 2⟩ }; let y := { ctx1 with peers := some t };
    32768 < streamsNamed { ctxState with ctxs := (1, ctx1) :: (List.range 8).map (fun k => (k + 2, y)) } 1 + 1 := by decide +kernel

/-- A table that gives up spur 0, at which a frame of the context still stands. -/
theorem witness_context_table_waits : let f := spurFrame 0 true 0 { frameHdr0 0xD 1 0 0 0 5 with src := 0x10 };
    let s := spurState0 4 peerCtx .trained; let s := setLink s 3 { linkOf s 3 with outq := [f] };
    ownerStays s 1 0 = true ∧ ownerStays s 1 1 = false ∧ ownerStays (spurState0 4 peerCtx .trained) 1 0 = false := by decide +kernel

/-! ### Service and trust commands -/

/-- FIELD_TEST of a sheaf at rest and of one under test, from the PF and from a virtual function; and its two events. -/
def testState (t : Option (Nat × Bool × Bool)) (n : Nat) (m : Msg) : State := withMsg { ctxState with sheaves := [(5, { sheafA with testing := t })] } n m
theorem witness_field_test : ∀ q ∈ [(none, 0x3), (some (1, false, true), 0x3), (none, 0)], let m := msg0 0x0701 [5, q.2]; let s := testState q.1 0 m;
    CmdIs s 0 m 0x0701 ∧ fromPf 0 = true ∧ tabFind s.sheaves 5 = some { sheafA with testing := q.1 } ∧ ReadyIs s 0 1 ctx1 ∧
      argsOk m [(2, 0xFF), (3, 0x3F)] = true ∧ (argBits m 3 5 0 = 0 ↔ q.2 = 0) := by decide +kernel
theorem witness_field_test_vf : let m := msg0 0x0701 [5, 1]; let s := { testState none 64 m with agree := [(1, ⟨3, 0x3F⟩)] };
    CmdIs s 64 m 0x0701 ∧ fromPf 64 = false := by decide +kernel
theorem witness_field_test_events : (∀ q ∈ [false, true], let b := { sheafA with testing := some (3, q, true) }; let s := testState b.testing 0 (msg0 0 []);
      tabFind s.sheaves 5 = some b ∧ (∀ c ∈ sheafCtxs b, atRest s 5 b c = true) ∧ inSheafOf b (tileIx 17 9) = true) ∧
    (let b := { sheafA with testing := some (3, false, true) }; let s := { ethState (stookCtx .opened) with sheaves := [(5, b)] };
      ∃ c ∈ sheafCtxs b, atRest s 5 b c = false) ∧ (1#6).toNat &&& 3 = (1#6).toNat ∧ (1#6).toNat % 16 ≠ 0 := by decide +kernel

/-- POWER_POLICY at the ends of its ranges. -/
theorem witness_power_policy : (∀ q ∈ [[0, 0], [120, 10], [280, 0x11B], [119, 0], [281, 0], [0, 9], [0, 28]], let m := msg0 0x0801 q; let s := withMsg ctxState 0 m;
      CmdIs s 0 m 0x0801 ∧ fromPf 0 = true ∧ argsOk m [(2, 0xFFFF), (3, 0x11F)] = true) ∧
    (let m := msg0 0x0801 [0, 0]; let s := { withMsg ctxState 64 m with agree := [(1, ⟨3, 0x3F⟩)] }; CmdIs s 64 m 0x0801 ∧ fromPf 64 = false) := by decide +kernel

/-- FALLOW of a sheaf in each mode, of one with work, and of rectangles that are free, bound and off the grid. -/
theorem witness_fallow_sheaf : (∀ k ∈ [0, 1, 2, 3], let m := msg0 0x0802 [0x500 + 2 ^ 16 * k, 0, 0]; let s := withMsg sheafState 0 m;
      CmdIs s 0 m 0x0802 ∧ argBit m 2 0 = false ∧ tabFind s.sheaves 5 = some sheafA ∧ ReadyIs s 0 1 ctx1 ∧
      argsOk m [(2, 0x3FF01), (3, 0xFFFF), (4, 0x1FF01FF)] = true) ∧
    (∀ c ∈ sheafCtxs sheafA, workOn sheafState c 5 = false) ∧ (∀ i ∈ rectTiles 24 8 8 8, deepBlocked { sheafState with sheaves := [(5, { sheafA with x0 := 24 })] } (some 5) i = false) ∧
    (∃ c ∈ sheafCtxs sheafA, workOn (setCtx { ctxState with sheaves := [(0, sheafA)] } 1 ctx2) c 0 = true) ∧
    (rectTiles 16 8 8 8).find? (deepBlocked sheafState (some 5)) ≠ none := by decide +kernel
theorem witness_fallow_rectangle : (∀ q ∈ [(0x10001, 0x0820, 0x80008), (0x20001, 0xF8F8, 0x80008), (0x1, 0x0820, 0x80008), (0x10001, 0x0810, 0x80008), (0x30001, 0x0820, 0x80008),
      (0x10001, 0x0824, 0x80008)], let m := msg0 0x0802 [q.1, q.2.1, q.2.2]; let s := withMsg sheafState 0 m;
      CmdIs s 0 m 0x0802 ∧ argBit m 2 0 = true ∧ argsOk m [(2, 0x3FF01), (3, 0xFFFF), (4, 0x1FF01FF)] = true ∧ fromPf 0 = true) ∧
    (∀ i ∈ rectTiles 32 8 8 8, boundTile sheafState i = false) ∧ (∀ i ∈ rectTiles 248 248 8 8, boundTile sheafState i = false) ∧
    (rectTiles 16 8 8 8).find? (fun i => boundTile sheafState i || (decide ((1 : Nat) = 2) && deepBlocked sheafState none i)) = some (tileIx 16 8) ∧
    248 + 8 ≤ gridW sheafState := by decide +kernel

/-- LOG_READ of the fault log, of the event log, of a context's log, of no log, and of a count out of range; and from a virtual function. -/
def logState (n : Nat) (m : Msg) : State := withMsg (logCairn (logCairn ctxState 0x0701 none 5) 0x0702 (some 3) 9) n m
theorem witness_log_read : (∀ q ∈ [[1, 1, 63], [3, 0, 1], [0x102, 0, 5], [0, 0, 1], [5, 0, 1], [1, 0, 64], [1, 0, 0]], let m := msg0 0x0A01 q; let s := logState 0 m;
      CmdIs s 0 m 0x0A01 ∧ fromPf 0 = true ∧ argsOk m [(2, 0xFFFF), (3, m32), (4, m32)] = true) ∧
    (let m := msg0 0x0A01 [1, 0, 1]; let s := { logState 64 m with agree := [(1, ⟨3, 0x3F⟩)] }; CmdIs s 64 m 0x0A01 ∧ fromPf 64 = false) ∧
    argBits (msg0 0x0A01 [0x102]) 2 7 0 = 2 ∧ ctxOf (logState 0 (msg0 0 [])) (BitVec.ofNat 8 (argBits (msg0 0x0A01 [0x102]) 2 15 8)) = some ctx1 ∧
    fromOwner 0 ctx1 = true ∧ ctx1.closing = false := by decide +kernel
/-- ATTEST of a new report, of a later part, of one past the end and of one off the grid of parts. -/
theorem witness_attest : ∀ q ∈ [0, 2016, 4032, 5], let m := msg0 0x0901 [1, 2, 3, 4, 5, 6, 7, 8, q];
    let s := updChan (withMsg ctxState 0 m) 0 (fun c => { c with report := List.replicate 2017 1 });
    CmdIs s 0 m 0x0901 ∧ argN m 10 = q ∧ (chanOf s 0).report.length = 2017 ∧ s.cairn.meas.length = 8 ∧
      argsOk m [(2, m32), (3, m32), (4, m32), (5, m32), (6, m32), (7, m32), (8, m32), (9, m32), (10, m32)] = true := by decide +kernel

/-- A last and only part of a structure of 128 bytes. -/
def wholeMsg (code : Nat) (args : List Nat) : Msg :=
  { msg0 code args with flags := 1, inHdr := toBytes 32 (128 * 2 ^ 64 + 128 * 2 ^ 128), inData := List.replicate 128 3 }
theorem witness_fw_update : (∀ q ∈ [(327, 0), (327, 1), (0, 1)], let m := wholeMsg 0x0902 [q.2]; let s := withMsg ctxState q.1 m;
      HeadIs s q.1 m ∧ m.code = 0x0902 ∧ more m = false ∧ (chanOf s q.1).asm = none ∧ argsOk m [(2, 1)] = true ∧ Machine.staged m = true ∧
      addPart (chanOf s q.1) m = some ⟨0x0902, 128, 0, List.replicate 128 3⟩ ∧ asmHeld s q.1 + inPartLen m ≤ stewardAsmMax ∧ preCheck s q.1 m = none ∧
      isSecure q.1 = decide (q.1 = 327) ∧ s.cairn.maelec.map (·.image) = some 0 ∧ (fwRefusal s (List.replicate 128 3)).isSome = true) ∧
    (∀ q ∈ [(327, 0x80000000), (327, 0x80000001), (0, 0x80000000)], let m := msg0 0x0902 [q.2]; let s := withMsg ctxState q.1 m;
      CmdIs s q.1 m 0x0902 ∧ dbgClose m = true ∧ Machine.staged m = false ∧ argsOk m [(2, 0x80000000)] = decide (q.2 = 0x80000000)) := by decide +kernel

/-- The last part of a Nuarn image of 16,416 bytes, the rest of which the channel holds. -/
def nuarnMsg : Msg :=
  { msg0 0x0F01 [] with flags := 1, inHdr := toBytes 32 (16416 * 2 ^ 64 + 16352 * 2 ^ 96 + 64 * 2 ^ 128), inData := List.replicate 64 0 }
def nuarnState (e : Nat) (u : Option Nuarn) : State :=
  let s := withMsg { ctxState with ctxs := [] } 327 nuarnMsg
  { updChan s 327 (fun c => { c with asm := some ⟨0x0F01, 16416, 0, List.replicate 16352 0⟩ }) with
    cairn := { s.cairn with engState := e, nuarn := u, ready := u.isSome } }
set_option maxRecDepth 100000 in
theorem witness_nuarn_load : ∀ q ∈ [(4, true), (5, false)], let s := nuarnState q.1 (if q.2 then none else some ⟨7, 1, 3, 1⟩); let m := nuarnMsg;
    HeadIs s 327 m ∧ m.code = 0x0F01 ∧ more m = false ∧ (∀ a ∈ (chanOf s 327).asm, a.code = 0x0F01) ∧ argsOk m [] = true ∧ Machine.staged m = true ∧
      (addPart (chanOf s 327) m).map (fun y => (decide (y.data.length = y.total), y.dest, fld y.data 0 4)) = some (true, 0, 0) ∧
      asmHeld s 327 + inPartLen m ≤ stewardAsmMax ∧ preCheck s 327 m = none ∧ nuarnWaits s 327 = false ∧ nuarnHdr < inTotal m ∧
      s.cairn.maelec = some ⟨0, 5, 0, 2, 0, []⟩ := by decide +kernel

/-! ### The cores, errors and repair -/

def coreState : State := withMsg sheafState 1 (msg0 0x0102 [])
theorem witness_stewards : (∀ e ∈ [4, 5], let s := { coreState with cairn := { coreState.cairn with engState := e, ready := false } };
      s.cairn.nuarn ≠ none ∧ s.cairn.ready = false ∧ s.cairn.engState = e) ∧
    (∀ k, k < 4 → stewardRuns coreState k = true) ∧ recentDeaths coreState 3 = 0 ∧ coreState.cairn.engState ≠ 15 ∧
    (let s := { coreState with cairn := { coreState.cairn with ms := 59999, stewards := [(1, { stewardOf coreState 1 with deaths := [0, 1] })] } };
      2 ≤ recentDeaths s 1 ∧ stewardRuns s 1 = true) ∧
    (let s := { coreState with cairn := { coreState.cairn with ms := 60000, stewards := [(1, { stewardOf coreState 1 with deaths := [0, 1] })] } };
      recentDeaths s 1 < 2) ∧
    (let s := { coreState with cairn := { coreState.cairn with stewards := [(1, { stewardOf coreState 1 with restarting := true })] } };
      (stewardOf s 1).restarting = true ∧ stewardRuns s 1 = false ∧ chanSteward 1 = some 1 ∧ (chanOf s 1).queue = [msg0 0x0102 []] ∧
        (chanOf s 1).replyValid = false ∧ (chanOf s 1).replies = []) ∧
    coreState.cairn.ready = true ∧ stewardBusy coreState 2 = false ∧ stewardBusy coreState 1 = true := by decide +kernel
theorem witness_cairn_faults : accessOk 1 0 8 .flash = false ∧ (∃ t ∈ [CairnTarget.ownSram, .carveOut 1, .mailbox 1], accessOk 1 0 8 t = true) ∧
    workingChan coreState 1 = some 1 ∧ HeadIs coreState 1 (msg0 0x0102 []) ∧ coreState.module.rst = false ∧ coreState.cairn.maelec ≠ none ∧
    coreState.module.pgMain = true ∧ State.reset.module.rst = true := by decide +kernel

/-- A tile error of context 1 reported at row 77 of a tile, the first of the hour and the second. -/
def rec1 : LogRec := ⟨0x0201, 0, 0x810, some 1, none, none, 77, 0⟩
def ueState (r : LogRec) (errs : List (Nat × Nat × Nat × Nat)) : State := { coreState with reports := [r], cairn := { coreState.cairn with errs := errs } }
theorem witness_error_reports : (let s := ueState rec1 []; s.module.rst = false ∧ s.cairn.maelec ≠ none ∧ s.reports = rec1 :: [] ∧ ctxOf s 1 = some ctx1 ∧
      ctx1.reset = none ∧ s.spaced = [] ∧ (noteErr s 1 rec1.index rec1.arg).2 < 2) ∧
    (let r := { rec1 with ctx := none }; let s := ueState r [(1, 0x810, 77, 0)]; 2 ≤ (noteErr s 1 r.index r.arg).2 ∧ (tileOf s r.index).failed = false) ∧
    (∀ k ∈ [0, 1], let r := { rec1 with kind := 0x0203, arg := k }; (ueState r []).reports = [r] ∧ r.arg < 2) ∧
    (∀ f ∈ [4, 5], let x := { ctx2 with faults := [⟨1, 10, 3, 0, f⟩], itemLogs := [10] }; let s := hostUp (setCtx sheafState 1 x);
      ctxOf s 1 = some x ∧ x.faults = ⟨1, 10, 3, 0, f⟩ :: [] ∧ stewardServes s 1 = true ∧ x.reset = none ∧ (10#32) ∈ x.itemLogs) := by decide +kernel

/-- Resets of context 1 that are due a plan: of nothing, of two submissions of which one has retired an instance ahead, and of a lost bucket. -/
def due (imp : Option Nat) : Reset := ⟨4, 1, 0, false, false, [], 0, imp, false, none, none⟩
def planX (subs : List Submission) : Ctx := { ctx2 with reset := some (due none), subs := subs }
def replayX : Ctx := planX [{ sub1 with retired := [(0, [])], done := 0, count := 5 }, { sub1 with no := 2, first := 15, done := 1, retired := [(1, [0])] }]
theorem witness_replay_plan : (∀ x ∈ [planX [{ sub1 with retired := [], done := 0 }], replayX, planX [{ sub1 with graph := 9 }]], let s := hostUp (setCtx sheafState 1 x);
      ctxOf s 1 = some x ∧ x.reset = some (due none) ∧ planDue s 1 (due none) = true ∧
      (noReplay (planFrom s 1 x (due none)) (planCtx x (due none)) 1 (planStep x (due none)) (membersOf (planCtx x (due none))) = none ↔ x.subs ≠ [{ sub1 with graph := 9 }]) ∧
      (membersOf (planCtx x (due none)) ≠ [] ↔ x = replayX)) ∧
    planDue coreState 1 (due (some 4)) = false := by decide +kernel

/-- A spur waited for, a tile probed that has answered and one that has not, and the mapping that follows. -/
theorem witness_repair_timeouts : (∀ st ∈ [3, 4], let s := { setCtx ctxState 1 { ctx1 with quiesced := [.spur 0] } with spurs := [(0, ⟨st, none, 0x20, 0, 0, 4⟩)] };
      (spurState s 0 = spurAttached ↔ st = 4) ∧ ctxOf s 1 = some { ctx1 with quiesced := [.spur 0] }) ∧
    (∀ l ∈ [[], [(0x810, false)], [(0x810, true)]], let s := { coreState with cairn := { coreState.cairn with probing := [0x810], probeSeen := l } };
      0x810 ∈ s.cairn.probing ∧ ((0x810, false) ∈ s.cairn.probeSeen ↔ l = [(0x810, false)]) ∧ (tileOf s 0x810).power = .run ∧ s.cairn.engState = 5) ∧
    (let s := { coreState with cairn := { coreState.cairn with engState := 6, oos := some (.remap 8 false) } };
      s.cairn.oos = some (.remap 8 false) ∧ s.module.pgMain = true ∧ s.module.phase = .up ∧ tabFind s.sheaves 5 = some sheafA) ∧
    State.reset.module.pgMain = false := by decide +kernel

/-! ### Standby, power and control -/

/-- Standby power not yet good. -/
def stbyOffState : State := { State.reset with module := { State.reset.module with stbyGood := false } }
theorem witness_standby : State.reset.module.rst = true ∧ State.reset.module.stbyGood = true ∧ stbyOffState.module.stbyGood = false ∧
    coreState.module.rst = false ∧ (0x8912#16).getLsbD 15 = true ∧ hdrValid (hdrOf State.reset.flash0) = false := by decide +kernel
theorem witness_boot_choice : ∀ q ∈ [(0x0000, 0), (0x0001, 1), (0x0002, 2), (0x0003, 3)],
    (match exec (.stbyRstRelease (BitVec.ofNat 16 q.1) 0) State.reset with
      | .next s => s.straps.boot
      | _ => 9) = q.2 := by decide +kernel

def atEng (n : Nat) : State := { coreState with cairn := { coreState.cairn with engState := n } }
/-- The engine under a warm restart, its tables in HBM sound and damaged. -/
def restartState (bad : Bool) : State :=
  { atEng 2 with cairn := { (atEng 2).cairn with restart := some true }, hbmBad := if bad then [(2 ^ 36 + 472 * 2 ^ 27) / 64] else [] }
theorem witness_start_up : (∀ k ∈ [1, 2, 3, 5], (atEng k).cairn.engState = k) ∧ (atEng 2).cairn.restart = none ∧
    (∀ b ∈ [true, false], (restartState b).cairn.restart = some true ∧ (restartState b).cairn.engState = 2 ∧ tablesOk (restartState b) = !b) ∧
    coreState.cairn.maelec = some ⟨0, 5, 0, 2, 0, []⟩ ∧
    (let s := { State.reset with module := { State.reset.module with rst := false }, straps := { State.reset.straps with boot := 3 } };
      s.module.rst = false ∧ s.straps.boot = 3 ∧ s.cairn.engState = 0 ∧ imageFail s.shadow (svnCount s.shadow) [] [] ≠ none) := by decide +kernel

/-- The image runs and main power is off; then with MAIN_EN high. -/
def offState (en : Bool) : State :=
  { State.reset with module := { State.reset.module with rst := false, mainEn := en }, cairn := { State.reset.cairn with maelec := some ⟨0, 5, 0, 2, 0, []⟩ } }
theorem witness_main_power : (∀ b ∈ [true, false], let s := offState b; s.module.rst = false ∧ s.cairn.maelec ≠ none ∧ s.cairn.engState = 0 ∧ s.module.phase = .off ∧
      s.module.mainEn = b ∧ s.module.eoffWait = false ∧ s.module.phase ≠ .precharge) ∧
    ({ offState true with module := { (offState true).module with phase := .precharge } }.module.phase = .precharge) := by decide +kernel
theorem witness_powered : (Powered coreState ∧ coreState.module.phase ≠ .orderly) ∧ ¬ Powered (offState true) := by
  unfold Powered
  decide +kernel
theorem witness_trips : (∀ q ∈ [(1, 11500), (2, 11000), (3, 10500), (4, 1999), (5, 0)], tripped q.1 q.2 = true) ∧
    (∀ q ∈ [(1, 11499), (2, 10999), (3, 10499), (4, 2000), (6, 20000)], tripped q.1 q.2 = false) ∧ (4500 : Nat) < 4501 ∧ (3999 : Nat) < 4000 := by decide +kernel
theorem witness_thermal : tileUp runState 0 = true ∧ (tileOf runState 0).hot = false ∧ (tileOf runState 0).power = .run ∧
    (let s := setTile upState 0 { tile1 with hot := true }; tileUp s 0 = true ∧ (tileOf s 0).hot = true) ∧ coreState.module.pgMain = true ∧
    coreState.module.rst = false ∧ coreState.module.phase ≠ .off := by decide +kernel

/-- The loop with its limiter at a level and idle, with and without a window that ran high, and the sum of its windows at and above 0.98 of the cap. -/
def loopState (level sum : Nat) (hi : Bool) : State :=
  { coreState with module := { coreState.module with level := level, winHigh := hi, winSum := sum, winN := 100, loopCap := 280, levelZeroMs := 9, fgMs := 9, fg := 20 } }
theorem witness_loop : (∀ q ∈ [(7, true), (1, false)], let s := loopState q.1 0 q.2; s.module.pgMain = true ∧ stewardServes s 0 = true ∧ s.module.level > 0 ∧ s.module.winHigh = q.2) ∧
    (let s := loopState 0 (98 * 280 * 100 + 1) false; s.module.level = 0 ∧ 98 * loopCapNow s * s.module.winN < s.module.winSum) ∧
    (let s := loopState 0 (98 * 280 * 100) false; s.module.winSum ≤ 98 * loopCapNow s * s.module.winN ∧ s.module.fg < s.module.fmax) := by decide +kernel
theorem witness_telemetry : coreState.module.rst = false ∧ coreState.cairn.maelec ≠ none ∧ coreState.module.stbyGood = true ∧ coreState.module.stbyOff = false ∧
    (0xFC ≤ 0xFC ∧ 0xFC % 4 = 0) ∧ (0xFC < 0x100 ∧ 0xFE % 4 ≠ 0) := by decide +kernel

/-- Item data lost in a ring buffer, a hard fault, an image that has been in service, and a loop whose shots are warm and cool. -/
theorem witness_error_loop : (∀ s ∈ [hostUp (setCtx sheafState 1 ctx2)], s.module.rst = false ∧ s.cairn.maelec ≠ none ∧ s.module.pgMain = true ∧
      ctxOf s 1 = some ctx2 ∧ (2 : Nat) % 4 = 2 ∧ currentSteps ctx2 ≠ [] ∧ s.cairn.engState ≠ 6 ∧ s.cairn.engState ≠ 15) ∧
    (∀ b ∈ [true, false], let s := { atEng 6 with cairn := { (atEng 6).cairn with wasReady := b } }; s.cairn.wasReady = b ∧ s.cairn.maelec ≠ none ∧
      s.shadow.svn = s.fuses.svn) ∧
    (let s := loopState 0 0 false; let s := { s with module := { s.module with ceil := [(3, 15), (4, 15), (5, 27)] } };
      shotCeil s 3 = 15 ∧ shotCeil s 4 < s.module.fg ∧ s.module.fg ≤ shotCeil s 5 ∧ ∀ q ∈ s.module.ceilMs, q.1 = 4 → q.2 ≤ 1) := by decide +kernel

/-! ### Stooks -/

/-- STOOK_TAKE of a good base and endpoint, of another base, of an unknown endpoint, and of a context without a plan. -/
def storeState (x : Ctx) (n : Nat) (m : Msg) : State := withMsg { setCtx sheafState 1 x with engine := some engTab } n m
theorem witness_stook_take : (∀ q ∈ [[1, 4, 12, 0x20, 0, 0x1000], [1, 4, 12, 0x20, 0, 0x1001], [1, 4, 12, 0x21, 0, 0x1000]], let m := msg0 0x0601 q;
      ∀ x ∈ [ctx2, ctx1], let s := storeState x 0 m; CmdIs s 0 m 0x0601 ∧ ReadyIs s 0 1 x ∧ hasFeature s 0 3 = true ∧
        argsOk m [(2, 0xFF), (3, m32), (4, m32), (5, 0xFFFFFF), (6, m32), (7, m32)] = true ∧ (argN2 m 6 % 2 ^ 44 = 0 ↔ q.getD 5 0 = 0x1000) ∧
        (endpointOf s (BitVec.ofNat 24 (argN m 5)) (fun _ => true) = none ↔ q.getD 3 0 = 0x21)) ∧ ctx2.win.plan = some plan1 ∧ ctx1.win.plan = none ∧
    hasFeature { storeState ctx2 0 (msg0 0 []) with agree := [(0, ⟨3, 0⟩)] } 0 3 = false := by decide +kernel
/-- STOOK_VERIFY where nothing was restored, where the seal part is to come, and where it is held. -/
theorem witness_stook_verify : ∀ x ∈ [ctx2, { ctx2 with restored := some (10, some 5) }, { stookCtx .complete with restored := some (10, some 5) },
      { stookCtx .complete with restored := some (10, some 55) }], let m := msg0 0x0603 [1]; let s := storeState x 0 m;
    CmdIs s 0 m 0x0603 ∧ ReadyIs s 0 1 x ∧ hasFeature s 0 3 = true ∧ argsOk m [(2, 0xFF)] = true ∧ s.sheaves.length ≤ 256 ∧
      ((sealOf x 10).map (fun p => leNat (p.data.take 4)) = if x.stook.isSome then some 55 else none) := by decide +kernel

/-- A manifest of step 7 with its five sections. -/
def sects : List (List Byte) := [List.replicate 64 0, List.replicate 512 3, List.replicate 128 0, List.replicate 8 1, List.replicate 36 2]
def sectDigests : List Nat := [0, 13561590745599799436, 15442639380544143888, 3773162944466032940, 3614637503503103288]
def manBody : List Byte :=
  let b := toBytes 4 0xA7E50E01 ++ toBytes 4 1 ++ toBytes 4 7 ++ toBytes 20 0 ++ toBytes 8 99 ++ List.replicate 216 0 ++ (List.range 5).flatMap (fun k =>
    toBytes 8 (k * 2 ^ 20) ++ toBytes 8 (sects.getD k []).length ++ toBytes 8 (sectDigests.getD k 0) ++ toBytes 8 0)
  b ++ List.replicate (4064 - b.length) 0
def manBytes : List Byte := manBody ++ sha256 manBody
def restX : Ctx := { ctx2 with subs := [] }
def restMsg (a : Nat) : Msg := msg0 0x0602 [a, 0x20, 0, 0, 0, 0]
theorem witness_restore_cmd : ∀ x ∈ [restX, ctx2, ctx1], ∀ a ∈ [1, 0x101], let s := storeState x 0 (restMsg a);
    CmdIs s 0 (restMsg a) 0x0602 ∧ ReadyIs s 0 1 x ∧ hasFeature s 0 3 = true ∧
      argsOk (restMsg a) [(2, 0x1FF), (3, 0xFFFFFF), (4, m32), (5, m32), (6, m32), (7, m32)] = true ∧ (unfinished x = [] ↔ x ≠ ctx2) ∧ x.reset = none ∧
      argN2 (restMsg a) 6 = 0 ∧ endpointOf s 0x20 (fun _ => true) ≠ none ∧ s.spaced = [] := by decide +kernel
theorem manBody_length : manBody.length = 4064 := by decide +kernel
theorem witness_restore_manifest : manifestOk (storeState restX 0 (restMsg 1)) manBytes = true := by
  have hd : manBytes.drop 4064 = sha256 manBody := by simp [manBytes, ← manBody_length]
  have ht : manBytes.take 4064 = manBody := by simp [manBytes, ← manBody_length]
  have hl : manBytes.length = 4096 := by simp [manBytes, manBody_length]
  have h0 : fld manBytes 0 4 = 0xA7E50E01 := by decide +kernel
  have h1 : fld manBytes 4 2 = 1 := by decide +kernel
  have h2 : fld manBytes 12 4 = (engineId (storeState restX 0 (restMsg 1))).toNat := by decide +kernel
  simp [manifestOk, hd, ht, hl, h0, h1, h2]
theorem witness_restore_fits : manifestFits (storeState restX 0 (restMsg 1)) restX plan1 manBytes (sects.getD 2 []) = true := by decide +kernel
theorem witness_restore_streams : hostStreams (sects.getD 0 []) = [] ∧ streamClash [] [] = none :=
  ⟨by decide +kernel, by simp [streamClash]⟩
set_option maxRecDepth 100000 in
theorem witness_restore_sections : ∀ k ∈ [2, 3, 4], (sectEntry manBytes k).2.1 = (sects.getD k []).length ∧
    (sectEntry manBytes k).2.2 = secDigest (memWriteBytes [] (sectEntry manBytes k).1 (sects.getD k [])) (sectEntry manBytes k).1 (sects.getD k []).length := by
  decide +kernel

/-! ### The machine as a whole -/

theorem witness_trust : TrustInv State.reset ∧ memWf State.reset.hbm = true :=
  ⟨⟨by decide +kernel, fun _ h => h, by decide +kernel, by decide +kernel, by decide +kernel⟩, by decide +kernel⟩
theorem witness_trust_step : let s := { coreState with pending := [.mainEnLow] }; memWf s.hbm = true ∧
    (match step s with
      | .next _ => true
      | _ => false) = true := by decide +kernel
/-- Idle states: before an image runs, after main power-up, and during an orderly power-down with and without a stook to move. -/
theorem witness_idle : State.reset.pending = [] ∧ State.reset.module.phase ≠ .orderly ∧ State.reset.module.pgMain = false ∧
    (let s := { atEng 0 with cairn := { (atEng 0).cairn with compOk := false }, straps := { (atEng 0).straps with boot := 0 } }; s.pending = [] ∧ s.module.pgMain = true ∧ s.cairn.engState = 0 ∧ s.straps.boot ≠ 2 ∧
      compValid (hdrOf s.flash0) (compOf s.flash0) = false) ∧
    (∀ b ∈ [true, false], let s := { atEng 6 with module := { (atEng 6).module with phase := .orderly }, cairn := { (atEng 6).cairn with oos := some (.powerDown b) } };
      s.pending = [] ∧ s.module.phase = .orderly ∧ s.cairn.engState ≠ 0 ∧ s.cairn.oos = some (.powerDown b) ∧ ∀ p ∈ s.ctxs, stookMoves p.2 = false) ∧
    stookMoves (stookCtx .opened) = true := by decide +kernel

def maxOp (int : Bool) : UOp := ⟨0, 64, 0, 0, false, 1, 0, .vmax 3 1 2 int, [], [], 0, [], 0⟩
def maxTile (int : Bool) : Tile :=
  { tile1 with vec := some (maxOp int), v := [(1, BitVec.ofNat 512 (0x7F800001 + 0x80000000 * 2 ^ 32 + 0x3F800000 * 2 ^ 64)), (2, BitVec.ofNat 512 (1 + 0x40000000 * 2 ^ 64))] }
theorem witness_vector_maximum : ∀ int ∈ [true, false], let s := setTile upState 0 (maxTile int); tileUp s 0 = true ∧ (tileOf s 0).pendLoad = none ∧
    (tileOf s 0).vec = some (maxOp int) ∧ (0x7F800001#32).toNat % 2 ^ 31 > 0x7F800000 ∧ lane (tabGet (tileOf s 0).v 1 0) 0 = 0x7F800001 ∧
    lane (tabGet (tileOf s 0).v 1 0) 1 = 0x80000000 := by decide +kernel
theorem witness_malformed_packets : ∀ p ∈ [{ pkt1 with cls := 2 }, { pkt1 with fmt := 14 }, { pkt1 with rsv := 1 }, { pkt1 with line := 0xC00 }],
    let s := setTile upState 0 { tile1 with mesh := { tile1.mesh with eject := [p, pkt1] } };
    routerUp s 0 = true ∧ (tileOf s 0).mesh.eject = p :: [pkt1] ∧ (tileOf s 0).evq = [] ∧ s.eventLog.recs = [] ∧
      (p.cls ∉ [0x0, 0x1, 0x4, 0x5, 0x8, 0x9, 0xC, 0xD] ∨ 0xE ≤ p.fmt ∨ p.rsv ≠ 0 ∨ 0x30000 ≤ 64 * p.line) := by decide +kernel

/-- A header with a reserved bit, HCRC made to match. -/
def rsvHdr (bit : Nat) : BitVec 256 :=
  let v := mkHdr (frameHdr0 0xD 1 0 0 0 5) ||| (1#256 <<< bit)
  v.extractLsb' 0 224 |> fun b => (BitVec.ofNat 32 (crc32c (toBytes 28 b.toNat)) ++ b)
def malformedFrames : List RawFrame :=
  let f := spurFrame 0 true 0 (frameHdr0 0xD 1 0 0 0 5)
  [spurFrame 0 true 0 (frameHdr0 0xC 1 0 0 0 5), spurFrame 0 true 0 { frameHdr0 0xD 1 0 0 0 5 with fmt := 14 }, spurFrame 2 true 0 (frameHdr0 0xD 1 0 0 257 5),
    { f with hdr := rsvHdr 100 }, { f with hdr := rsvHdr 91 }, { f with hdr := rsvHdr 63 }]
set_option maxRecDepth 20000 in
theorem witness_malformed_frames : let s := spurState0 4 peerCtx .trained; spurState s (0 / 8) = 4 ∧
    (∀ f ∈ malformedFrames, lwOk f.lw = true ∧ (lwKind f.lw = 0 ∨ lwKind f.lw = 2) ∧ lwPool f.lw < 6 ∧ lwSq f.lw = true ∧
      lwLseq f.lw = ((linkOf s 0).rxLast + 1) % 2 ^ 16 ∧ hcrcOk f.hdr = true ∧
      (lwKind f.lw = 0 ∧ hCls f.hdr ∉ [0x0, 0x4, 0x5, 0x8, 0x9, 0xD] ∨ hFmt f.hdr = 0xE ∨ hFmt f.hdr = 0xF ∨ 256 < hNline f.hdr ∨
        f.hdr.extractLsb' 100 4 ≠ 0 ∨ f.hdr.extractLsb' 91 5 ≠ 0 ∨ f.hdr.extractLsb' 60 4 ≠ 0)) ∧
    (let f := spurFrame 0 true 0 (frameHdr0 0xD 1 0 0 0 5); lwOk (f.lw ^^^ 1) = false) ∧ lwKind (mkLw 3 true 0 0) = 3 ∧ lwPool (mkLw 0 true 6 0) = 6 := by
  decide +kernel
theorem witness_engine_identity : (let s := { spurState0 4 peerCtx .trained with straps := { State.reset.straps with slot := 0 } }; s.ctxs ≠ [] ∧ spurState s 0 = 4 ∧
      0x10 = (engineId s).toNat) ∧ (engineId State.reset).toNat / 16 = 0 := by decide +kernel

end Sys2Proof.Tests
end

section
/-! The event log after a record is written (R436, R437), what a tile's event leaves of the tile (R208), and O58, the discard of a
malformed mesh packet (R189). -/
namespace Sys2Proof.Claim
open Sys2Proof.Machine

/-! ### Tiles while the logs are written -/

@[simp] theorem tileOf_raiseVec (s : State) (fn n j : Nat) : tileOf (raiseVec s fn n) j = tileOf s j := by
  unfold raiseVec
  dsimp only
  split <;> rfl

@[simp] theorem tileOf_setEvt (s : State) (mask j : Nat) : tileOf (setEvt s mask) j = tileOf s j := by
  unfold setEvt
  dsimp only
  split
  · rfl
  · rw [tileOf_raiseVec]; rfl

@[simp] theorem tileOf_logRec (s : State) (r : LogRec) (j : Nat) : tileOf (logRec s r) j = tileOf s j := by
  unfold logRec
  dsimp only
  split
  · rw [tileOf_setEvt]; rfl
  · split
    · split <;> rfl
    · rfl

@[simp] theorem tileOf_foldl_logRec (l : List LogRec) (s : State) (j : Nat) : tileOf (l.foldl logRec s) j = tileOf s j := by
  induction l generalizing s with
  | nil => rfl
  | cons r l ih => rw [List.foldl_cons, ih, tileOf_logRec]

@[simp] theorem tileOf_putTile_self (s : State) (i : Nat) (t : Tile) : tileOf (putTile s i t) i = { t with evq := [] } := by
  simp [putTile]

@[simp] theorem tileOf_ownItem (s : State) (c : BitVec 8) (j : Nat) : tileOf (ownItem s c) j = tileOf s j := by
  unfold ownItem updCtx
  split <;> rfl

@[simp] theorem eventLog_ownItem (s : State) (c : BitVec 8) : (ownItem s c).eventLog = s.eventLog := by
  unfold ownItem updCtx
  split <;> rfl

/-! ### The record that a log write leaves (R437) -/

theorem mem_ringAdd (n : Nat) (l : LogRing) (r : LogRec) : r ∈ (ringAdd n l r).recs := by
  unfold ringAdd
  dsimp only
  split <;> simp

theorem sameOccurrence_fields {a b : LogRec} (h : sameOccurrence a b = true) : a.kind = b.kind ∧ a.ctx = b.ctx ∧ a.ms = b.ms := by
  simp only [sameOccurrence, Bool.and_eq_true, beq_iff_eq] at h
  obtain ⟨⟨⟨⟨⟨hkind, -⟩, -⟩, hms⟩, hctx⟩, -⟩ := h
  exact ⟨hkind, hctx, hms⟩

/-- A merge counts the occurrence in a record of its own kind and context. -/
theorem mergeRec_some {r : LogRec} {l l' : List LogRec} (h : mergeRec r l = some l') :
    ∃ x ∈ l', x.kind = r.kind ∧ x.ctx = r.ctx := by
  induction l generalizing l' with
  | nil => simp [mergeRec] at h
  | cons y l ih =>
    unfold mergeRec at h
    split at h
    · next same =>
      obtain ⟨hkind, hctx, -⟩ := sameOccurrence_fields same
      obtain rfl := Option.some.inj h
      exact ⟨_, List.mem_cons_self, hkind, hctx⟩
    · obtain ⟨m, hm, rfl⟩ := Option.map_eq_some_iff.mp h
      obtain ⟨x, hx, hfields⟩ := ih hm
      exact ⟨x, List.mem_cons_of_mem y hx, hfields⟩

/-- An occurrence merges with no record of another millisecond. -/
theorem mergeRec_none {r : LogRec} {l : List LogRec} (h : ∀ x ∈ l, x.ms ≠ r.ms) : mergeRec r l = none := by
  induction l with
  | nil => rfl
  | cons y l ih =>
    have hy : ¬ sameOccurrence y r = true := fun same =>
      let ⟨_, _, hms⟩ := sameOccurrence_fields same
      h y List.mem_cons_self hms
    simp [mergeRec, hy, ih fun x hx => h x (List.mem_cons_of_mem y hx)]

theorem hasRec_event {s : State} {kind : Nat} {c : Option (BitVec 8)} (hk : 0x1000 ≤ kind) :
    HasRec s kind c ↔ ∃ r ∈ s.eventLog.recs, r.kind = kind ∧ r.ctx = c := by
  rw [HasRec, if_neg (by omega)]

/-- A record with the present Cairn time, as `logRec` writes it. -/
def stamped (s : State) (r : LogRec) : LogRec := { r with ms := s.cairn.ms % 2 ^ 32 }

/-- An event merges into the log, or is added to it with its ARG bits above bit 31. -/
theorem logRec_event_cases (s : State) {r : LogRec} (hk : 0x1000 ≤ r.kind) :
    mergeRec (stamped s r) s.eventLog.recs = some (logRec s r).eventLog.recs ∨
    ∃ x ∈ (logRec s r).eventLog.recs, x.kind = r.kind ∧ x.index = r.index ∧ x.ctx = r.ctx ∧ x.arg / 2 ^ 32 = r.arg / 2 ^ 32 := by
  unfold logRec
  dsimp only
  rw [if_neg (by omega)]
  split
  · split
    · next merged => exact .inl merged
    · exact .inr ⟨_, mem_ringAdd _ _ _, rfl, rfl, rfl, by dsimp only; omega⟩
  · exact .inr ⟨_, mem_ringAdd _ _ _, rfl, rfl, rfl, rfl⟩

/-- Whether merged or added, an event stands in the event log under its kind and context. -/
theorem hasRec_logRec (s : State) {r : LogRec} (hk : 0x1000 ≤ r.kind) : HasRec (logRec s r) r.kind r.ctx := by
  rw [hasRec_event hk]
  obtain merged | ⟨x, hx, hkind, -, hctx, -⟩ := logRec_event_cases s hk
  · exact mergeRec_some (r := stamped s r) merged
  · exact ⟨x, hx, hkind, hctx⟩

/-- The first event of a millisecond is added to the log. -/
theorem logRec_first {s : State} {r : LogRec} (hk : 0x1000 ≤ r.kind) (hms : ∀ x ∈ s.eventLog.recs, x.ms ≠ s.cairn.ms % 2 ^ 32) :
    ∃ x ∈ (logRec s r).eventLog.recs, x.kind = r.kind ∧ x.index = r.index ∧ x.arg / 2 ^ 32 = r.arg / 2 ^ 32 := by
  obtain merged | ⟨x, hx, hkind, hindex, -, harg⟩ := logRec_event_cases s hk
  · have unmerged : mergeRec (stamped s r) s.eventLog.recs = none := mergeRec_none hms
    simp [unmerged] at merged
  · exact ⟨x, hx, hkind, hindex, harg⟩

/-! ### A tile's event (R208) -/

/-- An event of a tile takes a number of its island's sequence and adds its record to what the tile hands to the log. -/
theorem tileEvent_eq (e : Env) (core : Bool) (kind : Nat) (c : Option (BitVec 8)) (arg : Nat) (t : Tile) : ∃ (a b : Nat) (r : LogRec),
    tileEvent e core kind c arg t = { t with coreSeq := a, routerSeq := b, evq := t.evq ++ [r] } ∧
      r.kind = kind ∧ r.index = e.me ∧ r.ctx = c ∧ r.arg = arg := by
  cases core <;> exact ⟨_, _, _, rfl, rfl, rfl, rfl, rfl⟩

/-- The log of an item changes its tile in nothing but the sequence counters and the records that wait there. -/
theorem tileOf_itemLog (s : State) (i kind : Nat) (c : BitVec 8) (arg : Nat) :
    ∃ a b : Nat, tileOf (itemLog s i kind c arg) i = { tileOf s i with coreSeq := a, routerSeq := b, evq := [] } := by
  obtain ⟨a, b, r, heq, -⟩ := tileEvent_eq (envOf s i) ((tileOf s i).power == .run) kind (some c) arg (tileOf s i)
  exact ⟨a, b, by simp [itemLog, tileLog, heq]⟩

/-- The event log after the log of an item: the records that waited at the tile are written, then the item's own. -/
theorem eventLog_itemLog (s : State) (i kind : Nat) (c : BitVec 8) (arg : Nat) : ∃ (t : Tile) (r : LogRec),
    (itemLog s i kind c arg).eventLog = (logRec ((tileOf s i).evq.foldl logRec (setTile s i t)) r).eventLog ∧
      r.kind = kind ∧ r.index = i ∧ r.ctx = some c ∧ r.arg = arg := by
  obtain ⟨a, b, r, heq, hr⟩ := tileEvent_eq (envOf s i) ((tileOf s i).power == .run) kind (some c) arg (tileOf s i)
  refine ⟨{ tileOf s i with coreSeq := a, routerSeq := b, evq := [] }, r, ?_, hr⟩
  simp only [itemLog, tileLog, putTile, heq, eventLog_ownItem, List.foldl_append, List.foldl_cons, List.foldl_nil]

theorem hasRec_itemLog (s : State) (i : Nat) {kind : Nat} (c : BitVec 8) (arg : Nat) (hk : 0x1000 ≤ kind) :
    HasRec (itemLog s i kind c arg) kind (some c) := by
  obtain ⟨t, r, hlog, rfl, -, hctx, -⟩ := eventLog_itemLog s i kind c arg
  rw [hasRec_event hk, hlog, ← hctx, ← hasRec_event hk]
  exact hasRec_logRec _ hk

/-- The log of an item, the first event of its millisecond, carries the item's tile and its ARG bits above bit 31. -/
theorem itemLog_first {s : State} {i kind : Nat} (c : BitVec 8) (arg : Nat) (hk : 0x1000 ≤ kind)
    (hq : (tileOf s i).evq = []) (hms : ∀ x ∈ s.eventLog.recs, x.ms ≠ s.cairn.ms % 2 ^ 32) :
    ∃ x ∈ (itemLog s i kind c arg).eventLog.recs, x.kind = kind ∧ x.index = i ∧ x.arg / 2 ^ 32 = arg / 2 ^ 32 := by
  obtain ⟨t, r, hlog, rfl, rfl, -, rfl⟩ := eventLog_itemLog s i kind c arg
  rw [hlog, hq]
  exact logRec_first (s := setTile s r.index t) hk hms

/-! ### A malformed packet (R189) -/

theorem malformedPkt_iff (p : Pkt) : malformedPkt p = true ↔
    p.cls ∉ [0x0, 0x1, 0x4, 0x5, 0x8, 0x9, 0xC, 0xD] ∨ 0xE ≤ p.fmt ∨ p.rsv ≠ 0 ∨ 0x30000 ≤ 64 * p.line := by
  have hline : 0xC00 ≤ p.line ↔ 0x30000 ≤ 64 * p.line := by omega
  simp [malformedPkt, classKnown, hline, or_assoc]

/-- A state whose tile has the given packets left to eject. -/
def withEject (s : State) (i : Nat) (l : List Pkt) : State :=
  setTile s i { tileOf s i with mesh := { (tileOf s i).mesh with eject := l } }

theorem tileOf_withEject (s : State) (i : Nat) (l : List Pkt) :
    tileOf (withEject s i l) i = { tileOf s i with mesh := { (tileOf s i).mesh with eject := l } } :=
  tileOf_setTile_self ..

/-- A malformed packet at the head leaves the router, and its item is logged. -/
theorem meshArrival_malformed {s : State} {i : Nat} {p : Pkt} {rest : List Pkt} (hup : routerUp s i = true)
    (hq : (tileOf s i).mesh.eject = p :: rest) (hm : malformedPkt p = true) :
    meshArrival s i = itemLog (withEject s i rest) i 0x1101 p.ctx (hdrArg p) := by
  simp [meshArrival, withEject, hup, hq, takeFirst, takePacket, hm]

/-- Settles O58: the arrival takes the packet off the queue and is otherwise the log of the item (R189, R437), which leaves the
tile's memory, counts and slots alone. -/
theorem malformedPackets : Obligations.MalformedPackets := by
  intro s i p rest hup hq hcase
  refine ⟨itemLog (withEject s i rest) i 0x1101 p.ctx (hdrArg p),
    congrArg Host.Outcome.next (meshArrival_malformed hup hq ((malformedPkt_iff p).mpr hcase)), ?_⟩
  obtain ⟨a, b, htile⟩ := tileOf_itemLog (withEject s i rest) i 0x1101 p.ctx (hdrArg p)
  rw [tileOf_withEject] at htile
  dsimp only
  rw [htile]
  refine ⟨rfl, rfl, rfl, rfl, rfl, rfl, hasRec_itemLog _ i p.ctx (hdrArg p) (by decide), fun hevq hms => ?_⟩
  have hevq' : (tileOf (withEject s i rest) i).evq = [] := by rw [tileOf_withEject]; exact hevq
  exact itemLog_first p.ctx (hdrArg p) (by decide) hevq' hms

end Sys2Proof.Claim
end

section
/-! The reply to the one message of a channel (R400, R404), the engine form of PEER_TABLE (R371), what the detach of a spur leaves alone
(R366), and O60, the rules of the engine's ID (R364). -/
namespace Sys2Proof.Claim
open Sys2Proof.Machine

/-! ### Tables: what is unlisted, written over, or put in order -/

theorem tabFind_tabDel {α : Type} (t : Tab α) (i j : Nat) : tabFind (tabDel t i) j = if j = i then none else tabFind t j := by
  induction t with
  | nil => simp [tabDel]
  | cons p t ih =>
    obtain ⟨k, x⟩ := p
    by_cases hk : k = i
    · have hdel : tabDel ((k, x) :: t) i = tabDel t i := by simp [tabDel, hk]
      by_cases hj : j = i
      · rw [hdel, ih, if_pos hj, if_pos hj]
      · rw [hdel, ih, if_neg hj, if_neg hj, tabFind, if_neg fun hkj => hj (hkj.symm.trans hk)]
    · have hdel : tabDel ((k, x) :: t) i = (k, x) :: tabDel t i := by simp [tabDel, hk]
      rw [hdel, tabFind, tabFind, ih]
      by_cases hkj : k = j
      · simp [hkj, show j ≠ i from hkj ▸ hk]
      · simp [hkj]

theorem tabGet_tabPut {α : Type} [DecidableEq α] (t : Tab α) (i j : Nat) (d v : α) :
    tabGet (tabPut t i d v) j d = if j = i then v else tabGet t j d := by
  unfold tabPut
  split
  · next hv => by_cases hj : j = i <;> simp [tabGet, tabFind_tabDel, hj, hv]
  · by_cases hj : j = i
    · simp [hj]
    · simp [hj, tabGet_tabSet_ne _ _ _ _ _ (Ne.symm hj)]

/-- Words put into registers one after the other, from register `k` on. -/
theorem tabGet_foldl_tabPut (ws : List W32) (k i : Nat) (t : Tab W32) :
    tabGet ((ws.zipIdx k).foldl (fun t p => tabPut t p.2 0 p.1) t) i 0 = if k ≤ i then (ws[i - k]?).getD (tabGet t i 0) else tabGet t i 0 := by
  induction ws generalizing k t with
  | nil => simp
  | cons w ws ih =>
    rw [List.zipIdx_cons, List.foldl_cons, ih, tabGet_tabPut]
    obtain hlt | rfl | hgt := Nat.lt_trichotomy i k
    · rw [if_neg (show ¬ k + 1 ≤ i by omega), if_neg (Nat.ne_of_lt hlt), if_neg (Nat.not_le.mpr hlt)]
    · rw [if_neg (Nat.not_succ_le_self i), if_pos rfl, if_pos (Nat.le_refl i), Nat.sub_self]
      rfl
    · obtain ⟨e, rfl⟩ := Nat.exists_eq_add_of_lt hgt
      rw [if_pos (show k + 1 ≤ k + e + 1 by omega), if_neg (show k + e + 1 ≠ k by omega), if_pos (Nat.le_of_lt hgt),
        show k + e + 1 - k = e + 1 by omega, show k + e + 1 - (k + 1) = e by omega, List.getElem?_cons_succ]

theorem tabSet_tabSet {α : Type} (t : Tab α) (i : Nat) (v w : α) : tabSet (tabSet t i v) i w = tabSet t i w := by
  induction t with
  | nil => simp [tabSet]
  | cons p t ih =>
    obtain ⟨k, x⟩ := p
    obtain hlt | rfl | hgt := Nat.lt_trichotomy i k
    · simp [tabSet, hlt]
    · simp [tabSet]
    · simp [tabSet, Nat.not_lt.mpr (Nat.le_of_lt hgt), Nat.ne_of_gt hgt, ih]

theorem setChan_setChan (s : State) (n : Nat) (c d : Chan) : setChan (setChan s n c) n d = setChan s n d := by
  simp [setChan, tabSet_tabSet]

/-! ### The answer to the one message of a channel -/

/-- The running core of a channel holds one message, with every reply read and no interrupt enabled. -/
structure Serves (s : State) (n : Nat) (m : Msg) : Prop where
  queue : (chanOf s n).queue = [m]
  unread : (chanOf s n).replyValid = false
  waiting : (chanOf s n).replies = []
  quiet : (chanOf s n).irq = 0
  running : served s n = true

theorem served_of_headMsg {s : State} {n : Nat} {m : Msg} (h : headMsg s n = some m) : served s n = true := by
  unfold headMsg at h
  dsimp only at h
  split at h
  · split at h
    · next hcond =>
      obtain ⟨⟨hserved, -⟩, -⟩ : (served s n = true ∧ _) ∧ _ := by simpa only [Bool.and_eq_true] using hcond
      exact hserved
    · cases h
  · cases h

theorem serves_of_head {s : State} {n : Nat} {m : Msg} (h : Head s n m) : Serves s n m :=
  ⟨h.only, h.read.1, h.read.2, h.quiet, served_of_headMsg h.now⟩

/-- The reply registers with a reply in them. -/
def replyRegs (r : Reply) : Tab W32 :=
  tabPut (((w32 (2 ^ 16 * r.detail + r.status) :: r.cseq :: r.body).zipIdx).foldl (fun t p => tabPut t p.2 0 p.1) []) 15 0 r.last

/-- A channel whose one waiting reply is written. -/
def writtenChan (c : Chan) (r : Reply) : Chan :=
  { c with reply := replyRegs r, rseq := r.seq, replyValid := true, replies := []
           outBuf := if r.out.isEmpty then [] else memWriteBytes (memWrite [] 0 4 r.out.length) 32 r.out }

/-- The reply that carries an answer to a message. -/
def replyOf (m : Msg) (a : Ans) : Reply := ⟨m.seq, m.cseq, a.status, a.detail, a.body, 0, a.out⟩

/-- A channel after the answer to its one message. -/
def answeredChan (c : Chan) (m : Msg) (a : Ans) : Chan :=
  writtenChan { c with queue := [], await := none, journal := journalAdd c.journal ⟨m.cseq, a.status, a.detail, a.body, a.out⟩ } (replyOf m a)

/-- Below register 15 the reply registers hold the reply's words in order (R397). -/
theorem tabGet_replyRegs (r : Reply) {i : Nat} (hi : i ≠ 15) :
    tabGet (replyRegs r) i 0 = ((w32 (2 ^ 16 * r.detail + r.status) :: r.cseq :: r.body)[i]?).getD 0 := by
  rw [replyRegs, tabGet_tabPut, if_neg hi, tabGet_foldl_tabPut, if_pos (Nat.zero_le i)]
  rfl

theorem chanIrq_quiet {s : State} {n : Nat} (h : (chanOf s n).irq = 0) (bit : Nat) : chanIrq s n bit = s := by
  simp [chanIrq, h, bitOf]

theorem replying_of_served {s : State} {n : Nat} (h : served s n = true) : replying s n = true := by
  simp [replying, h]

/-- A core that serves a channel writes its one waiting reply, and no interrupt follows (R400). -/
theorem writeReply_one {s : State} {n : Nat} {c : Chan} {r : Reply} (hunread : c.replyValid = false) (hone : c.replies = [r])
    (hquiet : c.irq = 0) (hrunning : served s n = true) : writeReply (setChan s n c) n = setChan s n (writtenChan c r) := by
  have hreplying : replying (setChan s n c) n = true := replying_of_served hrunning
  unfold writeReply
  simp only [chanOf_setChan_self, hunread, hreplying, hone, setChan_setChan]
  exact chanIrq_quiet (by rw [chanOf_setChan_self]; exact hquiet) 1

/-- An answer writes the channel and nothing else. -/
theorem answer_eq {s : State} {n : Nat} {m : Msg} (h : Serves s n m) (a : Ans) :
    answer s n a = setChan s n (answeredChan (chanOf s n) m a) := by
  obtain ⟨hqueue, hunread, hwaiting, hquiet, hrunning⟩ := h
  have hone : answerOne s n true a 0 = setChan s n (answeredChan (chanOf s n) m a) := by
    unfold answerOne
    simp only [hqueue, hwaiting]
    exact writeReply_one hunread rfl hquiet hrunning
  rw [answer, answerWith, hone]
  unfold settle
  rw [chanOf_setChan_self]
  rfl

/-- The answer to the one message stands in the reply registers and in the journal. -/
theorem replied_answer {s : State} {n : Nat} {m : Msg} (h : Serves s n m) (a : Ans) (hbody : a.body.length ≤ 13) :
    Replied (answer s n a) n m a.status a.detail a.body := by
  simp only [answer_eq h, Replied, chanOf_setChan_self]
  have hreg : ∀ i, i < 15 → tabGet (answeredChan (chanOf s n) m a).reply i 0 =
      ((w32 (2 ^ 16 * a.detail + a.status) :: m.cseq :: a.body)[i]?).getD 0 := fun i hi => tabGet_replyRegs (replyOf m a) (by omega)
  refine ⟨rfl, rfl, rfl, hreg 0 (by decide), hreg 1 (by decide), fun i hi => hreg (i + 2) (by omega), ?_⟩
  exact ⟨_, List.mem_cons_self, rfl⟩

/-! ### A command that brings its structure in its last staged part (R401, R403) -/

/-- The state once the assembly of a channel is taken out of it. -/
def asmTaken (s : State) (n : Nat) : State := updChan s n fun c => { c with asm := none }

theorem serves_asmTaken {s : State} {n : Nat} {m : Msg} (h : Serves s n m) : Serves (asmTaken s n) n m := by
  obtain ⟨hqueue, hunread, hwaiting, hquiet, hrunning⟩ := h
  constructor <;> simpa [asmTaken, updChan]

theorem discardAsm_same {s : State} {n : Nat} {m : Msg} (hcode : ∀ a, (chanOf s n).asm = some a → a.code = m.code) (hst : staged m = true) :
    discardAsm s n m = s := by
  unfold discardAsm
  split
  · rfl
  · next y hy => exact if_pos ⟨hcode y hy, hst⟩

theorem runCmd_run {s : State} {n code : Nat} {m : Msg} {form : Msg → Bool} (k : State → Msg → State) (hnow : headMsg s n = some m)
    (hcode : m.code = code) (hform : form m = true) (hlast : more m = false) (hasm : discardAsm s n m = s) (hpre : preCheck s n m = none) :
    runCmd s n code form k = k s m := by
  simp [runCmd, hnow, hcode, hform, hlast, hasm, hpre]

theorem withStruct_whole {s : State} {n : Nat} {m : Msg} {y : Assembly} (h : StagedWhole s n m y) (x : Option Ctx) (v : Option (Nat × Nat))
    (k : State → List Byte → State) : withStruct s n m x v k = k (asmTaken s n) y.data := by
  obtain ⟨hst, hpart, hfull, hroom, hdest⟩ := h
  simp [withStruct, asmTaken, hst, hpart, hfull, hdest, Nat.not_lt.mpr hroom]

/-! ### The engine form of PEER_TABLE (R371) -/

/-- The engine form of PEER_TABLE at the head of a PF or secure channel, with its structure whole. -/
structure EngineForm (s : State) (n : Nat) (m : Msg) (y : Assembly) : Prop where
  head : Head s n m
  code : m.code = 0x0502
  last : more m = false
  asm : ∀ a, (chanOf s n).asm = some a → a.code = 0x0502
  args : argsOk m [(2, 0xFF01)] = true
  form : argBit m 2 0 = false
  whole : StagedWhole s n m y
  pre : preCheck s n m = none
  pf : fromPf n = true

section
variable {s : State} {n : Nat} {m : Msg} {y : Assembly}

/-- The command passes the checks of every command: what its table says, and the rule of R364, decide the answer. -/
theorem peerEngine_eq (h : EngineForm s n m y) : peerEngine s n = (engErr s y.data).elim
    (if (engTable y.data).id ≠ engineId s ∧ (anyAttached s = true ∨ s.ctxs ≠ []) then denied (asmTaken s n) n 0
      else answer (installEngine (asmTaken s n) (engTable y.data)) n okAns)
    (badAt (asmTaken s n) n) := by
  obtain ⟨⟨hnow, -, -, -⟩, hcode, hlast, hasm, hargs, hform, hwhole, hpre, hpf⟩ := h
  have hst : staged m = true := hwhole.staged
  have hsame : discardAsm s n m = s := discardAsm_same (fun a ha => (hasm a ha).trans hcode.symm) hst
  have herr : engErr (asmTaken s n) y.data = engErr s y.data := rfl
  have hfree : (anyAttached (asmTaken s n) = true ∨ (!(asmTaken s n).ctxs.isEmpty) = true) ↔ (anyAttached s = true ∨ s.ctxs ≠ []) := by
    rw [Bool.not_eq_true', List.isEmpty_eq_false_iff]; rfl
  rw [peerEngine, runCmd_run _ hnow hcode (by simp [hform]) hlast hsame hpre]
  simp only [hpf, hargs, hst, withStruct_whole hwhole, herr, hfree]
  cases engErr s y.data <;> rfl

end

theorem anyAttached_iff (s : State) : anyAttached s = true ↔ ∃ j, j < 8 ∧ spurState s j = 4 := by
  simp [anyAttached, spurAttached]

/-! ### What the detach of a spur leaves alone (R366) -/

/-- The parts of the state by which commands are served and the engine is named. -/
def desk (s : State) : Tab Chan × Cairn × Straps × Module × Option EngineTable := (s.chans, s.cairn, s.straps, s.module, s.engine)

theorem desk_foldl {α : Type} {f : State → α → State} (hf : ∀ s a, desk (f s a) = desk s) (l : List α) (s : State) :
    desk (l.foldl f s) = desk s :=
  List.foldlRecOn l f (motive := fun x => desk x = desk s) rfl fun x hx a _ => (hf x a).trans hx

theorem desk_raiseVec (s : State) (fn n : Nat) : desk (raiseVec s fn n) = desk s := by
  unfold raiseVec
  dsimp only
  split <;> rfl

theorem desk_setEvt (s : State) (mask : Nat) : desk (setEvt s mask) = desk s := by
  unfold setEvt
  dsimp only
  split
  · rfl
  · exact desk_raiseVec ..

theorem desk_logRec (s : State) (r : LogRec) : desk (logRec s r) = desk s := by
  unfold logRec
  dsimp only
  split
  · exact desk_setEvt ..
  · split
    · split <;> rfl
    · rfl

theorem desk_dropFrame (s : State) (p : Nat) (f : RawFrame) : desk (dropFrame s p f) = desk s := desk_logRec ..

theorem desk_setSpurSt (s : State) (j st : Nat) : desk (setSpurSt s j st) = desk s := by
  unfold setSpurSt
  split
  · rfl
  · exact desk_setEvt ..

theorem desk_restartLinks (s : State) (j : Nat) : desk (restartLinks s j) = desk s := by
  refine desk_foldl (fun s p => ?_) _ _
  dsimp only
  split <;> rfl

theorem desk_detachDone (s : State) (j : Nat) : desk (detachDone s j) = desk s := by
  unfold detachDone
  split
  · rw [desk_setSpurSt, desk_restartLinks]
    exact desk_foldl (fun s p => desk_foldl (fun s f => desk_dropFrame s p f) _ _) _ _
  · rfl

theorem desk_beginDetach (s : State) (j : Nat) : desk (beginDetach s j) = desk s := by
  unfold beginDetach
  split
  · rw [desk_detachDone, desk_setSpurSt]
  · rfl

/-- The install sets the table and the assigned part of the ID; the detach of spurs that follows leaves both. -/
theorem desk_installEngine (s : State) (t : EngineTable) : desk (installEngine s t) =
    (s.chans, { s.cairn with engIdHi := BitVec.ofNat 20 (t.id.toNat / 16) }, s.straps, s.module, some t) := by
  refine desk_foldl (fun s j => ?_) _ _
  dsimp only
  split
  · rfl
  · exact desk_beginDetach s j

theorem serves_installEngine {s : State} {n : Nat} {m : Msg} (h : Serves s n m) (t : EngineTable) : Serves (installEngine s t) n m := by
  have hdesk := desk_installEngine s t
  simp only [desk, Prod.mk.injEq] at hdesk
  obtain ⟨hchans, hcairn, hstraps, hmodule, -⟩ := hdesk
  have hchan : chanOf (installEngine s t) n = chanOf s n := by rw [chanOf, hchans]; rfl
  have hserved : served (installEngine s t) n = served s n := by
    simp only [served, stewardOf, hcairn, hstraps, hmodule]
  obtain ⟨hqueue, hunread, hwaiting, hquiet, hrunning⟩ := h
  exact ⟨hchan ▸ hqueue, hchan ▸ hunread, hchan ▸ hwaiting, hchan ▸ hquiet, hserved.trans hrunning⟩

/-! ### The engine's ID (R15, R364) -/

theorem engineId_toNat (s : State) : (engineId s).toNat = 16 * s.cairn.engIdHi.toNat + s.straps.slot.toNat := by
  rw [engineId, BitVec.toNat_ofNat]
  omega

/-- The ID in a header that passes is not 0 above bit 3 and names this slot. -/
theorem engHdrOk_id {s : State} {d : List Byte} (h : engHdrOk s d = true) :
    16 ≤ fld d 4 4 ∧ fld d 4 4 < 2 ^ 24 ∧ fld d 4 4 % 16 = s.straps.slot.toNat := by
  simp only [engHdrOk, Bool.and_eq_true, decide_eq_true_eq, beq_iff_eq] at h
  obtain ⟨⟨⟨⟨⟨⟨⟨⟨-, hlow, hhigh⟩, hslot⟩, -⟩, -⟩, -⟩, -⟩, -⟩, -⟩ := h
  exact ⟨hlow, hhigh, hslot⟩

theorem engErr_none_id {s : State} {d : List Byte} (h : engErr s d = none) :
    16 ≤ fld d 4 4 ∧ fld d 4 4 < 2 ^ 24 ∧ fld d 4 4 % 16 = s.straps.slot.toNat := by
  refine engHdrOk_id (Decidable.byContradiction fun hbad => ?_)
  simp [engErr, hbad] at h

theorem engErr_of_badId {s : State} {d : List Byte} (h : fld d 4 4 / 16 = 0 ∨ fld d 4 4 % 16 ≠ s.straps.slot.toNat) :
    engErr s d = some (0x21, 0) := by
  have hbad : ¬ engHdrOk s d = true := fun hok => by
    obtain ⟨hlow, -, hslot⟩ := engHdrOk_id hok
    omega
  simp [engErr, hbad]

theorem engTable_id_toNat {s : State} {d : List Byte} (h : engErr s d = none) : (engTable d).id.toNat = fld d 4 4 := by
  obtain ⟨-, hlt, -⟩ := engErr_none_id h
  exact Nat.mod_eq_of_lt hlt

theorem engineId_installEngine {s : State} {d : List Byte} (h : engErr s d = none) :
    (engineId (installEngine s (engTable d))).toNat = fld d 4 4 := by
  have hdesk := desk_installEngine s (engTable d)
  simp only [desk, Prod.mk.injEq] at hdesk
  obtain ⟨-, hcairn, hstraps, -, -⟩ := hdesk
  obtain ⟨-, hlt, hslot⟩ := engErr_none_id h
  rw [engineId_toNat, hcairn, hstraps, engTable_id_toNat h, BitVec.toNat_ofNat]
  omega

/-- A spur does not attach while no ID is assigned. -/
theorem spurAttach_unassigned {s : State} (h : s.cairn.engIdHi = 0) (j : Nat) : spurAttach s j = s := by
  unfold spurAttach
  split
  · rfl
  · exact if_pos (.inr (.inr (.inl h)))

/-! ### The three answers of R364 -/

theorem engineId_answer {s : State} {n : Nat} {m : Msg} (h : Serves s n m) (a : Ans) : engineId (answer s n a) = engineId s := by
  rw [answer_eq h]
  rfl

theorem engine_answer {s : State} {n : Nat} {m : Msg} (h : Serves s n m) (a : Ans) : (answer s n a).engine = s.engine := by
  rw [answer_eq h]
  rfl

section
variable {s : State} {n : Nat} {m : Msg} {y : Assembly}

theorem peerEngine_badId (h : EngineForm s n m y) (hbad : fld y.data 4 4 / 16 = 0 ∨ fld y.data 4 4 % 16 ≠ s.straps.slot.toNat) :
    peerEngine s n = badAt (asmTaken s n) n (0x21, 0) := by
  rw [peerEngine_eq h, engErr_of_badId hbad, Option.elim_some]

theorem peerEngine_denied (h : EngineForm s n m y) (herr : engErr s y.data = none) (hbusy : s.ctxs ≠ [] ∨ ∃ j, j < 8 ∧ spurState s j = 4)
    (hid : fld y.data 4 4 ≠ (engineId s).toNat) : peerEngine s n = denied (asmTaken s n) n 0 := by
  have hchange : (engTable y.data).id ≠ engineId s := fun heq => hid (by rw [← heq, engTable_id_toNat herr])
  have hheld : anyAttached s = true ∨ s.ctxs ≠ [] := hbusy.symm.imp_left (anyAttached_iff s).mpr
  rw [peerEngine_eq h, herr, Option.elim_none, if_pos ⟨hchange, hheld⟩]

theorem peerEngine_installed (h : EngineForm s n m y) (herr : engErr s y.data = none)
    (hfree : s.ctxs = [] ∧ ∀ j, j < 8 → spurState s j ≠ 4) :
    peerEngine s n = answer (installEngine (asmTaken s n) (engTable y.data)) n okAns := by
  have hidle : ¬ (anyAttached s = true ∨ s.ctxs ≠ []) := by
    rw [anyAttached_iff]
    rintro (⟨j, hj, hst⟩ | hctxs)
    · exact hfree.2 j hj hst
    · exact hctxs hfree.1
  rw [peerEngine_eq h, herr, Option.elim_none, if_neg fun hcond => hidle hcond.2]

end

/-- Settles O60: a table's ID is checked with its header, a changed one is refused while a spur is Attached or a context open, and an
installed one stands in the engine's ID, the detach of spurs leaving it (R364, R366, R371). -/
theorem engineIdentity : Obligations.EngineIdentity := by
  refine ⟨fun s n m y hhead hcode hlast hasm hargs hform hwhole hpre hpf => ?_, fun s j hid => ?_⟩
  · have h : EngineForm s n m y := ⟨hhead, hcode, hlast, hasm, hargs, hform, hwhole, hpre, hpf⟩
    have hserves : Serves (asmTaken s n) n m := serves_asmTaken (serves_of_head hhead)
    refine ⟨fun hbad => ?_, fun herr hbusy hid => ?_, fun herr hfree => ?_⟩
    · refine ⟨_, congrArg Host.Outcome.next (peerEngine_badId h hbad), engineId_answer hserves _, ?_⟩
      obtain ⟨-, -, -, hstatus, -⟩ := replied_answer hserves (ansBody stBadArg 0x21 [w32 0]) (by decide)
      exact congrArg (fun w : W32 => w.toNat % 2 ^ 16) hstatus
    · exact ⟨_, congrArg Host.Outcome.next (peerEngine_denied h herr hbusy hid), engineId_answer hserves _, engine_answer hserves _,
        replied_answer hserves (ans stDenied 0) (by decide)⟩
    · have hinst : Serves (installEngine (asmTaken s n) (engTable y.data)) n m := serves_installEngine hserves _
      have hid := engineId_installEngine (s := asmTaken s n) herr
      obtain ⟨-, -, hslot⟩ := engErr_none_id herr
      refine ⟨_, congrArg Host.Outcome.next (peerEngine_installed h herr hfree), ?_⟩
      dsimp only
      rw [engineId_answer hinst, hid]
      exact ⟨rfl, hslot, replied_answer hinst okAns (by decide)⟩
  · rw [engineId_toNat] at hid
    have hhigh : s.cairn.engIdHi = 0 := BitVec.eq_of_toNat_eq (show s.cairn.engIdHi.toNat = 0 by omega)
    exact congrArg Host.Outcome.next (spurAttach_unassigned hhigh j)

end Sys2Proof.Claim
end
